-- ==== Sys2Proof/Syntax.lean ====
section
/-! DEFINITION. The instructions and steps of spec/opcode_table.json as data: one constructor per row.
Rows 0 to 153 are instructions with a 64-bit word (R74 to R106). Rows 154 to 238 are steps of the machine that no word
encodes (spec/95_what_each_step_holds.md); their arguments name the units and the choices the step takes. -/

namespace Sys2Proof

/-- The common fields GNEG, GPRED, WS and ER of every word (R74). -/
structure Hdr where
  gneg : Bool
  gpred : BitVec 3
  ws : Bool
  er : Bool
  deriving DecidableEq, Repr

/-- A source operand field (R77). -/
inductive Src where
  | x (i : BitVec 8)
  | g (i : BitVec 6)
  | b (i : BitVec 2)
  | h (i : BitVec 4) (pop : Bool)
  deriving DecidableEq, Repr

/-- A destination operand field (R78). -/
inductive Dst where
  | x (i : BitVec 8)
  | g (i : BitVec 6)
  | h (i : BitVec 4)
  | none
  deriving DecidableEq, Repr

/-- MOD of IALU and IALUI without SAT (R96). -/
structure IMode where
  w64 : Bool
  sgn : Bool
  deriving DecidableEq, Repr

/-- MOD of the IALU minors whose row allows SAT (R147). -/
structure IModeSat where
  w64 : Bool
  sgn : Bool
  sat : Bool
  deriving DecidableEq, Repr

/-- The 5-bit type codes (R89). -/
inductive Fmt where
  | s8 | s16 | s32 | s64 | n8 | n16 | n32 | n64
  | f16 | bf16 | f32 | f64 | e4m3 | e5m2 | e2m1 | i4
  | mx8 | mx4 | ds8 | ds4
  deriving DecidableEq, Repr

/-- The 2-bit float-type codes (R90). -/
inductive FType where
  | f16 | bf16 | f32 | f64
  deriving DecidableEq, Repr

/-- The rounding codes that FALU and HPACK assign (R90, R158). -/
inductive FRnd where
  | rne | rz | ru | rd | rna | dyn
  deriving DecidableEq, Repr

/-- The rounding field of CVT: a mode, or stochastic with its seed operand (R100, R163). -/
inductive CRnd where
  | mode (r : FRnd)
  | sr (seed : Src)
  deriving DecidableEq, Repr

/-- ICMP conditions (R98). -/
inductive ICond where
  | eq | ne | lts | les | gts | ges | ltn | len | gtn | gen
  deriving DecidableEq, Repr

/-- FCMP conditions (R98). -/
inductive FCond where
  | eq | ne | lt | le | gt | ge | unord | ord
  deriving DecidableEq, Repr

/-- SCOPE codes (R86). -/
inductive Scope where
  | cushion | core | die | package | system
  deriving DecidableEq, Repr

/-- SIZE codes (R88). Codes 1 and 3 are kept apart from 0 and 2: the word differs. -/
inductive MSize where
  | n8 | s8 | n16 | s16 | w32 | w64 | w128
  deriving DecidableEq, Repr

/-- ORDER of ATOM and FENCE (R87). -/
inductive Ord3 where
  | plain | acqOrRel | acqRel
  deriving DecidableEq, Repr

/-- AOP codes (R102). -/
inductive Aop where
  | add | mins | maxs | minn | maxn | and | or | xor | exch | cas | fadd
  deriving DecidableEq, Repr

/-- Reduction operations and types (R101). -/
inductive RedOp where
  | add | min | max | and | or | xor
  deriving DecidableEq, Repr

inductive RedTy where
  | s32 | n32 | f32 | f64
  deriving DecidableEq, Repr

/-- SHFL modes (R101). -/
inductive ShflMode where
  | idx | up | down | xor
  deriving DecidableEq, Repr

/-- VOTE modes with the destination each takes (R101). -/
inductive VoteOp where
  | any (d : BitVec 3)
  | all (d : BitVec 3)
  | ballot (d : Dst)
  deriving DecidableEq, Repr

/-- Hadamard sizes of MHAD (R105). -/
inductive HadSize where
  | h16 | h32 | h64
  deriving DecidableEq, Repr

/-- CLINE operations (R262). -/
inductive ClineOp where
  | wb | inv | wbinv
  deriving DecidableEq, Repr

/-- One access to the package control space (R443): offset, width in bytes, value written. -/
structure CtlWrite where
  off : Nat
  bytes : Nat
  value : DWord
  deriving DecidableEq, Repr

/-- What is wrong with a host write as the bridge endpoint receives it (R424). -/
inductive HostFlaw where
  | sound
  | poisoned
  | malformed
  deriving DecidableEq, Repr

/-- What a request that crosses Clegrim Link does at the package that serves it (R214). -/
inductive LinkOp where
  | read (n : Nat)
  /-- the bytes at several addresses in one request: a block-scaled unit whose parts lie in one package (R235) -/
  | gather (pas : List Nat)
  | write (data : List (Nat × Byte))
  | rmw (op : Aop) (n : Nat) (b cmp : DWord)
  /-- answered when the word is zero (R181) -/
  | joinZero
  deriving DecidableEq, Repr

/-- A message on a Clegrim Link port (R15, R21, R214, R222, R259). -/
inductive LinkMsg where
  | request (srcPkg : Nat) (tag : Nat) (kind : BitVec 2) (pa : Nat) (op : LinkOp)
  | reply (tag : Nat) (data : List Byte)
  | refusal (tag : Nat)
  /-- one block of an exchange, which its acknowledgement names: schedule entry, or 16 for a push of an LSYNC, with the packages it has come
  through -/
  | crust (srcPkg : Nat) (die entry id : Nat) (path : List Nat) (asid region block : Nat) (cells : List (Nat × Byte))
  | crustAck (id : Nat)
  | syncAck (sync : Nat) (die : Nat)
  | irq (member vector : Nat)
  | bar4 (srcPkg tag : Nat) (write : Option DWord) (off bytes : Nat)
  | bar4Reply (tag : Nat) (value : DWord)
  /-- a host access through BAR 2 that the bridge forwards to a member (R20) -/
  | bar2 (srcPkg tag asid : Nat) (phys : Bool) (addr : DWord) (op : LinkOp)
  /-- its refusal: reason of 0x0345, or none for poisoned data, and whether it is a protection violation (R20, R22) -/
  | bar2Refusal (tag : Nat) (reason : Option Nat) (violation : Bool)
  deriving DecidableEq, Repr

/-- The instructions and steps of the machine, one constructor per row of spec/opcode_table.json. -/
inductive Instr where
  -- SYS (R93, R166)
  | nop (h : Hdr)
  | yield (h : Hdr)
  | brk (h : Hdr) (code : BitVec 24)
  | trap (h : Hdr) (code : BitVec 24)
  | sysc (h : Hdr) (code : BitVec 24)
  | eret (h : Hdr)
  | csrr (h : Hdr) (d : Dst) (csr : BitVec 12)
  | csrw (h : Hdr) (a : Src) (csr : BitVec 12)
  -- BRA, CALL (R94), FLOW (R95)
  | bra (h : Hdr) (disp : BitVec 24)
  | call (h : Hdr) (disp : BitVec 24)
  | brx (h : Hdr) (a : Src)
  | callx (h : Hdr) (a : Src)
  | ret (h : Hdr)
  | exit (h : Hdr)
  | fork (h : Hdr) (disp : BitVec 24) (a : Src) (e : BitVec 3)
  | spawn (h : Hdr) (disp : BitVec 24) (a : Src) (e : BitVec 3) (home : Bool)
  | join (h : Hdr) (a : Src)
  | bar (h : Hdr) (n : BitVec 2)
  | reform (h : Hdr)
  | resize (h : Hdr) (n : BitVec 5)
  -- IALU (R96, R147)
  | iadd (h : Hdr) (m : IModeSat) (d : Dst) (a b : Src)
  | isub (h : Hdr) (m : IModeSat) (d : Dst) (a b : Src)
  | imul (h : Hdr) (m : IModeSat) (d : Dst) (a b : Src)
  | imulh (h : Hdr) (m : IMode) (d : Dst) (a b : Src)
  | imad (h : Hdr) (m : IModeSat) (d : Dst) (a b c : Src)
  | imadw (h : Hdr) (sgn sat : Bool) (d : Dst) (a b c : Src)
  | idiv (h : Hdr) (m : IModeSat) (d : Dst) (a b : Src)
  | irem (h : Hdr) (m : IMode) (d : Dst) (a b : Src)
  | ineg (h : Hdr) (m : IModeSat) (d : Dst) (a : Src)
  | iabs (h : Hdr) (m : IModeSat) (d : Dst) (a : Src)
  | imin (h : Hdr) (m : IMode) (d : Dst) (a b : Src)
  | imax (h : Hdr) (m : IMode) (d : Dst) (a b : Src)
  | and (h : Hdr) (m : IMode) (d : Dst) (a b : Src)
  | or (h : Hdr) (m : IMode) (d : Dst) (a b : Src)
  | xor (h : Hdr) (m : IMode) (d : Dst) (a b : Src)
  | andn (h : Hdr) (m : IMode) (d : Dst) (a b : Src)
  | shl (h : Hdr) (m : IMode) (d : Dst) (a b : Src)
  | shr (h : Hdr) (m : IMode) (d : Dst) (a b : Src)
  | sar (h : Hdr) (m : IMode) (d : Dst) (a b : Src)
  | rot (h : Hdr) (m : IMode) (d : Dst) (a b : Src)
  | bfx (h : Hdr) (m : IMode) (d : Dst) (a b : Src)
  | bfi (h : Hdr) (m : IMode) (d : Dst) (a b c : Src)
  | popc (h : Hdr) (m : IMode) (d : Dst) (a : Src)
  | clz (h : Hdr) (m : IMode) (d : Dst) (a : Src)
  | brev (h : Hdr) (m : IMode) (d : Dst) (a : Src)
  | sel (h : Hdr) (m : IMode) (d : Dst) (a b : Src) (c : BitVec 3)
  | mov (h : Hdr) (m : IMode) (d : Dst) (a : Src)
  | addmin (h : Hdr) (m : IModeSat) (d : Dst) (a b c : Src)
  | addmax (h : Hdr) (m : IModeSat) (d : Dst) (a b c : Src)
  -- IALUI (R96, R150)
  | iaddImm (h : Hdr) (m : IMode) (d : Dst) (a : Src) (imm : BitVec 24)
  | andImm (h : Hdr) (m : IMode) (d : Dst) (a : Src) (imm : BitVec 24)
  | orImm (h : Hdr) (m : IMode) (d : Dst) (a : Src) (imm : BitVec 24)
  | xorImm (h : Hdr) (m : IMode) (d : Dst) (a : Src) (imm : BitVec 24)
  | shlImm (h : Hdr) (m : IMode) (d : Dst) (a : Src) (imm : BitVec 24)
  | shrImm (h : Hdr) (m : IMode) (d : Dst) (a : Src) (imm : BitVec 24)
  | sarImm (h : Hdr) (m : IMode) (d : Dst) (a : Src) (imm : BitVec 24)
  | iminImm (h : Hdr) (m : IMode) (d : Dst) (a : Src) (imm : BitVec 24)
  | imaxImm (h : Hdr) (m : IMode) (d : Dst) (a : Src) (imm : BitVec 24)
  | icmpImm (h : Hdr) (c : ICond) (d : BitVec 3) (a : Src) (imm : BitVec 24)
  -- MOVI, MOVHI (R97, R152), ADDR (R97, R153)
  | movi (h : Hdr) (d : Dst) (imm : BitVec 32)
  | moviS64 (h : Hdr) (d : Dst) (imm : BitVec 32)
  | movhi (h : Hdr) (d : Dst) (imm : BitVec 32)
  | lea (h : Hdr) (sgn : Bool) (sh : BitVec 3) (d : Dst) (a b : Src)
  | add64 (h : Hdr) (d : Dst) (a b : Src)
  | sub64 (h : Hdr) (d : Dst) (a b : Src)
  -- CMP (R98, R154 to R157)
  | icmp (h : Hdr) (c : ICond) (w64 : Bool) (d : BitVec 3) (a b : Src)
  | fcmp (h : Hdr) (c : FCond) (t : FType) (d : BitVec 3) (a b : Src)
  | pset (h : Hdr) (table : BitVec 4) (d a b : BitVec 3)
  | pmovGet (h : Hdr) (d : Dst)
  | pmovSet (h : Hdr) (a : Src)
  -- FALU (R99, R158, R159)
  | fadd (h : Hdr) (t : FType) (r : FRnd) (d : Dst) (a b : Src)
  | fsub (h : Hdr) (t : FType) (r : FRnd) (d : Dst) (a b : Src)
  | fmul (h : Hdr) (t : FType) (r : FRnd) (d : Dst) (a b : Src)
  | ffma (h : Hdr) (t : FType) (r : FRnd) (d : Dst) (a b c : Src)
  | fmin (h : Hdr) (t : FType) (d : Dst) (a b : Src)
  | fmax (h : Hdr) (t : FType) (d : Dst) (a b : Src)
  | fdiv (h : Hdr) (t : FType) (r : FRnd) (d : Dst) (a b : Src)
  | fsqrt (h : Hdr) (t : FType) (r : FRnd) (d : Dst) (a : Src)
  | fclass (h : Hdr) (t : FType) (d : Dst) (a : Src)
  | fscale (h : Hdr) (t : FType) (r : FRnd) (d : Dst) (a b : Src)
  | frnd (h : Hdr) (t : FType) (r : FRnd) (d : Dst) (a : Src)
  -- FSPEC (R99, R160)
  | frcp (h : Hdr) (t : FType) (d : Dst) (a : Src)
  | frsq (h : Hdr) (t : FType) (d : Dst) (a : Src)
  | fexp2 (h : Hdr) (t : FType) (d : Dst) (a : Src)
  | flog2 (h : Hdr) (t : FType) (d : Dst) (a : Src)
  | fsin (h : Hdr) (t : FType) (d : Dst) (a : Src)
  | fcos (h : Hdr) (t : FType) (d : Dst) (a : Src)
  -- CVT (R100, R163), HPACK (R99, R162)
  | cvt (h : Hdr) (dt st : Fmt) (r : CRnd) (sat : Bool) (d : Dst) (a : Src)
  | hadd2 (h : Hdr) (bf : Bool) (r : FRnd) (d : Dst) (a b : Src)
  | hmul2 (h : Hdr) (bf : Bool) (r : FRnd) (d : Dst) (a b : Src)
  | hfma2 (h : Hdr) (bf : Bool) (r : FRnd) (d : Dst) (a b c : Src)
  -- LANE, EXPD (R101, R185 to R194)
  | shfl (h : Hdr) (m : ShflMode) (d : Dst) (a b : Src)
  | gath (h : Hdr) (d : Dst) (a b : Src)
  | vote (h : Hdr) (v : VoteOp) (a : BitVec 3)
  | redn (h : Hdr) (op : RedOp) (t : RedTy) (d : Dst) (a : Src)
  | scan (h : Hdr) (op : RedOp) (t : RedTy) (excl : Bool) (d : Dst) (a : Src)
  | confl (h : Hdr) (d : Dst) (a : Src)
  | elect (h : Hdr) (d : BitVec 3)
  | expand (h : Hdr) (a b : Src)
  | exstep (h : Hdr) (d : Dst)
  | segred (h : Hdr) (op : RedOp) (t : RedTy) (d : Dst) (a : Src)
  -- Memory (R102, R103, R243 to R263)
  | lds (h : Hdr) (sz : MSize) (win : Bool) (d : Dst) (base : Src) (imm : BitVec 24)
  | sts (h : Hdr) (sz : MSize) (win : Bool) (data base : Src) (imm : BitVec 24)
  | atoms (h : Hdr) (op : Aop) (sz : MSize) (win : Bool) (d : Dst) (base : Src) (off : BitVec 10) (b : Src)
  | ld (h : Hdr) (sz : MSize) (acq : Bool) (sc : Scope) (d : Dst) (base : Src) (imm : BitVec 24)
  | st (h : Hdr) (sz : MSize) (rel : Bool) (sc : Scope) (data base : Src) (imm : BitVec 24)
  | ldn (h : Hdr) (sz : MSize) (d : Dst) (base : Src) (imm : BitVec 24)
  | stn (h : Hdr) (sz : MSize) (data base : Src) (imm : BitVec 24)
  | atom (h : Hdr) (op : Aop) (sz : MSize) (o : Ord3) (sc : Scope) (d : Dst) (base : Src) (off : BitVec 10) (b : Src)
  | red (h : Hdr) (op : Aop) (sz : MSize) (rel : Bool) (sc : Scope) (base : Src) (off : BitVec 10) (b : Src)
  | ljoin (h : Hdr) (sz : MSize) (rel : Bool) (sc : Scope) (base : Src) (off : BitVec 10) (b : Src)
  | ldge (h : Hdr) (sz : MSize) (sc : Scope) (d : Dst) (base : Src) (off : BitVec 10) (b : Src)
  | lsync (h : Hdr) (sc : Scope)
  | fence (h : Hdr) (o : Ord3) (sc : Scope)
  | pref (h : Hdr) (l2 : Bool) (base : Src) (off : BitVec 10)
  | cline (h : Hdr) (op : ClineOp) (sc : Scope) (base : Src) (off : BitVec 10)
  | migrate (h : Hdr) (base : Src) (off : BitVec 10)
  -- CURS (R104, R275 to R287)
  | cload (h : Hdr) (d : BitVec 4) (a : Src)
  | cnext (h : Hdr) (d : BitVec 4)
  | cseek (h : Hdr) (ge : Bool) (d : BitVec 4) (a : Src)
  | cdesc (h : Hdr) (d a : BitVec 4)
  | coit (h : Hdr) (union : Bool) (d : Dst) (a b : BitVec 4)
  | ccrd (h : Hdr) (d : Dst) (a : BitVec 4)
  | cval (h : Hdr) (t : Fmt) (d : Dst) (a : BitVec 4)
  | capp (h : Hdr) (d : BitVec 4) (a b : Src)
  | cfin (h : Hdr) (d : BitVec 4)
  | csave (h : Hdr) (a : BitVec 4) (b : Src)
  | crest (h : Hdr) (d : BitVec 4) (a : Src)
  | cheap (h : Hdr) (d : BitVec 4) (a : Src)
  -- MTX, TILE (R105, R298 to R311)
  | mwld (h : Hdr) (t : Fmt) (a : BitVec 6) (c : BitVec 4)
  | mma (h : Hdr) (t : Fmt) (ovw : Bool) (d : BitVec 3) (a : BitVec 6) (c : BitVec 4)
  | mmag (h : Hdr) (t : Fmt) (ovw : Bool) (d : BitVec 3) (a : BitVec 6) (b : Src) (c : BitVec 4)
  | mhad (h : Hdr) (n : HadSize) (d a : BitVec 6) (c : BitVec 4)
  | mcond (h : Hdr) (t : Fmt) (d a b : BitVec 6) (c : BitVec 4)
  | mzero (h : Hdr) (d : BitVec 3) (c : BitVec 4)
  | mrd (h : Hdr) (t : Fmt) (d : BitVec 6) (a : BitVec 3) (b : BitVec 3) (c : BitVec 4)
  | mqnt (h : Hdr) (t : Fmt) (d a b : BitVec 6) (c : BitVec 4)
  | mxrd (h : Hdr) (a : BitVec 3) (b : Src) (c : BitVec 4)
  | mxadd (h : Hdr) (d : BitVec 3) (a : Src) (c : BitVec 4)
  | mprog (h : Hdr) (n : BitVec 2) (d : Dst)
  | tldef (h : Hdr) (d : BitVec 6) (a b : Src)
  | tlstat (h : Hdr) (d : Dst) (a : BitVec 6)
  | tlrel (h : Hdr) (a : BitVec 6)
  | cvset (h : Hdr) (d : BitVec 4) (a : Src)
  -- ASYNC (R106, R315 to R331)
  | cpy (h : Hdr) (a b c : Src) (tk : BitVec 3)
  | cpytLd (h : Hdr) (d : BitVec 6) (a b : Src) (tk : BitVec 3)
  | cpytSt (h : Hdr) (a : BitVec 6) (b : Src) (tk : BitVec 3)
  | cpytTt (h : Hdr) (d a : BitVec 6) (tk : BitVec 3)
  | cpyd (h : Hdr) (d : BitVec 6) (a b : Src) (tk : BitVec 3)
  | wait (h : Hdr) (mask : BitVec 8)
  | tkset (h : Hdr) (d : BitVec 3) (a : Src)
  | tkrd (h : Hdr) (d : Dst) (a : BitVec 3)
  | route (h : Hdr) (a : Src) (tk : BitVec 3)
  | chcnt (h : Hdr) (d : Dst) (a : BitVec 4)
  -- Steps of fibres, fronds and spores (R35, R44 to R56, R263, R343, R346)
  | forcedPark (fibre : Nat)
  | runStart (core slot : Nat)
  | frondMerge (a b : Nat)
  | replyLand (k : Nat)
  | storeAck (k : Nat)
  | homeRequest (k : Nat)
  | requestRetry (k : Nat)
  | translationWalkComplete (k : Nat)
  | walkerComplete (fibre : Nat)
  | sporeRestore (core bank : Nat)
  | sporeAgePromote (fibre : Nat)
  | landingReserveGrant (die : Nat)
  | sporeLand (fibre : Nat)
  | cushionEnd (cushion : Nat)
  | carpetRetire (carpet : Nat)
  -- Launch and placement (R335 to R341)
  | launchPacketRead (asid q : Nat)
  | launchAccept (asid q : Nat)
  | patchPlace (die : Nat)
  -- Engines (R300, R301, R319 to R328)
  | powerGrant
  | powerGrantReturn (cushion : Nat)
  | matrixOpStart (cushion : Nat)
  | matrixSourceReadDone (cushion : Nat)
  | matrixOpComplete (cushion : Nat)
  | copyDescriptorRead (op : Nat)
  | copyBytesApplied (op : Nat)
  | copyComplete (op : Nat)
  | unfurlBlockDecode (die : Nat)
  | routeRun (die : Nat)
  -- Crust exchange (R222, R259)
  | exchangeFire (die entry : Nat)
  | exchangeReceive (k : Nat)
  | exchangeAck (k : Nat)
  | crustSyncRequest (k : Nat)
  -- Faults (R370, R373)
  | faultRecordPost (queue : Nat)
  | carpetDiscard (carpet : Nat) (keep : List Bool)
  -- Control space, host and bridge (R5, R13 to R25, R443)
  | registerWrite (w : CtlWrite)
  | rcFieldRead (off bytes : Nat)
  | pwpoolWrite (w : CtlWrite)
  | brwinWrite (w : CtlWrite)
  | brgselWrite (w : CtlWrite)
  | interruptMessage (member vector : Nat)
  | hostBar2Read (off n : Nat)
  | hostBar2Write (off : Nat) (data : List Byte) (flaw : HostFlaw)
  | hostBar4Access (off bytes : Nat) (write : Option DWord)
  -- Rhizoid and links (R25, R420 to R424)
  | connEntryWrite (w : CtlWrite)
  | circuitOpened (entry : Nat)
  | circuitClosed (entry : Nat)
  | circuitOpenFail (entry : Nat)
  | rhizoidCircuitLost (entry : Nat)
  | linkFlitReceive (port : Nat) (bad : Bool) (m : LinkMsg)
  | linkPortLost (port : Nat)
  | linkRetrain (w : CtlWrite)
  | linkTrainingDone (port : Nat) (ok : Bool)
  | hostLinkDown
  -- Memory system control (R59, R211, R217, R218, R334)
  | uscfgWrite (w : CtlWrite)
  | l1ResizeDone (core : Nat)
  | crpartWrite (w : CtlWrite)
  | xlinvGo (w : CtlWrite)
  | xlinvComplete
  | crustRegionWrite (w : CtlWrite)
  | crustRegionReady (asid region : Nat)
  | crustRegionRetired (asid region : Nat)
  | launchQueueWrite (w : CtlWrite)
  -- Context switch (R348 to R350)
  | ctxSuspend (w : CtlWrite)
  | ctxSuspendComplete (asid : Nat)
  | ctxResume (w : CtlWrite)
  -- Fault queues and release (R369, R374)
  | faultQueueControlWrite (w : CtlWrite)
  | faultAnswerSyscall (w : CtlWrite)
  | faultRetry (w : CtlWrite)
  | faultKill (w : CtlWrite)
  | frozenMasterRelease (w : CtlWrite)
  -- Reset, debug, watchdogs, errors, power manager (R375, R376, R417 to R428)
  | dieReset (w : CtlWrite)
  | dieResetDone (die : Nat) (ok : Bool)
  | packageReset (w : CtlWrite)
  | debugHaltWrite (w : CtlWrite)
  | dieHalted (die : Nat)
  | debugAttachWrite (w : CtlWrite)
  | brkRelease (w : CtlWrite)
  | dieTimeout (k : Nat)
  | linkTimeout (k : Nat)
  | uncorrectableError (structure_ : Nat) (die : Nat) (unit : Nat) (pa : Nat) (sole : Bool)
  | scrub (structure_ : Nat) (die : Nat) (corrected : Bool)
  | powerCapEvent (size : BitVec 16) (gate : Nat)
  | hostLinkUp
  | resetRelease (pkgid : BitVec 12) (lkbridge : BitVec 5)
  | engineReadReply (op : Nat)
  deriving DecidableEq, Repr

end Sys2Proof
end

