-- ==== Sys2Proof/Config.lean ====
section
/-! DEFINITION. What the manual leaves to the implementation and the values it leaves open: constants without a body, so
that nothing can be proved of them. Each is named in the assumption log. -/

namespace Sys2Proof.Config

/-- A fresh free value for the n-th draw (State.oracle), where the manual states no value (log entry 3). -/
opaque freeValue : Nat → BitVec 64

/-- FSPEC in f32 and f64: which of the values within the error bound of R160 is delivered, by minor, format and operand. -/
opaque fspecPick : Nat → FType → BitVec 64 → Nat

/-- The hash that chooses a link port from a route mask, by requesting core and destination package (R17). -/
opaque portHash : Nat → Nat → Nat

/-- The set of an L1 or metadata cache line, by line number and number of sets (R205, R273). -/
opaque cacheSet : Nat → Nat → Nat

/-- The L2 line evicted from a full set (R209), and the translation evicted from a full cache (R216): an index below the
number given. -/
opaque l2Victim : Nat → Nat → Nat
opaque tlbVictim : Nat → Nat → Nat

/-- The die that homes the argument of SPAWN.home when its address has no translation (R179, R203). -/
opaque spawnDie : BitVec 64 → Nat

/-- TGTDIE of a spore whose AFFINITY is 0 or 1, for which R41 gives the field no meaning, by handle and age (log entry 37). -/
opaque idleTarget : Nat → Nat → Nat

/-- QLINK of a spore, the queue link that the hardware owns (R41), by handle and age. -/
opaque queueLink : Nat → Nat → BitVec 64

/-- Entries of a core's write-order buffer, and bytes that an entry takes in a record or spill area (R246). -/
opaque heldRoom : Nat
opaque heldBytes : Nat

/-- Bytes that a spilled entry of a matrix queue takes in a record or spill area (R299). -/
opaque mopBytes : Nat

/-- Bytes a cushion takes in the spill area, whose layout is the hardware's own: by its scratch footprint, whether it is a matrix
cushion, and the bytes of its spores (R348, R349). -/
opaque saveBytes : Nat → Bool → Nat → Nat

end Sys2Proof.Config
end

