-- ==== Sys2Proof/Decode.lean ====
section
/-! DEFINITION. Instruction words: the fields of the formats (R74 to R79), the decoder (R92 to R106, R387) and, after it,
the encoder. The decoder is total: a word it refuses is named by the bits of its illegal field (R91, R386 row 0x0100). -/

namespace Sys2Proof

/-- The outcome of decoding: a value, or the lowest and highest bit of the illegal field. Of several illegal fields the one
with the highest bit is kept (R387). -/
inductive Dec (α : Type) where
  | ok (a : α)
  | bad (lo hi : Nat)
  deriving DecidableEq, Repr

/-- Apply a decoded function to a decoded field; the field with the highest bit is reported (R387). -/
def Dec.app {α β : Type} (f : Dec (α → β)) (a : Dec α) : Dec β :=
  match f, a with
  | .ok f, .ok a => .ok (f a)
  | .ok _, .bad l h => .bad l h
  | .bad l h, .ok _ => .bad l h
  | .bad l h, .bad l' h' => if h' ≤ h then .bad l h else .bad l' h'

/-- Require a field to hold a fixed or assigned value (R79, R91). -/
def Dec.need {α : Type} (f : Dec α) (c : Bool) (lo hi : Nat) : Dec α :=
  Dec.app (match f with | .ok a => .ok (fun _ => a) | .bad l h => .bad l h) (if c then .ok () else .bad lo hi)

def Dec.toOption {α : Type} : Dec α → Option α
  | .ok a => some a
  | .bad _ _ => none

/-- Lift an optional value; `none` is an illegal field at bits hi to lo. -/
def Dec.of {α : Type} (a : Option α) (lo hi : Nat) : Dec α :=
  match a with
  | some a => .ok a
  | none => .bad lo hi

/-! ## Fields of the word -/

/-- RG (R75). -/
structure RG where
  d : BitVec 10
  a : BitVec 10
  b : BitVec 10
  c : BitVec 10
  minor : BitVec 6
  mod : BitVec 6
  deriving DecidableEq, Repr

/-- IM (R75). -/
structure IM where
  d : BitVec 10
  a : BitVec 10
  imm : BitVec 24
  minor : BitVec 4
  mod : BitVec 4
  deriving DecidableEq, Repr

/-- LI (R75). -/
structure LI where
  d : BitVec 10
  imm : BitVec 32
  mod : BitVec 10
  deriving DecidableEq, Repr

/-- ME (R75). -/
structure ME where
  data : BitVec 10
  base : BitVec 10
  imm : BitVec 24
  size : BitVec 3
  order : BitVec 2
  scope : BitVec 3
  deriving DecidableEq, Repr

/-- MA, the split of IMM24 in the atomic and crust majors (R76). -/
structure MA where
  data : BitVec 10
  base : BitVec 10
  aop : BitVec 4
  b : BitVec 10
  off : BitVec 10
  size : BitVec 3
  order : BitVec 2
  scope : BitVec 3
  deriving DecidableEq, Repr

/-- JU (R75). -/
structure JU where
  disp : BitVec 24
  a : BitVec 10
  minor : BitVec 6
  e : BitVec 10
  mod : BitVec 2
  deriving DecidableEq, Repr

def RG.bits (r : RG) : BitVec 52 := r.d ++ r.a ++ r.b ++ r.c ++ r.minor ++ r.mod
def IM.bits (r : IM) : BitVec 52 := r.d ++ r.a ++ r.imm ++ r.minor ++ r.mod
def LI.bits (r : LI) : BitVec 52 := r.d ++ r.imm ++ r.mod
def ME.bits (r : ME) : BitVec 52 := r.data ++ r.base ++ r.imm ++ r.size ++ r.order ++ r.scope
def MA.bits (r : MA) : BitVec 52 := r.data ++ r.base ++ r.aop ++ r.b ++ r.off ++ r.size ++ r.order ++ r.scope
def JU.bits (r : JU) : BitVec 52 := r.disp ++ r.a ++ r.minor ++ r.e ++ r.mod

/-- The whole word from MAJOR, the common fields and bits 51 to 0 (R74). -/
def packWord (major : BitVec 6) (h : Hdr) (body : BitVec 52) : BitVec 64 :=
  major ++ BitVec.ofBool h.gneg ++ h.gpred ++ BitVec.ofBool h.ws ++ BitVec.ofBool h.er ++ body

def wordMajor (w : BitVec 64) : BitVec 6 := w.extractLsb' 58 6

def wordHdr (w : BitVec 64) : Hdr :=
  { gneg := w.getLsbD 57, gpred := w.extractLsb' 54 3, ws := w.getLsbD 53, er := w.getLsbD 52 }

def wordRG (w : BitVec 64) : RG :=
  { d := w.extractLsb' 42 10, a := w.extractLsb' 32 10, b := w.extractLsb' 22 10, c := w.extractLsb' 12 10,
    minor := w.extractLsb' 6 6, mod := w.extractLsb' 0 6 }

def wordIM (w : BitVec 64) : IM :=
  { d := w.extractLsb' 42 10, a := w.extractLsb' 32 10, imm := w.extractLsb' 8 24, minor := w.extractLsb' 4 4,
    mod := w.extractLsb' 0 4 }

def wordLI (w : BitVec 64) : LI :=
  { d := w.extractLsb' 42 10, imm := w.extractLsb' 10 32, mod := w.extractLsb' 0 10 }

def wordME (w : BitVec 64) : ME :=
  { data := w.extractLsb' 42 10, base := w.extractLsb' 32 10, imm := w.extractLsb' 8 24, size := w.extractLsb' 5 3,
    order := w.extractLsb' 3 2, scope := w.extractLsb' 0 3 }

def wordMA (w : BitVec 64) : MA :=
  { data := w.extractLsb' 42 10, base := w.extractLsb' 32 10, aop := w.extractLsb' 28 4, b := w.extractLsb' 18 10,
    off := w.extractLsb' 8 10, size := w.extractLsb' 5 3, order := w.extractLsb' 3 2, scope := w.extractLsb' 0 3 }

def wordJU (w : BitVec 64) : JU :=
  { disp := w.extractLsb' 28 24, a := w.extractLsb' 18 10, minor := w.extractLsb' 12 6, e := w.extractLsb' 2 10,
    mod := w.extractLsb' 0 2 }

/-! ## Operand fields and codes, each with its decoder -/

/-- A source field at bits lo+9 to lo (R77). A nonzero fixed bit is the illegal part (R91). -/
def decSrc (lo : Nat) (f : BitVec 10) : Dec Src :=
  match (f.extractLsb' 8 2).toNat with
  | 0 => .ok (.x (f.extractLsb' 0 8))
  | 1 => if f.extractLsb' 6 2 = 0 then .ok (.g (f.extractLsb' 0 6)) else .bad (lo + 6) (lo + 7)
  | 2 => if f.extractLsb' 2 6 = 0 then .ok (.b (f.extractLsb' 0 2)) else .bad (lo + 2) (lo + 7)
  | _ => if f.extractLsb' 5 3 = 0 then .ok (.h (f.extractLsb' 0 4) (f.getLsbD 4)) else .bad (lo + 5) (lo + 7)

/-- A destination field at bits lo+9 to lo (R78). -/
def decDst (lo : Nat) (f : BitVec 10) : Dec Dst :=
  match (f.extractLsb' 8 2).toNat with
  | 0 => .ok (.x (f.extractLsb' 0 8))
  | 1 => if f.extractLsb' 6 2 = 0 then .ok (.g (f.extractLsb' 0 6)) else .bad (lo + 6) (lo + 7)
  | 2 => if f.extractLsb' 4 4 = 0 then .ok (.h (f.extractLsb' 0 4)) else .bad (lo + 4) (lo + 7)
  | _ => if f.extractLsb' 0 8 = 0 then .ok .none else .bad lo (lo + 7)

/-- An operand of another kind: class 00 and an index of n bits (R79, R387). -/
def decKind (n lo : Nat) (f : BitVec 10) : Dec (BitVec n) :=
  if f.toNat < 2 ^ n then .ok (f.setWidth n) else .bad lo (lo + 9)

def decFmt (c : BitVec 5) : Option Fmt :=
  match c.toNat with
  | 0 => some .s8 | 1 => some .s16 | 2 => some .s32 | 3 => some .s64
  | 4 => some .n8 | 5 => some .n16 | 6 => some .n32 | 7 => some .n64
  | 8 => some .f16 | 9 => some .bf16 | 10 => some .f32 | 11 => some .f64
  | 12 => some .e4m3 | 13 => some .e5m2 | 14 => some .e2m1 | 15 => some .i4
  | 16 => some .mx8 | 17 => some .mx4 | 18 => some .ds8 | 19 => some .ds4
  | _ => none

def encFmt : Fmt → BitVec 5
  | .s8 => 0 | .s16 => 1 | .s32 => 2 | .s64 => 3 | .n8 => 4 | .n16 => 5 | .n32 => 6 | .n64 => 7
  | .f16 => 8 | .bf16 => 9 | .f32 => 10 | .f64 => 11 | .e4m3 => 12 | .e5m2 => 13 | .e2m1 => 14 | .i4 => 15
  | .mx8 => 16 | .mx4 => 17 | .ds8 => 18 | .ds4 => 19

/-- A type code CVT and CVAL accept (R163, R275): 0 to 15. -/
def Fmt.scalar (f : Fmt) : Bool := decide ((encFmt f).toNat < 16)

/-- A float destination of CVT (R163). -/
def Fmt.isFloat : Fmt → Bool
  | .f16 | .bf16 | .f32 | .f64 | .e4m3 | .e5m2 | .e2m1 => true
  | _ => false

/-- A block format, codes 16 to 19 (R89). -/
def Fmt.isBlock : Fmt → Bool
  | .mx8 | .mx4 | .ds8 | .ds4 => true
  | _ => false

/-- A type the matrix operand fields accept (R387). -/
def Fmt.matrix : Fmt → Bool
  | .s16 | .s32 | .s64 | .n16 | .n32 | .n64 => false
  | _ => true

def decFType (c : BitVec 2) : FType :=
  match c.toNat with
  | 0 => .f16 | 1 => .bf16 | 2 => .f32 | _ => .f64

def encFType : FType → BitVec 2
  | .f16 => 0 | .bf16 => 1 | .f32 => 2 | .f64 => 3

def decFRnd (c : BitVec 3) : Option FRnd :=
  match c.toNat with
  | 0 => some .rne | 1 => some .rz | 2 => some .ru | 3 => some .rd | 4 => some .rna | 7 => some .dyn
  | _ => none

def encFRnd : FRnd → BitVec 3
  | .rne => 0 | .rz => 1 | .ru => 2 | .rd => 3 | .rna => 4 | .dyn => 7

def decICond (c : BitVec 4) : Option ICond :=
  match c.toNat with
  | 0 => some .eq | 1 => some .ne | 2 => some .lts | 3 => some .les | 4 => some .gts | 5 => some .ges
  | 6 => some .ltn | 7 => some .len | 8 => some .gtn | 9 => some .gen
  | _ => none

def encICond : ICond → BitVec 4
  | .eq => 0 | .ne => 1 | .lts => 2 | .les => 3 | .gts => 4 | .ges => 5 | .ltn => 6 | .len => 7 | .gtn => 8 | .gen => 9

def decFCond (c : BitVec 4) : Option FCond :=
  match c.toNat with
  | 0 => some .eq | 1 => some .ne | 2 => some .lt | 3 => some .le | 4 => some .gt | 5 => some .ge
  | 6 => some .unord | 7 => some .ord
  | _ => none

def encFCond : FCond → BitVec 4
  | .eq => 0 | .ne => 1 | .lt => 2 | .le => 3 | .gt => 4 | .ge => 5 | .unord => 6 | .ord => 7

def decScope (c : BitVec 3) : Option Scope :=
  match c.toNat with
  | 0 => some .cushion | 1 => some .core | 2 => some .die | 3 => some .package | 4 => some .system
  | _ => none

def encScope : Scope → BitVec 3
  | .cushion => 0 | .core => 1 | .die => 2 | .package => 3 | .system => 4

def decMSize (c : BitVec 3) : Option MSize :=
  match c.toNat with
  | 0 => some .n8 | 1 => some .s8 | 2 => some .n16 | 3 => some .s16 | 4 => some .w32 | 5 => some .w64 | 6 => some .w128
  | _ => none

def encMSize : MSize → BitVec 3
  | .n8 => 0 | .s8 => 1 | .n16 => 2 | .s16 => 3 | .w32 => 4 | .w64 => 5 | .w128 => 6

def decOrd3 (c : BitVec 2) : Option Ord3 :=
  match c.toNat with
  | 0 => some .plain | 1 => some .acqOrRel | 2 => some .acqRel
  | _ => none

def encOrd3 : Ord3 → BitVec 2
  | .plain => 0 | .acqOrRel => 1 | .acqRel => 2

/-- ORDER 0 or 1 (R87); 2 and 3 are unassigned here (R387). -/
def decOrd2 (c : BitVec 2) : Option Bool :=
  match c.toNat with
  | 0 => some false | 1 => some true
  | _ => none

def encOrd2 (o : Bool) : BitVec 2 := if o then 1 else 0

def decAop (c : BitVec 4) : Option Aop :=
  match c.toNat with
  | 0 => some .add | 1 => some .mins | 2 => some .maxs | 3 => some .minn | 4 => some .maxn | 5 => some .and
  | 6 => some .or | 7 => some .xor | 8 => some .exch | 9 => some .cas | 10 => some .fadd
  | _ => none

def encAop : Aop → BitVec 4
  | .add => 0 | .mins => 1 | .maxs => 2 | .minn => 3 | .maxn => 4 | .and => 5 | .or => 6 | .xor => 7
  | .exch => 8 | .cas => 9 | .fadd => 10

def decRedOp (c : BitVec 3) : Option RedOp :=
  match c.toNat with
  | 0 => some .add | 1 => some .min | 2 => some .max | 3 => some .and | 4 => some .or | 5 => some .xor
  | _ => none

def encRedOp : RedOp → BitVec 3
  | .add => 0 | .min => 1 | .max => 2 | .and => 3 | .or => 4 | .xor => 5

def decRedTy (c : BitVec 2) : RedTy :=
  match c.toNat with
  | 0 => .s32 | 1 => .n32 | 2 => .f32 | _ => .f64

def encRedTy : RedTy → BitVec 2
  | .s32 => 0 | .n32 => 1 | .f32 => 2 | .f64 => 3

/-- AND, OR and XOR exist on integer types only (R101). -/
def redLegal (op : RedOp) (t : RedTy) : Bool :=
  match op, t with
  | .and, .f32 | .and, .f64 | .or, .f32 | .or, .f64 | .xor, .f32 | .xor, .f64 => false
  | _, _ => true

def decShflMode (c : BitVec 2) : ShflMode :=
  match c.toNat with
  | 0 => .idx | 1 => .up | 2 => .down | _ => .xor

def encShflMode : ShflMode → BitVec 2
  | .idx => 0 | .up => 1 | .down => 2 | .xor => 3

def decHadSize (c : BitVec 2) : Option HadSize :=
  match c.toNat with
  | 0 => some .h16 | 1 => some .h32 | 2 => some .h64
  | _ => none

def encHadSize : HadSize → BitVec 2
  | .h16 => 0 | .h32 => 1 | .h64 => 2

def decClineOp (c : BitVec 3) : Option ClineOp :=
  match c.toNat with
  | 0 => some .wb | 1 => some .inv | 2 => some .wbinv
  | _ => none

def encClineOp : ClineOp → BitVec 3
  | .wb => 0 | .inv => 1 | .wbinv => 2

/-- The sizes ATOMS, ATOM and RED take for an operation (R253, R387). -/
def aopSizeLegal (op : Aop) (sz : MSize) : Bool :=
  match op, sz with
  | .fadd, .w32 | .fadd, .w64 => true
  | .fadd, _ => false
  | _, .w128 => false
  | _, _ => true

/-! ## The decoder -/

def RG.fD (r : RG) : Dec Dst := decDst 42 r.d
def RG.fA (r : RG) : Dec Src := decSrc 32 r.a
def RG.fB (r : RG) : Dec Src := decSrc 22 r.b
def RG.fC (r : RG) : Dec Src := decSrc 12 r.c
def RG.kD (n : Nat) (r : RG) : Dec (BitVec n) := decKind n 42 r.d
def RG.kA (n : Nat) (r : RG) : Dec (BitVec n) := decKind n 32 r.a
def RG.kB (n : Nat) (r : RG) : Dec (BitVec n) := decKind n 22 r.b
def RG.kC (n : Nat) (r : RG) : Dec (BitVec n) := decKind n 12 r.c

/-- An unused D holds 0x300, an unused source zero (R79). -/
def Dec.noD {α : Type} (x : Dec α) (r : RG) : Dec α := x.need (r.d == 0x300#10) 42 51
def Dec.noA {α : Type} (x : Dec α) (r : RG) : Dec α := x.need (r.a == 0#10) 32 41
def Dec.noB {α : Type} (x : Dec α) (r : RG) : Dec α := x.need (r.b == 0#10) 22 31
def Dec.noC {α : Type} (x : Dec α) (r : RG) : Dec α := x.need (r.c == 0#10) 12 21
def Dec.noMod {α : Type} (x : Dec α) (r : RG) : Dec α := x.need (r.mod == 0#6) 0 5

def RG.mode (r : RG) : IMode := { w64 := r.mod.getLsbD 0, sgn := r.mod.getLsbD 1 }
def RG.modeSat (r : RG) : IModeSat :=
  { w64 := r.mod.getLsbD 0, sgn := r.mod.getLsbD 1, sat := r.mod.getLsbD 2 }

/-- MOD [5:3] of IALU is zero (R96). -/
def Dec.modHi {α : Type} (x : Dec α) (r : RG) : Dec α := x.need (r.mod.extractLsb' 3 3 == 0#3) 3 5
/-- SAT is zero where the row of R147 says no (R387). -/
def Dec.noSat {α : Type} (x : Dec α) (r : RG) : Dec α := (x.need (r.mod.getLsbD 2 == false) 2 2).modHi r

/-- IALU, major 0x04 (R96, R147). -/
def decIalu (h : Hdr) (r : RG) : Dec Instr :=
  let s2 (f : Hdr → IModeSat → Dst → Src → Src → Instr) : Dec Instr :=
    ((((Dec.ok (f h r.modeSat)).app r.fD).app r.fA).app r.fB).noC r |>.modHi r
  let s3 (f : Hdr → IModeSat → Dst → Src → Src → Src → Instr) : Dec Instr :=
    (((((Dec.ok (f h r.modeSat)).app r.fD).app r.fA).app r.fB).app r.fC).modHi r
  let s1 (f : Hdr → IModeSat → Dst → Src → Instr) : Dec Instr :=
    (((Dec.ok (f h r.modeSat)).app r.fD).app r.fA).noB r |>.noC r |>.modHi r
  let n2 (f : Hdr → IMode → Dst → Src → Src → Instr) : Dec Instr :=
    ((((Dec.ok (f h r.mode)).app r.fD).app r.fA).app r.fB).noC r |>.noSat r
  let n3 (f : Hdr → IMode → Dst → Src → Src → Src → Instr) : Dec Instr :=
    (((((Dec.ok (f h r.mode)).app r.fD).app r.fA).app r.fB).app r.fC).noSat r
  let n1 (f : Hdr → IMode → Dst → Src → Instr) : Dec Instr :=
    (((Dec.ok (f h r.mode)).app r.fD).app r.fA).noB r |>.noC r |>.noSat r
  match r.minor.toNat with
  | 0 => s2 .iadd
  | 1 => s2 .isub
  | 2 => s2 .imul
  | 3 => n2 .imulh
  | 4 => s3 .imad
  | 5 => ((((((Dec.ok (Instr.imadw h (r.mod.getLsbD 1) (r.mod.getLsbD 2))).app r.fD).app r.fA).app r.fB).app r.fC).need
      (r.mod.getLsbD 0 == false) 0 0).modHi r
  | 6 => s2 .idiv
  | 7 => n2 .irem
  | 8 => s1 .ineg
  | 9 => s1 .iabs
  | 10 => n2 .imin
  | 11 => n2 .imax
  | 12 => n2 .and
  | 13 => n2 .or
  | 14 => n2 .xor
  | 15 => n2 .andn
  | 16 => n2 .shl
  | 17 => n2 .shr
  | 18 => n2 .sar
  | 19 => n2 .rot
  | 20 => n2 .bfx
  | 21 => n3 .bfi
  | 22 => n1 .popc
  | 23 => n1 .clz
  | 24 => n1 .brev
  | 25 => (((((Dec.ok (Instr.sel h r.mode)).app r.fD).app r.fA).app r.fB).app (r.kC 3)).noSat r
  | 26 => n1 .mov
  | 27 => s3 .addmin
  | 28 => s3 .addmax
  | _ => .bad 6 11

/-- IALUI, major 0x05 (R96, R150). -/
def decIalui (h : Hdr) (r : IM) : Dec Instr :=
  let n (f : Hdr → IMode → Dst → Src → BitVec 24 → Instr) : Dec Instr :=
    (((Dec.ok (fun d a => f h { w64 := r.mod.getLsbD 0, sgn := r.mod.getLsbD 1 } d a r.imm)).app (decDst 42 r.d)).app
      (decSrc 32 r.a)).need (r.mod.extractLsb' 2 2 == 0#2) 2 3
  match r.minor.toNat with
  | 0 => n .iaddImm
  | 1 => n .andImm
  | 2 => n .orImm
  | 3 => n .xorImm
  | 4 => n .shlImm
  | 5 => n .shrImm
  | 6 => n .sarImm
  | 7 => n .iminImm
  | 8 => n .imaxImm
  | 9 => ((Dec.ok (fun c d a => Instr.icmpImm h c d a r.imm)).app (Dec.of (decICond r.mod) 0 3)).app (decKind 3 42 r.d)
      |>.app (decSrc 32 r.a)
  | _ => .bad 4 7

/-- SYS, major 0x00 (R93). -/
def decSys (h : Hdr) (r : IM) : Dec Instr :=
  let noD (x : Dec Instr) : Dec Instr := x.need (r.d == 0x300#10) 42 51
  let noA (x : Dec Instr) : Dec Instr := x.need (r.a == 0#10) 32 41
  let noImm (x : Dec Instr) : Dec Instr := x.need (r.imm == 0#24) 8 31
  let noMod (x : Dec Instr) : Dec Instr := x.need (r.mod == 0#4) 0 3
  let csr (x : Dec Instr) : Dec Instr := x.need (r.imm.extractLsb' 12 12 == 0#12) 20 31
  match r.minor.toNat with
  | 0 => noMod (noImm (noA (noD (.ok (.nop h)))))
  | 1 => noMod (noImm (noA (noD (.ok (.yield h)))))
  | 2 => noMod (noA (noD (.ok (.brk h r.imm))))
  | 3 => noMod (noA (noD (.ok (.trap h r.imm))))
  | 4 => noMod (noA (noD (.ok (.sysc h r.imm))))
  | 5 => noMod (noImm (noA (noD (.ok (.eret h)))))
  | 6 => noMod (csr (noA ((Dec.ok (fun d => Instr.csrr h d (r.imm.extractLsb' 0 12))).app (decDst 42 r.d))))
  | 7 => noMod (csr (noD ((Dec.ok (fun a => Instr.csrw h a (r.imm.extractLsb' 0 12))).app (decSrc 32 r.a))))
  | _ => .bad 4 7

/-- BRA and CALL (R94) use DISP24 only. -/
def decBra (f : BitVec 24 → Instr) (r : JU) : Dec Instr :=
  (((Dec.ok (f r.disp)).need (r.a == 0#10) 18 27).need (r.minor == 0#6) 12 17).need (r.e == 0#10) 2 11
    |>.need (r.mod == 0#2) 0 1

/-- FLOW, major 0x03 (R95). -/
def decFlow (h : Hdr) (r : JU) : Dec Instr :=
  let a : Dec Src := decSrc 18 r.a
  let e : Dec (BitVec 3) := decKind 3 2 r.e
  let noDisp (x : Dec Instr) : Dec Instr := x.need (r.disp == 0#24) 28 51
  let noA (x : Dec Instr) : Dec Instr := x.need (r.a == 0#10) 18 27
  let noE (x : Dec Instr) : Dec Instr := x.need (r.e == 0#10) 2 11
  let noMod (x : Dec Instr) : Dec Instr := x.need (r.mod == 0#2) 0 1
  match r.minor.toNat with
  | 0 => noMod (noE (noDisp ((Dec.ok (Instr.brx h)).app a)))
  | 1 => noMod (noE (noDisp ((Dec.ok (Instr.callx h)).app a)))
  | 2 => noMod (noE (noA (noDisp (.ok (.ret h)))))
  | 3 => noMod (noE (noA (noDisp (.ok (.exit h)))))
  | 4 => noMod (((Dec.ok (Instr.fork h r.disp)).app a).app e)
  | 5 => (((Dec.ok (fun a e => Instr.spawn h r.disp a e (r.mod.getLsbD 0))).app a).app e).need (r.mod.getLsbD 1 == false) 0 1
  | 6 => noMod (noE (noDisp ((Dec.ok (Instr.join h)).app a)))
  | 7 => noE (noA (noDisp (.ok (.bar h r.mod))))
  | 8 => noMod (noE (noA (noDisp (.ok (.reform h)))))
  | 9 => noMod (noE (noA ((Dec.ok (Instr.resize h (r.disp.extractLsb' 0 5))).need (r.disp.extractLsb' 5 19 == 0#19) 33 51)))
  | _ => .bad 12 17

/-- MOVI and MOVHI (R97, R152). -/
def decMovi (h : Hdr) (hiHalf : Bool) (r : LI) : Dec Instr :=
  let f : Dst → Instr := fun d =>
    if hiHalf then .movhi h d r.imm else if r.mod.getLsbD 0 then .moviS64 h d r.imm else .movi h d r.imm
  (((Dec.ok f).app (decDst 42 r.d)).need (r.mod.extractLsb' 1 9 == 0#9) 1 9).need (!hiHalf || r.mod.getLsbD 0) 0 0

/-- ADDR, major 0x08 (R97, R153). -/
def decAddr (h : Hdr) (r : RG) : Dec Instr :=
  match r.minor.toNat with
  | 0 => ((((Dec.ok (Instr.lea h (r.mod.getLsbD 3) (r.mod.extractLsb' 0 3))).app r.fD).app r.fA).app r.fB).noC r
      |>.need (r.mod.extractLsb' 4 2 == 0#2) 4 5
  | 1 => ((((Dec.ok (Instr.add64 h)).app r.fD).app r.fA).app r.fB).noC r |>.noMod r
  | 2 => ((((Dec.ok (Instr.sub64 h)).app r.fD).app r.fA).app r.fB).noC r |>.noMod r
  | _ => .bad 6 11

/-- CMP, major 0x09 (R98). -/
def decCmp (h : Hdr) (r : RG) : Dec Instr :=
  match r.minor.toNat with
  | 0 => (((((Dec.ok (fun c => Instr.icmp h c (r.mod.getLsbD 4))).app (Dec.of (decICond (r.mod.extractLsb' 0 4)) 0 3)).app
      (r.kD 3)).app r.fA).app r.fB).noC r |>.need (r.mod.getLsbD 5 == false) 5 5
  | 1 => (((((Dec.ok (fun c => Instr.fcmp h c (decFType (r.mod.extractLsb' 4 2)))).app
      (Dec.of (decFCond (r.mod.extractLsb' 0 4)) 0 3)).app (r.kD 3)).app r.fA).app r.fB).noC r
  | 2 => ((((Dec.ok (Instr.pset h (r.mod.extractLsb' 0 4))).app (r.kD 3)).app (r.kA 3)).app (r.kB 3)).noC r
      |>.need (r.mod.extractLsb' 4 2 == 0#2) 4 5
  | 3 =>
    let hiZero (x : Dec Instr) : Dec Instr := (x.noB r |>.noC r).need (r.mod.extractLsb' 1 5 == 0#5) 1 5
    if r.mod.getLsbD 0 then
      hiZero (((Dec.ok (Instr.pmovSet h)).app r.fA).need (r.d == 0#10) 42 51)
    else
      hiZero (((Dec.ok (Instr.pmovGet h)).app r.fD).noA r)
  | _ => .bad 6 11

/-- FALU, major 0x0A (R99, R158). FMIN, FMAX and FCLASS need rounding 7 (R387). -/
def decFalu (h : Hdr) (r : RG) : Dec Instr :=
  let t := decFType (r.mod.extractLsb' 4 2)
  let rnd : Dec FRnd := Dec.of (decFRnd (r.mod.extractLsb' 1 3)) 1 3
  let bit0 (x : Dec Instr) : Dec Instr := x.need (r.mod.getLsbD 0 == false) 0 0
  let r7 (x : Dec Instr) : Dec Instr := x.need (r.mod.extractLsb' 1 3 == 7#3) 1 3
  let f2 (f : Hdr → FType → FRnd → Dst → Src → Src → Instr) : Dec Instr :=
    bit0 (((((Dec.ok (f h t)).app rnd).app r.fD).app r.fA).app r.fB |>.noC r)
  let f1 (f : Hdr → FType → FRnd → Dst → Src → Instr) : Dec Instr :=
    bit0 ((((Dec.ok (f h t)).app rnd).app r.fD).app r.fA |>.noB r |>.noC r)
  match r.minor.toNat with
  | 0 => f2 .fadd
  | 1 => f2 .fsub
  | 2 => f2 .fmul
  | 3 => bit0 ((((((Dec.ok (Instr.ffma h t)).app rnd).app r.fD).app r.fA).app r.fB).app r.fC)
  | 4 => r7 (bit0 ((((Dec.ok (Instr.fmin h t)).app r.fD).app r.fA).app r.fB |>.noC r))
  | 5 => r7 (bit0 ((((Dec.ok (Instr.fmax h t)).app r.fD).app r.fA).app r.fB |>.noC r))
  | 6 => f2 .fdiv
  | 7 => f1 .fsqrt
  | 8 => r7 (bit0 (((Dec.ok (Instr.fclass h t)).app r.fD).app r.fA |>.noB r |>.noC r))
  | 9 => f2 .fscale
  | 10 => f1 .frnd
  | _ => .bad 6 11

/-- FSPEC, major 0x0B (R99, R160). -/
def decFspec (h : Hdr) (r : RG) : Dec Instr :=
  let f (f : Hdr → FType → Dst → Src → Instr) : Dec Instr :=
    (((Dec.ok (f h (decFType (r.mod.extractLsb' 4 2)))).app r.fD).app r.fA |>.noB r |>.noC r).need
      (r.mod.extractLsb' 0 4 == 0#4) 0 3
  match r.minor.toNat with
  | 0 => f .frcp
  | 1 => f .frsq
  | 2 => f .fexp2
  | 3 => f .flog2
  | 4 => f .fsin
  | 5 => f .fcos
  | _ => .bad 6 11

/-- CVT, major 0x0C (R100, R163, R387). -/
def decCvt (h : Hdr) (r : RG) : Dec Instr :=
  let dt : Dec Fmt := Dec.of ((decFmt (r.c.extractLsb' 5 5)).filter Fmt.scalar) 17 21
  let st : Dec Fmt := Dec.of ((decFmt (r.c.extractLsb' 0 5)).filter Fmt.scalar) 12 16
  let code := r.mod.extractLsb' 3 3
  let rnd : Dec CRnd :=
    if code = 5#3 then (Dec.ok CRnd.sr).app r.fB
    else ((Dec.ok CRnd.mode).app (Dec.of (decFRnd code) 3 5)).need (r.b == 0#10) 22 31
  let base : Dec Instr :=
    (((((Dec.ok (fun dt st rn d a => Instr.cvt h dt st rn (r.mod.getLsbD 2) d a)).app dt).app st).app rnd).app r.fD).app r.fA
  let x := base.need (r.mod.extractLsb' 0 2 == 0#2) 0 1
  if r.minor = 0#6 then
    match dt with
    | .ok f => x.need (!(code == 5#3) || f.isFloat) 3 5
    | .bad _ _ => x
  else .bad 6 11

/-- HPACK, major 0x0D (R99, R162). -/
def decHpack (h : Hdr) (r : RG) : Dec Instr :=
  let bf := r.mod.getLsbD 4
  let rnd : Dec FRnd := Dec.of (decFRnd (r.mod.extractLsb' 1 3)) 1 3
  let fix (x : Dec Instr) : Dec Instr := (x.need (r.mod.getLsbD 5 == false) 4 5).need (r.mod.getLsbD 0 == false) 0 0
  match r.minor.toNat with
  | 0 => fix (((((Dec.ok (Instr.hadd2 h bf)).app rnd).app r.fD).app r.fA).app r.fB |>.noC r)
  | 1 => fix (((((Dec.ok (Instr.hmul2 h bf)).app rnd).app r.fD).app r.fA).app r.fB |>.noC r)
  | 2 => fix ((((((Dec.ok (Instr.hfma2 h bf)).app rnd).app r.fD).app r.fA).app r.fB).app r.fC)
  | _ => .bad 6 11

/-- The operation and type codes of REDN, SCAN and SEGRED (R101). -/
def RG.redOp (r : RG) : Dec RedOp := Dec.of (decRedOp (r.mod.extractLsb' 3 3)) 3 5
def RG.redTy (r : RG) : RedTy := decRedTy (r.mod.extractLsb' 1 2)
def Dec.redOk {α : Type} (x : Dec α) (r : RG) : Dec α :=
  match r.redOp with
  | .ok op => x.need (redLegal op r.redTy) 3 5
  | .bad _ _ => x

/-- LANE, major 0x0E (R101). -/
def decLane (h : Hdr) (r : RG) : Dec Instr :=
  match r.minor.toNat with
  | 0 => ((((Dec.ok (Instr.shfl h (decShflMode (r.mod.extractLsb' 0 2)))).app r.fD).app r.fA).app r.fB).noC r
      |>.need (r.mod.extractLsb' 2 4 == 0#4) 2 5
  | 1 => ((((Dec.ok (Instr.gath h)).app r.fD).app r.fA).app r.fB).noC r |>.noMod r
  | 2 =>
    let v : Dec VoteOp := match (r.mod.extractLsb' 0 2).toNat with
      | 0 => (Dec.ok VoteOp.any).app (r.kD 3)
      | 1 => (Dec.ok VoteOp.all).app (r.kD 3)
      | 2 => (Dec.ok VoteOp.ballot).app r.fD
      | _ => .bad 0 1
    ((((Dec.ok (Instr.vote h)).app v).app (r.kA 3)).noB r |>.noC r).need (r.mod.extractLsb' 2 4 == 0#4) 2 5
  | 3 => (((((Dec.ok (fun op => Instr.redn h op r.redTy)).app r.redOp).app r.fD).app r.fA).noB r |>.noC r).redOk r
      |>.need (r.mod.getLsbD 0 == false) 0 0
  | 4 => (((((Dec.ok (fun op => Instr.scan h op r.redTy (r.mod.getLsbD 0))).app r.redOp).app r.fD).app r.fA).noB r
      |>.noC r).redOk r
  | 5 => (((Dec.ok (Instr.confl h)).app r.fD).app r.fA).noB r |>.noC r |>.noMod r
  | 6 => ((Dec.ok (Instr.elect h)).app (r.kD 3)).noA r |>.noB r |>.noC r |>.noMod r
  | _ => .bad 6 11

/-- EXPD, major 0x0F (R101). -/
def decExpd (h : Hdr) (r : RG) : Dec Instr :=
  match r.minor.toNat with
  | 0 => (((Dec.ok (Instr.expand h)).app r.fA).app r.fB).noD r |>.noC r |>.noMod r
  | 1 => ((Dec.ok (Instr.exstep h)).app r.fD).noA r |>.noB r |>.noC r |>.noMod r
  | 2 => (((((Dec.ok (fun op => Instr.segred h op r.redTy)).app r.redOp).app r.fD).app r.fA).noB r |>.noC r).redOk r
      |>.need (r.mod.getLsbD 0 == false) 0 0
  | _ => .bad 6 11

def ME.size' (r : ME) : Dec MSize := Dec.of (decMSize r.size) 5 7
def ME.scope' (r : ME) : Dec Scope := Dec.of (decScope r.scope) 0 2
def ME.noOrder {α : Type} (x : Dec α) (r : ME) : Dec α := x.need (r.order == 0#2) 3 4
/-- SCOPE holds the near mode in bit 0 and zeros above (R102). -/
def ME.nearMode {α : Type} (x : Dec α) (r : ME) : Dec α := x.need (r.scope.extractLsb' 1 2 == 0#2) 1 2

/-- LDS, STS, LD, ST, LDN, STN (R102). -/
def decMe (h : Hdr) (major : Nat) (r : ME) : Dec Instr :=
  let fd := decDst 42 r.data
  let fs := decSrc 42 r.data
  let fb := decSrc 32 r.base
  let ord : Dec Bool := Dec.of (decOrd2 r.order) 3 4
  match major with
  | 0x10 => ME.nearMode (ME.noOrder ((((Dec.ok (fun sz d b => Instr.lds h sz (r.scope.getLsbD 0) d b r.imm)).app r.size').app
      fd).app fb) r) r
  | 0x11 => ME.nearMode (ME.noOrder ((((Dec.ok (fun sz d b => Instr.sts h sz (r.scope.getLsbD 0) d b r.imm)).app r.size').app
      fs).app fb) r) r
  | 0x13 => (((((Dec.ok (fun sz o sc d b => Instr.ld h sz o sc d b r.imm)).app r.size').app ord).app r.scope').app fd).app fb
  | 0x14 => (((((Dec.ok (fun sz o sc d b => Instr.st h sz o sc d b r.imm)).app r.size').app ord).app r.scope').app fs).app fb
  | 0x15 => (ME.noOrder ((((Dec.ok (fun sz d b => Instr.ldn h sz d b r.imm)).app r.size').app fd).app fb) r).need
      (r.scope == 0#3) 0 2
  | _ => (ME.noOrder ((((Dec.ok (fun sz d b => Instr.stn h sz d b r.imm)).app r.size').app fs).app fb) r).need
      (r.scope == 0#3) 0 2

def MA.size' (r : MA) : Dec MSize := Dec.of (decMSize r.size) 5 7
def MA.scope' (r : MA) : Dec Scope := Dec.of (decScope r.scope) 0 2
def MA.noData {α : Type} (x : Dec α) (r : MA) : Dec α := x.need (r.data == 0x300#10) 42 51
def MA.noB {α : Type} (x : Dec α) (r : MA) : Dec α := x.need (r.b == 0#10) 18 27
def MA.noBase {α : Type} (x : Dec α) (r : MA) : Dec α := x.need (r.base == 0#10) 32 41
def MA.noOff {α : Type} (x : Dec α) (r : MA) : Dec α := x.need (r.off == 0#10) 8 17
def MA.noSize {α : Type} (x : Dec α) (r : MA) : Dec α := x.need (r.size == 0#3) 5 7
def MA.noOrder {α : Type} (x : Dec α) (r : MA) : Dec α := x.need (r.order == 0#2) 3 4
def MA.noScope {α : Type} (x : Dec α) (r : MA) : Dec α := x.need (r.scope == 0#3) 0 2

/-- The size an atomic takes (R387). -/
def MA.aopSize {α : Type} (x : Dec α) (r : MA) : Dec α :=
  match decAop r.aop, decMSize r.size with
  | some op, some sz => x.need (aopSizeLegal op sz) 5 7
  | _, _ => x

/-- ATOMS, ATOM, RED (R102, R387). -/
def decMa (h : Hdr) (major : Nat) (r : MA) : Dec Instr :=
  let aop : Dec Aop := Dec.of (decAop r.aop) 28 31
  let fd := decDst 42 r.data
  let fb := decSrc 32 r.base
  let fv := decSrc 18 r.b
  match major with
  | 0x12 => MA.aopSize (MA.noOrder ((((((Dec.ok (fun op sz d b v => Instr.atoms h op sz (r.scope.getLsbD 0) d b r.off v)).app
      aop).app r.size').app fd).app fb).app fv) r) r |>.need (r.scope.extractLsb' 1 2 == 0#2) 1 2
  | 0x17 => MA.aopSize ((((((((Dec.ok (fun op sz o sc d b v => Instr.atom h op sz o sc d b r.off v)).app aop).app r.size').app
      (Dec.of (decOrd3 r.order) 3 4)).app r.scope').app fd).app fb).app fv) r
  | _ => MA.noData (MA.aopSize ((((((Dec.ok (fun op sz o sc b v => Instr.red h op sz o sc b r.off v)).app
      (aop.need (!(r.aop == 8#4) && !(r.aop == 9#4)) 28 31)).app r.size').app (Dec.of (decOrd2 r.order) 3 4)).app
      r.scope').app fb |>.app fv) r) r

/-- CRUST, major 0x19 (R103, R387). -/
def decCrust (h : Hdr) (r : MA) : Dec Instr :=
  let fb := decSrc 32 r.base
  let fv := decSrc 18 r.b
  match r.aop.toNat with
  | 0 => MA.noData ((((((Dec.ok (fun sz o sc b v => Instr.ljoin h sz o sc b r.off v)).app r.size').app
      (Dec.of (decOrd2 r.order) 3 4)).app r.scope').app fb).app fv) r
  | 1 => ((((((Dec.ok (fun sz sc d b v => Instr.ldge h sz sc d b r.off v)).app r.size').app r.scope').app
      (decDst 42 r.data)).app fb).app fv).need (r.order == 1#2) 3 4
  | 2 => MA.noOrder (MA.noSize (MA.noOff (MA.noB (MA.noBase (MA.noData ((Dec.ok (Instr.lsync h)).app r.scope') r) r) r) r) r) r
  | _ => .bad 28 31

/-- MEMCTL, major 0x1A (R103). -/
def decMemctl (h : Hdr) (r : MA) : Dec Instr :=
  let fb := decSrc 32 r.base
  match r.aop.toNat with
  | 0 => MA.noSize (MA.noOff (MA.noB (MA.noBase (MA.noData (((Dec.ok (Instr.fence h)).app (Dec.of (decOrd3 r.order) 3 4)).app
      r.scope') r) r) r) r) r
  | 1 => MA.noScope (MA.noOrder (MA.noB (MA.noData (((Dec.ok (fun b => Instr.pref h (r.size.getLsbD 0) b r.off)).app fb).need
      (decide (r.size.toNat < 2)) 5 7) r) r) r) r
  | 2 => MA.noOrder (MA.noB (MA.noData ((((Dec.ok (fun op sc b => Instr.cline h op sc b r.off)).app
      (Dec.of (decClineOp r.size) 5 7)).app r.scope').app fb) r) r) r
  | 3 => MA.noScope (MA.noOrder (MA.noSize (MA.noB (MA.noData ((Dec.ok (fun b => Instr.migrate h b r.off)).app fb) r) r) r) r) r
  | _ => .bad 28 31

/-- CURS, major 0x1B (R104, R275). -/
def decCurs (h : Hdr) (r : RG) : Dec Instr :=
  let bit0 (x : Dec Instr) : Dec Instr := x.need (r.mod.extractLsb' 1 5 == 0#5) 1 5
  match r.minor.toNat with
  | 0 => (((Dec.ok (Instr.cload h)).app (r.kD 4)).app r.fA).noB r |>.noC r |>.noMod r
  | 1 => ((Dec.ok (Instr.cnext h)).app (r.kD 4)).noA r |>.noB r |>.noC r |>.noMod r
  | 2 => bit0 ((((Dec.ok (Instr.cseek h (r.mod.getLsbD 0))).app (r.kD 4)).app r.fA).noB r |>.noC r)
  | 3 => (((Dec.ok (Instr.cdesc h)).app (r.kD 4)).app (r.kA 4)).noB r |>.noC r |>.noMod r
  | 4 => bit0 (((((Dec.ok (Instr.coit h (r.mod.getLsbD 0))).app r.fD).app (r.kA 4)).app (r.kB 4)).noC r)
  | 5 => (((Dec.ok (Instr.ccrd h)).app r.fD).app (r.kA 4)).noB r |>.noC r |>.noMod r
  | 6 => ((((Dec.ok (Instr.cval h)).app (Dec.of ((decFmt (r.mod.extractLsb' 0 5)).filter Fmt.scalar) 0 4)).app r.fD).app
      (r.kA 4)).noB r |>.noC r |>.need (r.mod.getLsbD 5 == false) 5 5
  | 7 => ((((Dec.ok (Instr.capp h)).app (r.kD 4)).app r.fA).app r.fB).noC r |>.noMod r
  | 8 => ((Dec.ok (Instr.cfin h)).app (r.kD 4)).noA r |>.noB r |>.noC r |>.noMod r
  | 9 => (((Dec.ok (Instr.csave h)).app (r.kA 4)).app r.fB).noD r |>.noC r |>.noMod r
  | 10 => (((Dec.ok (Instr.crest h)).app (r.kD 4)).app r.fA).noB r |>.noC r |>.noMod r
  | 11 => (((Dec.ok (Instr.cheap h)).app (r.kD 4)).app r.fA).noB r |>.noC r |>.noMod r
  | _ => .bad 6 11

def RG.typ (ok : Fmt → Bool) (r : RG) : Dec Fmt := Dec.of ((decFmt (r.mod.extractLsb' 0 5)).filter ok) 0 4
def Dec.bit5 {α : Type} (x : Dec α) (r : RG) : Dec α := x.need (r.mod.getLsbD 5 == false) 5 5

/-- MTX, major 0x1C (R105, R387). -/
def decMtx (h : Hdr) (r : RG) : Dec Instr :=
  match r.minor.toNat with
  | 0 => ((((Dec.ok (Instr.mwld h)).app (r.typ Fmt.matrix)).app (r.kA 6)).app (r.kC 4)).noD r |>.noB r |>.bit5 r
  | 1 => (((((Dec.ok (fun t => Instr.mma h t (r.mod.getLsbD 5))).app (r.typ Fmt.matrix)).app (r.kD 3)).app (r.kA 6)).app
      (r.kC 4)).noB r
  | 2 => (((((Dec.ok (fun t => Instr.mmag h t (r.mod.getLsbD 5))).app (r.typ Fmt.matrix)).app (r.kD 3)).app (r.kA 6)).app
      r.fB).app (r.kC 4)
  | 3 => (((((Dec.ok (Instr.mhad h)).app (Dec.of (decHadSize (r.mod.extractLsb' 0 2)) 0 1)).app (r.kD 6)).app (r.kA 6)).app
      (r.kC 4)).noB r |>.need (r.mod.extractLsb' 2 4 == 0#4) 2 5
  | 4 => ((((((Dec.ok (Instr.mcond h)).app (r.typ Fmt.matrix)).app (r.kD 6)).app (r.kA 6)).app (r.kB 6)).app (r.kC 4)).bit5 r
  | 5 => (((Dec.ok (Instr.mzero h)).app (r.kD 3)).app (r.kC 4)).noA r |>.noB r |>.noMod r
  | 6 => ((((((Dec.ok (Instr.mrd h)).app (r.typ (fun _ => true))).app (r.kD 6)).app (r.kA 3)).app (r.kB 3)).app
      (r.kC 4)).bit5 r
  | 7 => ((((((Dec.ok (Instr.mqnt h)).app (r.typ (fun _ => true))).app (r.kD 6)).app (r.kA 6)).app (r.kB 6)).app
      (r.kC 4)).bit5 r
  | 8 => ((((Dec.ok (Instr.mxrd h)).app (r.kA 3)).app r.fB).app (r.kC 4)).noD r |>.noMod r
  | 9 => ((((Dec.ok (Instr.mxadd h)).app (r.kD 3)).app r.fA).app (r.kC 4)).noB r |>.noMod r
  | 10 => ((Dec.ok (Instr.mprog h (r.mod.extractLsb' 0 2))).app r.fD).noA r |>.noB r |>.noC r
      |>.need (r.mod.extractLsb' 2 4 == 0#4) 2 5
  | _ => .bad 6 11

/-- TILE, major 0x1D (R105). -/
def decTile (h : Hdr) (r : RG) : Dec Instr :=
  match r.minor.toNat with
  | 0 => ((((Dec.ok (Instr.tldef h)).app (r.kD 6)).app r.fA).app r.fB).noC r |>.noMod r
  | 1 => (((Dec.ok (Instr.tlstat h)).app r.fD).app (r.kA 6)).noB r |>.noC r |>.noMod r
  | 2 => ((Dec.ok (Instr.tlrel h)).app (r.kA 6)).noD r |>.noB r |>.noC r |>.noMod r
  | 3 => (((Dec.ok (Instr.cvset h)).app (r.kD 4)).app r.fA).noB r |>.noC r |>.noMod r
  | _ => .bad 6 11

/-- ASYNC, major 0x1E (R106, R315). -/
def decAsync (h : Hdr) (r : RG) : Dec Instr :=
  let tk : BitVec 3 := r.mod.extractLsb' 0 3
  let hi3 (x : Dec Instr) : Dec Instr := x.need (r.mod.extractLsb' 3 3 == 0#3) 3 5
  match r.minor.toNat with
  | 0 => hi3 ((((Dec.ok (fun a b c => Instr.cpy h a b c tk)).app r.fA).app r.fB).app r.fC |>.noD r)
  | 1 => (match (r.mod.extractLsb' 3 2).toNat with
      | 0 => (((Dec.ok (fun d a b => Instr.cpytLd h d a b tk)).app (r.kD 6)).app r.fA).app r.fB |>.noC r
      | 1 => ((Dec.ok (fun a b => Instr.cpytSt h a b tk)).app (r.kA 6)).app r.fB |>.noD r |>.noC r
      | 2 => ((Dec.ok (fun d a => Instr.cpytTt h d a tk)).app (r.kD 6)).app (r.kA 6) |>.noB r |>.noC r
      | _ => .bad 3 4).bit5 r
  | 2 => ((((Dec.ok (fun d a b => Instr.cpyd h d a b tk)).app (r.kD 6)).app r.fA).app r.fB |>.noC r).need
      (r.mod.extractLsb' 3 2 == 0#2) 3 4 |>.bit5 r
  | 3 => ((Dec.ok (Instr.wait h (r.a.extractLsb' 0 8))).need (r.a.extractLsb' 8 2 == 0#2) 40 41).noD r |>.noB r |>.noC r
      |>.noMod r
  | 4 => (((Dec.ok (Instr.tkset h)).app (r.kD 3)).app r.fA).noB r |>.noC r |>.noMod r
  | 5 => (((Dec.ok (Instr.tkrd h)).app r.fD).app (r.kA 3)).noB r |>.noC r |>.noMod r
  | 6 => hi3 (((Dec.ok (fun a => Instr.route h a tk)).app r.fA).noD r |>.noB r |>.noC r)
  | 7 => (((Dec.ok (Instr.chcnt h)).app r.fD).app (r.kA 4)).noB r |>.noC r |>.noMod r
  | _ => .bad 6 11

/-- The instruction a word stands for, or the illegal field (R91, R92). -/
def decodeWord (w : BitVec 64) : Dec Instr :=
  let h := wordHdr w
  match (wordMajor w).toNat with
  | 0x00 => decSys h (wordIM w)
  | 0x01 => decBra (.bra h) (wordJU w)
  | 0x02 => decBra (.call h) (wordJU w)
  | 0x03 => decFlow h (wordJU w)
  | 0x04 => decIalu h (wordRG w)
  | 0x05 => decIalui h (wordIM w)
  | 0x06 => decMovi h false (wordLI w)
  | 0x07 => decMovi h true (wordLI w)
  | 0x08 => decAddr h (wordRG w)
  | 0x09 => decCmp h (wordRG w)
  | 0x0A => decFalu h (wordRG w)
  | 0x0B => decFspec h (wordRG w)
  | 0x0C => decCvt h (wordRG w)
  | 0x0D => decHpack h (wordRG w)
  | 0x0E => decLane h (wordRG w)
  | 0x0F => decExpd h (wordRG w)
  | 0x10 => decMe h 0x10 (wordME w)
  | 0x11 => decMe h 0x11 (wordME w)
  | 0x12 => decMa h 0x12 (wordMA w)
  | 0x13 => decMe h 0x13 (wordME w)
  | 0x14 => decMe h 0x14 (wordME w)
  | 0x15 => decMe h 0x15 (wordME w)
  | 0x16 => decMe h 0x16 (wordME w)
  | 0x17 => decMa h 0x17 (wordMA w)
  | 0x18 => decMa h 0x18 (wordMA w)
  | 0x19 => decCrust h (wordMA w)
  | 0x1A => decMemctl h (wordMA w)
  | 0x1B => decCurs h (wordRG w)
  | 0x1C => decMtx h (wordRG w)
  | 0x1D => decTile h (wordRG w)
  | 0x1E => decAsync h (wordRG w)
  | _ => .bad 58 63

/-- Bytes in memory order to a number, little-endian (R4). -/
def leNat : List Byte → Nat
  | [] => 0
  | b :: bs => b.toNat + 256 * leNat bs

/-- The n bytes of a number, little-endian (R4). -/
def leBytes : Nat → Nat → List Byte
  | 0, _ => []
  | n + 1, v => BitVec.ofNat 8 v :: leBytes n (v / 256)

/-- The decoder on bytes: the first eight form the word (R74); fewer hold no instruction. -/
inductive ByteDec where
  | short
  | unassigned (lo hi : Nat)
  | instr (i : Instr) (rest : List Byte)
  deriving DecidableEq, Repr

def decodeBytes (bs : List Byte) : ByteDec :=
  if bs.length < 8 then .short
  else match decodeWord (BitVec.ofNat 64 (leNat (bs.take 8))) with
    | .ok i => .instr i (bs.drop 8)
    | .bad lo hi => .unassigned lo hi

/-- The instruction a row of the opcode table's bits stand for, read by the decoder from the bytes as memory holds them. -/
def decodeTableWord (nbits w : Nat) : Option Instr :=
  match decodeBytes (leBytes 8 (w % 2 ^ nbits)) with
  | .instr i _ => some i
  | _ => none

/-! ## The encoder, from the same tables -/

def encSrc : Src → BitVec 10
  | .x i => 0#2 ++ i
  | .g i => 1#2 ++ 0#2 ++ i
  | .b i => 2#2 ++ 0#6 ++ i
  | .h i pop => 3#2 ++ 0#3 ++ BitVec.ofBool pop ++ i

def encDst : Dst → BitVec 10
  | .x i => 0#2 ++ i
  | .g i => 1#2 ++ 0#2 ++ i
  | .h i => 2#2 ++ 0#4 ++ i
  | .none => 0x300#10

def encKind {n : Nat} (i : BitVec n) : BitVec 10 := i.setWidth 10

def IMode.bits (m : IMode) : BitVec 2 := BitVec.ofBool m.sgn ++ BitVec.ofBool m.w64
def IModeSat.bits (m : IModeSat) : BitVec 3 := BitVec.ofBool m.sat ++ BitVec.ofBool m.sgn ++ BitVec.ofBool m.w64

def encRG (major : BitVec 6) (h : Hdr) (d a b c : BitVec 10) (minor mod : BitVec 6) : Option (BitVec 64) :=
  some (packWord major h (RG.bits { d := d, a := a, b := b, c := c, minor := minor, mod := mod }))

def encIM (major : BitVec 6) (h : Hdr) (d a : BitVec 10) (imm : BitVec 24) (minor mod : BitVec 4) : Option (BitVec 64) :=
  some (packWord major h (IM.bits { d := d, a := a, imm := imm, minor := minor, mod := mod }))

def encLI (major : BitVec 6) (h : Hdr) (d : BitVec 10) (imm : BitVec 32) (mod : BitVec 10) : Option (BitVec 64) :=
  some (packWord major h (LI.bits { d := d, imm := imm, mod := mod }))

def encME (major : BitVec 6) (h : Hdr) (data base : BitVec 10) (imm : BitVec 24) (size : BitVec 3) (order : BitVec 2)
    (scope : BitVec 3) : Option (BitVec 64) :=
  some (packWord major h (ME.bits { data := data, base := base, imm := imm, size := size, order := order, scope := scope }))

def encMA (major : BitVec 6) (h : Hdr) (data base : BitVec 10) (aop : BitVec 4) (b off : BitVec 10) (size : BitVec 3)
    (order : BitVec 2) (scope : BitVec 3) : Option (BitVec 64) :=
  some (packWord major h (MA.bits
    { data := data, base := base, aop := aop, b := b, off := off, size := size, order := order, scope := scope }))

def encJU (major : BitVec 6) (h : Hdr) (disp : BitVec 24) (a : BitVec 10) (minor : BitVec 6) (e : BitVec 10) (mod : BitVec 2) :
    Option (BitVec 64) :=
  some (packWord major h (JU.bits { disp := disp, a := a, minor := minor, e := e, mod := mod }))

def encIalu (h : Hdr) (minor : BitVec 6) (mod : BitVec 6) (d : Dst) (a b c : BitVec 10) : Option (BitVec 64) :=
  encRG 0x04 h (encDst d) a b c minor mod

def encFalu (h : Hdr) (minor : BitVec 6) (t : FType) (r : FRnd) (d : Dst) (a b c : BitVec 10) : Option (BitVec 64) :=
  encRG 0x0A h (encDst d) a b c minor (encFType t ++ encFRnd r ++ 0#1)

def encNear (win : Bool) : BitVec 3 := 0#2 ++ BitVec.ofBool win

/-- The word of an instruction; a step without a word has none. -/
def encode : Instr → Option (BitVec 64)
  | .nop h => encIM 0x00 h 0x300 0 0 0 0
  | .yield h => encIM 0x00 h 0x300 0 0 1 0
  | .brk h c => encIM 0x00 h 0x300 0 c 2 0
  | .trap h c => encIM 0x00 h 0x300 0 c 3 0
  | .sysc h c => encIM 0x00 h 0x300 0 c 4 0
  | .eret h => encIM 0x00 h 0x300 0 0 5 0
  | .csrr h d n => encIM 0x00 h (encDst d) 0 (0#12 ++ n) 6 0
  | .csrw h a n => encIM 0x00 h 0x300 (encSrc a) (0#12 ++ n) 7 0
  | .bra h d => encJU 0x01 h d 0 0 0 0
  | .call h d => encJU 0x02 h d 0 0 0 0
  | .brx h a => encJU 0x03 h 0 (encSrc a) 0 0 0
  | .callx h a => encJU 0x03 h 0 (encSrc a) 1 0 0
  | .ret h => encJU 0x03 h 0 0 2 0 0
  | .exit h => encJU 0x03 h 0 0 3 0 0
  | .fork h d a e => encJU 0x03 h d (encSrc a) 4 (encKind e) 0
  | .spawn h d a e home => encJU 0x03 h d (encSrc a) 5 (encKind e) (0#1 ++ BitVec.ofBool home)
  | .join h a => encJU 0x03 h 0 (encSrc a) 6 0 0
  | .bar h n => encJU 0x03 h 0 0 7 0 n
  | .reform h => encJU 0x03 h 0 0 8 0 0
  | .resize h n => encJU 0x03 h (0#19 ++ n) 0 9 0 0
  | .iadd h m d a b => encIalu h 0 (0#3 ++ m.bits) d (encSrc a) (encSrc b) 0
  | .isub h m d a b => encIalu h 1 (0#3 ++ m.bits) d (encSrc a) (encSrc b) 0
  | .imul h m d a b => encIalu h 2 (0#3 ++ m.bits) d (encSrc a) (encSrc b) 0
  | .imulh h m d a b => encIalu h 3 (0#4 ++ m.bits) d (encSrc a) (encSrc b) 0
  | .imad h m d a b c => encIalu h 4 (0#3 ++ m.bits) d (encSrc a) (encSrc b) (encSrc c)
  | .imadw h sgn sat d a b c =>
    encIalu h 5 (0#3 ++ BitVec.ofBool sat ++ BitVec.ofBool sgn ++ 0#1) d (encSrc a) (encSrc b) (encSrc c)
  | .idiv h m d a b => encIalu h 6 (0#3 ++ m.bits) d (encSrc a) (encSrc b) 0
  | .irem h m d a b => encIalu h 7 (0#4 ++ m.bits) d (encSrc a) (encSrc b) 0
  | .ineg h m d a => encIalu h 8 (0#3 ++ m.bits) d (encSrc a) 0 0
  | .iabs h m d a => encIalu h 9 (0#3 ++ m.bits) d (encSrc a) 0 0
  | .imin h m d a b => encIalu h 10 (0#4 ++ m.bits) d (encSrc a) (encSrc b) 0
  | .imax h m d a b => encIalu h 11 (0#4 ++ m.bits) d (encSrc a) (encSrc b) 0
  | .and h m d a b => encIalu h 12 (0#4 ++ m.bits) d (encSrc a) (encSrc b) 0
  | .or h m d a b => encIalu h 13 (0#4 ++ m.bits) d (encSrc a) (encSrc b) 0
  | .xor h m d a b => encIalu h 14 (0#4 ++ m.bits) d (encSrc a) (encSrc b) 0
  | .andn h m d a b => encIalu h 15 (0#4 ++ m.bits) d (encSrc a) (encSrc b) 0
  | .shl h m d a b => encIalu h 16 (0#4 ++ m.bits) d (encSrc a) (encSrc b) 0
  | .shr h m d a b => encIalu h 17 (0#4 ++ m.bits) d (encSrc a) (encSrc b) 0
  | .sar h m d a b => encIalu h 18 (0#4 ++ m.bits) d (encSrc a) (encSrc b) 0
  | .rot h m d a b => encIalu h 19 (0#4 ++ m.bits) d (encSrc a) (encSrc b) 0
  | .bfx h m d a b => encIalu h 20 (0#4 ++ m.bits) d (encSrc a) (encSrc b) 0
  | .bfi h m d a b c => encIalu h 21 (0#4 ++ m.bits) d (encSrc a) (encSrc b) (encSrc c)
  | .popc h m d a => encIalu h 22 (0#4 ++ m.bits) d (encSrc a) 0 0
  | .clz h m d a => encIalu h 23 (0#4 ++ m.bits) d (encSrc a) 0 0
  | .brev h m d a => encIalu h 24 (0#4 ++ m.bits) d (encSrc a) 0 0
  | .sel h m d a b c => encIalu h 25 (0#4 ++ m.bits) d (encSrc a) (encSrc b) (encKind c)
  | .mov h m d a => encIalu h 26 (0#4 ++ m.bits) d (encSrc a) 0 0
  | .addmin h m d a b c => encIalu h 27 (0#3 ++ m.bits) d (encSrc a) (encSrc b) (encSrc c)
  | .addmax h m d a b c => encIalu h 28 (0#3 ++ m.bits) d (encSrc a) (encSrc b) (encSrc c)
  | .iaddImm h m d a i => encIM 0x05 h (encDst d) (encSrc a) i 0 (0#2 ++ m.bits)
  | .andImm h m d a i => encIM 0x05 h (encDst d) (encSrc a) i 1 (0#2 ++ m.bits)
  | .orImm h m d a i => encIM 0x05 h (encDst d) (encSrc a) i 2 (0#2 ++ m.bits)
  | .xorImm h m d a i => encIM 0x05 h (encDst d) (encSrc a) i 3 (0#2 ++ m.bits)
  | .shlImm h m d a i => encIM 0x05 h (encDst d) (encSrc a) i 4 (0#2 ++ m.bits)
  | .shrImm h m d a i => encIM 0x05 h (encDst d) (encSrc a) i 5 (0#2 ++ m.bits)
  | .sarImm h m d a i => encIM 0x05 h (encDst d) (encSrc a) i 6 (0#2 ++ m.bits)
  | .iminImm h m d a i => encIM 0x05 h (encDst d) (encSrc a) i 7 (0#2 ++ m.bits)
  | .imaxImm h m d a i => encIM 0x05 h (encDst d) (encSrc a) i 8 (0#2 ++ m.bits)
  | .icmpImm h c d a i => encIM 0x05 h (encKind d) (encSrc a) i 9 (encICond c)
  | .movi h d i => encLI 0x06 h (encDst d) i 0
  | .moviS64 h d i => encLI 0x06 h (encDst d) i 1
  | .movhi h d i => encLI 0x07 h (encDst d) i 1
  | .lea h sgn sh d a b => encRG 0x08 h (encDst d) (encSrc a) (encSrc b) 0 0 (0#2 ++ BitVec.ofBool sgn ++ sh)
  | .add64 h d a b => encRG 0x08 h (encDst d) (encSrc a) (encSrc b) 0 1 0
  | .sub64 h d a b => encRG 0x08 h (encDst d) (encSrc a) (encSrc b) 0 2 0
  | .icmp h c w d a b => encRG 0x09 h (encKind d) (encSrc a) (encSrc b) 0 0 (0#1 ++ BitVec.ofBool w ++ encICond c)
  | .fcmp h c t d a b => encRG 0x09 h (encKind d) (encSrc a) (encSrc b) 0 1 (encFType t ++ encFCond c)
  | .pset h t d a b => encRG 0x09 h (encKind d) (encKind a) (encKind b) 0 2 (0#2 ++ t)
  | .pmovGet h d => encRG 0x09 h (encDst d) 0 0 0 3 0
  | .pmovSet h a => encRG 0x09 h 0 (encSrc a) 0 0 3 1
  | .fadd h t r d a b => encFalu h 0 t r d (encSrc a) (encSrc b) 0
  | .fsub h t r d a b => encFalu h 1 t r d (encSrc a) (encSrc b) 0
  | .fmul h t r d a b => encFalu h 2 t r d (encSrc a) (encSrc b) 0
  | .ffma h t r d a b c => encFalu h 3 t r d (encSrc a) (encSrc b) (encSrc c)
  | .fmin h t d a b => encFalu h 4 t .dyn d (encSrc a) (encSrc b) 0
  | .fmax h t d a b => encFalu h 5 t .dyn d (encSrc a) (encSrc b) 0
  | .fdiv h t r d a b => encFalu h 6 t r d (encSrc a) (encSrc b) 0
  | .fsqrt h t r d a => encFalu h 7 t r d (encSrc a) 0 0
  | .fclass h t d a => encFalu h 8 t .dyn d (encSrc a) 0 0
  | .fscale h t r d a b => encFalu h 9 t r d (encSrc a) (encSrc b) 0
  | .frnd h t r d a => encFalu h 10 t r d (encSrc a) 0 0
  | .frcp h t d a => encRG 0x0B h (encDst d) (encSrc a) 0 0 0 (encFType t ++ 0#4)
  | .frsq h t d a => encRG 0x0B h (encDst d) (encSrc a) 0 0 1 (encFType t ++ 0#4)
  | .fexp2 h t d a => encRG 0x0B h (encDst d) (encSrc a) 0 0 2 (encFType t ++ 0#4)
  | .flog2 h t d a => encRG 0x0B h (encDst d) (encSrc a) 0 0 3 (encFType t ++ 0#4)
  | .fsin h t d a => encRG 0x0B h (encDst d) (encSrc a) 0 0 4 (encFType t ++ 0#4)
  | .fcos h t d a => encRG 0x0B h (encDst d) (encSrc a) 0 0 5 (encFType t ++ 0#4)
  | .cvt h dt st (.mode r) sat d a =>
    encRG 0x0C h (encDst d) (encSrc a) 0 (encFmt dt ++ encFmt st) 0 (encFRnd r ++ BitVec.ofBool sat ++ 0#2)
  | .cvt h dt st (.sr sd) sat d a =>
    encRG 0x0C h (encDst d) (encSrc a) (encSrc sd) (encFmt dt ++ encFmt st) 0 (5#3 ++ BitVec.ofBool sat ++ 0#2)
  | .hadd2 h bf r d a b =>
    encRG 0x0D h (encDst d) (encSrc a) (encSrc b) 0 0 (0#1 ++ BitVec.ofBool bf ++ encFRnd r ++ 0#1)
  | .hmul2 h bf r d a b =>
    encRG 0x0D h (encDst d) (encSrc a) (encSrc b) 0 1 (0#1 ++ BitVec.ofBool bf ++ encFRnd r ++ 0#1)
  | .hfma2 h bf r d a b c =>
    encRG 0x0D h (encDst d) (encSrc a) (encSrc b) (encSrc c) 2 (0#1 ++ BitVec.ofBool bf ++ encFRnd r ++ 0#1)
  | .shfl h m d a b => encRG 0x0E h (encDst d) (encSrc a) (encSrc b) 0 0 (0#4 ++ encShflMode m)
  | .gath h d a b => encRG 0x0E h (encDst d) (encSrc a) (encSrc b) 0 1 0
  | .vote h (.any d) a => encRG 0x0E h (encKind d) (encKind a) 0 0 2 0
  | .vote h (.all d) a => encRG 0x0E h (encKind d) (encKind a) 0 0 2 1
  | .vote h (.ballot d) a => encRG 0x0E h (encDst d) (encKind a) 0 0 2 2
  | .redn h op t d a => encRG 0x0E h (encDst d) (encSrc a) 0 0 3 (encRedOp op ++ encRedTy t ++ 0#1)
  | .scan h op t x d a => encRG 0x0E h (encDst d) (encSrc a) 0 0 4 (encRedOp op ++ encRedTy t ++ BitVec.ofBool x)
  | .confl h d a => encRG 0x0E h (encDst d) (encSrc a) 0 0 5 0
  | .elect h d => encRG 0x0E h (encKind d) 0 0 0 6 0
  | .expand h a b => encRG 0x0F h 0x300 (encSrc a) (encSrc b) 0 0 0
  | .exstep h d => encRG 0x0F h (encDst d) 0 0 0 1 0
  | .segred h op t d a => encRG 0x0F h (encDst d) (encSrc a) 0 0 2 (encRedOp op ++ encRedTy t ++ 0#1)
  | .lds h sz w d b i => encME 0x10 h (encDst d) (encSrc b) i (encMSize sz) 0 (encNear w)
  | .sts h sz w d b i => encME 0x11 h (encSrc d) (encSrc b) i (encMSize sz) 0 (encNear w)
  | .atoms h op sz w d b o v => encMA 0x12 h (encDst d) (encSrc b) (encAop op) (encSrc v) o (encMSize sz) 0 (encNear w)
  | .ld h sz o sc d b i => encME 0x13 h (encDst d) (encSrc b) i (encMSize sz) (encOrd2 o) (encScope sc)
  | .st h sz o sc d b i => encME 0x14 h (encSrc d) (encSrc b) i (encMSize sz) (encOrd2 o) (encScope sc)
  | .ldn h sz d b i => encME 0x15 h (encDst d) (encSrc b) i (encMSize sz) 0 0
  | .stn h sz d b i => encME 0x16 h (encSrc d) (encSrc b) i (encMSize sz) 0 0
  | .atom h op sz o sc d b f v =>
    encMA 0x17 h (encDst d) (encSrc b) (encAop op) (encSrc v) f (encMSize sz) (encOrd3 o) (encScope sc)
  | .red h op sz o sc b f v => encMA 0x18 h 0x300 (encSrc b) (encAop op) (encSrc v) f (encMSize sz) (encOrd2 o) (encScope sc)
  | .ljoin h sz o sc b f v => encMA 0x19 h 0x300 (encSrc b) 0 (encSrc v) f (encMSize sz) (encOrd2 o) (encScope sc)
  | .ldge h sz sc d b f v => encMA 0x19 h (encDst d) (encSrc b) 1 (encSrc v) f (encMSize sz) 1 (encScope sc)
  | .lsync h sc => encMA 0x19 h 0x300 0 2 0 0 0 0 (encScope sc)
  | .fence h o sc => encMA 0x1A h 0x300 0 0 0 0 0 (encOrd3 o) (encScope sc)
  | .pref h l2 b f => encMA 0x1A h 0x300 (encSrc b) 1 0 f (0#2 ++ BitVec.ofBool l2) 0 0
  | .cline h op sc b f => encMA 0x1A h 0x300 (encSrc b) 2 0 f (encClineOp op) 0 (encScope sc)
  | .migrate h b f => encMA 0x1A h 0x300 (encSrc b) 3 0 f 0 0 0
  | .cload h d a => encRG 0x1B h (encKind d) (encSrc a) 0 0 0 0
  | .cnext h d => encRG 0x1B h (encKind d) 0 0 0 1 0
  | .cseek h ge d a => encRG 0x1B h (encKind d) (encSrc a) 0 0 2 (0#5 ++ BitVec.ofBool ge)
  | .cdesc h d a => encRG 0x1B h (encKind d) (encKind a) 0 0 3 0
  | .coit h u d a b => encRG 0x1B h (encDst d) (encKind a) (encKind b) 0 4 (0#5 ++ BitVec.ofBool u)
  | .ccrd h d a => encRG 0x1B h (encDst d) (encKind a) 0 0 5 0
  | .cval h t d a => encRG 0x1B h (encDst d) (encKind a) 0 0 6 (0#1 ++ encFmt t)
  | .capp h d a b => encRG 0x1B h (encKind d) (encSrc a) (encSrc b) 0 7 0
  | .cfin h d => encRG 0x1B h (encKind d) 0 0 0 8 0
  | .csave h a b => encRG 0x1B h 0x300 (encKind a) (encSrc b) 0 9 0
  | .crest h d a => encRG 0x1B h (encKind d) (encSrc a) 0 0 10 0
  | .cheap h d a => encRG 0x1B h (encKind d) (encSrc a) 0 0 11 0
  | .mwld h t a c => encRG 0x1C h 0x300 (encKind a) 0 (encKind c) 0 (0#1 ++ encFmt t)
  | .mma h t o d a c => encRG 0x1C h (encKind d) (encKind a) 0 (encKind c) 1 (BitVec.ofBool o ++ encFmt t)
  | .mmag h t o d a b c => encRG 0x1C h (encKind d) (encKind a) (encSrc b) (encKind c) 2 (BitVec.ofBool o ++ encFmt t)
  | .mhad h n d a c => encRG 0x1C h (encKind d) (encKind a) 0 (encKind c) 3 (0#4 ++ encHadSize n)
  | .mcond h t d a b c => encRG 0x1C h (encKind d) (encKind a) (encKind b) (encKind c) 4 (0#1 ++ encFmt t)
  | .mzero h d c => encRG 0x1C h (encKind d) 0 0 (encKind c) 5 0
  | .mrd h t d a b c => encRG 0x1C h (encKind d) (encKind a) (encKind b) (encKind c) 6 (0#1 ++ encFmt t)
  | .mqnt h t d a b c => encRG 0x1C h (encKind d) (encKind a) (encKind b) (encKind c) 7 (0#1 ++ encFmt t)
  | .mxrd h a b c => encRG 0x1C h 0x300 (encKind a) (encSrc b) (encKind c) 8 0
  | .mxadd h d a c => encRG 0x1C h (encKind d) (encSrc a) 0 (encKind c) 9 0
  | .mprog h n d => encRG 0x1C h (encDst d) 0 0 0 10 (0#4 ++ n)
  | .tldef h d a b => encRG 0x1D h (encKind d) (encSrc a) (encSrc b) 0 0 0
  | .tlstat h d a => encRG 0x1D h (encDst d) (encKind a) 0 0 1 0
  | .tlrel h a => encRG 0x1D h 0x300 (encKind a) 0 0 2 0
  | .cvset h d a => encRG 0x1D h (encKind d) (encSrc a) 0 0 3 0
  | .cpy h a b c tk => encRG 0x1E h 0x300 (encSrc a) (encSrc b) (encSrc c) 0 (0#3 ++ tk)
  | .cpytLd h d a b tk => encRG 0x1E h (encKind d) (encSrc a) (encSrc b) 0 1 (0#3 ++ tk)
  | .cpytSt h a b tk => encRG 0x1E h 0x300 (encKind a) (encSrc b) 0 1 (1#3 ++ tk)
  | .cpytTt h d a tk => encRG 0x1E h (encKind d) (encKind a) 0 0 1 (2#3 ++ tk)
  | .cpyd h d a b tk => encRG 0x1E h (encKind d) (encSrc a) (encSrc b) 0 2 (0#3 ++ tk)
  | .wait h m => encRG 0x1E h 0x300 (0#2 ++ m) 0 0 3 0
  | .tkset h d a => encRG 0x1E h (encKind d) (encSrc a) 0 0 4 0
  | .tkrd h d a => encRG 0x1E h (encDst d) (encKind a) 0 0 5 0
  | .route h a tk => encRG 0x1E h 0x300 (encSrc a) 0 0 6 (0#3 ++ tk)
  | .chcnt h d a => encRG 0x1E h (encDst d) (encKind a) 0 0 7 0
  | _ => none

end Sys2Proof
end

