-- ==== Sys2Proof/Machine/State.lean ====
section
/-! DEFINITION. The state of the package as plain data, the ways a step can stop, and the state after reset.
Handles (fibre, cushion, frond, operation ids) are natural numbers that the model draws from `State.nextId`; the spec's own
identities (FIBRE, CARPET, core, slot) are fields of the records. -/

namespace Sys2Proof.Machine

/-- Bytes by address: addresses strictly rising, no byte equal to 0, which is what an unlisted address reads as
(log entry 1). -/
abbrev Memory := List (Nat × Byte)

/-- Why a step stops the machine. -/
inductive Fault where
  /-- Raised by a step whose arguments name a unit the package does not have (core, die, slot, port, entry: R10, R27). Safe. -/
  | noSuchUnit
  /-- Raised by an access to a physical byte outside the vaults and the HBM stacks (R202). Safe. -/
  | noSuchAddress
  deriving DecidableEq, Repr

/-- Why the model gives an instruction no meaning. -/
inductive Refusal where
  /-- An instruction whose meaning is not written yet; raised only by an arm of exec. Safe. -/
  | notModelled (mnemonic : String)
  deriving DecidableEq, Repr

/-! ## Fibres and fronds (02_execution_model, 03_state_and_launch_image) -/

/-- A cursor register: words W0 to W3 (R269). -/
structure Cursor where
  w0 : DWord
  w1 : DWord
  w2 : DWord
  w3 : DWord
  deriving DecidableEq, Repr

/-- The condition a parked fibre waits on (R39, R349 step 5). -/
inductive Wait where
  /-- nothing: the spore is ready when JOINCNT is 0 -/
  | none
  /-- replies of loads, atomics, LDGE, JOIN, LSYNC or a walker; JOINCNT counts them -/
  | reply
  /-- the store counter stands at 0xFFFF; the fibre resumes at the instruction itself -/
  | storeRoom
  /-- a translation walk (R216) -/
  | walk
  /-- a page fault not yet answered (R372) -/
  | replay
  /-- WAIT on the tokens of the mask (R325) -/
  | tokens (mask : BitVec 8)
  /-- BAR n (R182) -/
  | bar (n : Nat)
  /-- REFORM (R36) -/
  | reform
  /-- EXPAND, until the round closes (R192) -/
  | expand
  /-- SEGRED, until the fold catches up (R194); the fibre resumes at itself -/
  | segredRoom
  /-- SEGRED after the last item: until every step is folded (R194) -/
  | collect (op : RedOp) (t : RedTy) (d : Dst) (ws : Bool)
  /-- a pop or peek of an empty channel (R39) -/
  | chanPop (h : Nat)
  /-- a push to a full channel (R39) -/
  | chanPush (h : Nat)
  /-- a larger window (CALLX, RESIZE: R175, R176) -/
  | window (need : Nat)
  /-- the work of a FENCE (R260); barrier: the write-backs to wait for; before: the first handle drawn after it was issued -/
  | fence (sc : Scope) (barrier : Option Nat) (before : Nat)
  /-- LSYNC, drain phase (R259) -/
  | lsyncDrain (sc : Scope)
  /-- a system-call answer (R169) -/
  | sysc
  /-- the release of a BRK park (R168) -/
  | brk
  /-- a landing-slot reservation (R263) -/
  | landing
  deriving DecidableEq, Repr

/-- Where a fibre stands (R32). Retired fibres are not kept. -/
inductive Status where
  | resident
  | parked
  | ready
  deriving DecidableEq, Repr

/-- Where a cushion stands, as a spore names it (R41): core, slot, stage, place in the stage. -/
structure CushPlace where
  core : Nat
  slot : Nat
  stage : Nat
  pos : Nat
  deriving DecidableEq, Repr

/-- A fibre, resident or as a spore, or a task record that has never run (R27 to R31, R41, R57). -/
structure Fibre where
  /-- the model's handle -/
  fid : Nat
  /-- CARPET id (R28, R339) -/
  carpet : Nat
  /-- handle of the home cushion; of the spawning cushion for a task record -/
  cush : Nat
  /-- FIBRE index in the cushion; 0 in a task record (R41) -/
  idx : Nat
  /-- home lane (R30) -/
  lane : Nat
  status : Status
  /-- x registers of the window, 16 per granule (R57) -/
  x : List Word
  /-- predicate word p7 to p0 (R57) -/
  pred : BitVec 8
  /-- k0 to k15 (R269) -/
  k : List Cursor
  /-- frame word (R172) -/
  frame : DWord
  /-- address of the next instruction (RESUMEPC in a spore) -/
  pc : DWord
  /-- unacknowledged stores (R45) -/
  stcnt : Nat
  /-- WINSIZE in granules (R61) -/
  winSize : Nat
  /-- byte offset of x0 in the home-lane bank while resident (R61) -/
  winOff : Nat
  /-- core where the fibre is resident, or where its spore was written -/
  core : Nat
  /-- CTXSTATUS.HANDLER (R66) -/
  handler : Bool
  /-- saved return address (R168) -/
  retAddr : DWord
  /-- FAULTINFO0 to 3 (R63) -/
  faultInfo : List DWord
  /-- AWAY, AWFLAGS, AWFCTL (R41, R49) -/
  away : Bool
  awFlags : BitVec 5
  awFctl : BitVec 4
  /-- PRIO (R53) -/
  prio : Nat
  /-- cycle at which JOINCNT reached zero (R53) -/
  age : Nat
  joinCnt : Nat
  /-- AFFINITY 0 to 3 (R41, R47) -/
  affinity : Nat
  tgtDie : Nat
  task : Bool
  liveG : BitVec 16
  liveK : BitVec 16
  pendG : BitVec 16
  pendK : BitVec 16
  pendP : Bool
  wait : Wait
  /-- the replayable record that holds the fibre, when `wait` is `replay`: queue and whether posted is in the record list -/
  heldBy : Option Nat
  /-- landing slot's core, reserved or occupied (R48) -/
  landCore : Option Nat
  landed : Bool
  /-- write-back of the parking core that must be acknowledged before the spore is claimed elsewhere (R207) -/
  claim : Option Nat
  /-- the core that has taken a die-free or die-targeted spore, whose wait list it has joined (R47, R343) -/
  taken : Option Nat
  /-- the expand unit's current item for the fibre: owner fibre, owner lane, item index (R408) -/
  expItem : Option (Nat × Nat × Nat)
  /-- the REFORM group it resumes with as one frond (R36) -/
  group : Option Nat
  /-- saved by a context switch (R349) -/
  saved : Bool
  /-- registers whose word of the unified store is poisoned (R418) -/
  bad : List Nat := []
  /-- a poisoned 64 B unit in which bytes of the spore lie, and its structure (R418) -/
  poisoned : Option (Nat × Nat) := none
  /-- of a task record whose spawning cushion has ended: where that stood (R41) -/
  home : Option CushPlace := none
  deriving DecidableEq, Repr

/-- A result latch: one value a lane (R83). -/
structure Latch where
  w64 : Bool
  vals : List (Option DWord)
  deriving DecidableEq, Repr

/-- A frond: fibres of one cushion at one pc, at most one per home lane (R33). -/
structure Frond where
  fr : Nat
  core : Nat
  cush : Nat
  away : Bool
  /-- members as fibre handles -/
  members : List Nat
  age : Nat
  /-- the split the frond was made by, and its place in that split's order (R346) -/
  split : Nat
  order : Nat
  deriving DecidableEq, Repr

/-- An issue slot of a core that holds a frond or has served one (R57, R82, R346). -/
structure IssueSlot where
  core : Nat
  slot : Nat
  frond : Option Nat
  /-- b0 first; at most four (R83) -/
  latches : List Latch
  /-- cushion slot last served (R346) -/
  lastCush : Nat
  /-- cycle in which its last run ended (R346) -/
  endedAt : Option Nat := none
  deriving DecidableEq, Repr

/-! ## Cushions (02, 07, 12, 13) -/

/-- A channel entry: 32 words and the lane mask (R57, R85). -/
structure ChanEntry where
  words : List Word
  mask : Word
  /-- a word of it in the unified store is poisoned (R418) -/
  bad : Bool := false
  deriving DecidableEq, Repr

/-- STATE of a tile entry (R294). -/
inductive TState where
  | empty | filling | ready | draining
  deriving DecidableEq, Repr

/-- A tile-table entry (R294). -/
structure Tile where
  w0 : DWord
  w1 : DWord
  st : TState
  relpend : Bool
  wclaim : Bool
  readers : Nat
  live : Nat
  deriving DecidableEq, Repr

/-- A convergence register (R298). -/
structure Conv where
  expected : Nat
  count : Nat
  word : DWord
  deriving DecidableEq, Repr

/-- The kind tag of an accumulator tile (R292). -/
inductive AccTag where
  | z | f32 | i32 | f64 | x
  deriving DecidableEq, Repr

/-- A long accumulator: the integer L and its status (R138). -/
structure LongAcc where
  l : Int
  nan : Bool
  pinf : Bool
  ninf : Bool
  wrap : Int
  deriving DecidableEq, Repr

/-- An accumulator tile a0 to a7: its tag and the elements that are not zero, by index 64 m + n (R292). Of a pair of kind f64
the even tile holds the elements below 4,096 and the odd tile the others; of kind x each tile holds the long accumulators
8 m + n, or the part of one, whose bytes of R292 lie in it. -/
structure Acc where
  tag : AccTag
  elems : List (Nat × Nat)
  longs : List (Nat × LongAcc)
  deriving DecidableEq, Repr

/-- The latched weight panel (R303): the codes of each row and, for a block format, the bytes of its side rows. -/
structure Panel where
  fmt : Fmt
  n : Nat
  k : Nat
  xact : Bool
  rows : List (List Nat)
  side : List (List Nat)
  deriving DecidableEq, Repr

/-- Progress of a matrix operation (R300). -/
inductive MPhase where
  | queued | running | read
  deriving DecidableEq, Repr

/-- A matrix operation in the queue with what its last signer's signing captured (R299). -/
structure MatOp where
  id : Nat
  op : Instr
  word : DWord
  /-- value of the g pair named -/
  gpair : DWord
  rm : BitVec 3
  /-- handles of the named tile entries with their fields at entry: sources, then destinations -/
  srcs : List (Nat × Tile)
  dsts : List (Nat × Tile)
  pc : DWord
  lastFibre : Nat
  /-- cost in power units (R290) -/
  cost : Nat
  /-- kind of the accumulator worked on or read, and whether .ovw changes the tag (R291, R292) -/
  tag : AccTag
  clear : Bool
  /-- write-backs of the fork edge of MXRD and MXADD (R236) -/
  barrier : Option Nat
  phase : MPhase
  /-- the MMAG offsets, then for each source read its rows of codes and its side rows (R300, R306) -/
  data : List (List (List Nat))
  panels : List Panel
  /-- MRD: counted bytes not yet landed -/
  counted : Nat
  /-- global writes of MXRD, and reads of MXADD, not yet done at their homes -/
  outstanding : Nat
  /-- bytes read for MXADD: offset and byte; and the images already added (R415) -/
  image : List (Nat × Byte)
  added : Nat := 0
  /-- MRD: rows landed; MXRD and MXADD: pages of the image whose accesses have been made -/
  prog : Nat
  /-- cycle in which it started or last resumed, and the row steps taken before that (R310, R312) -/
  began : Nat
  steps : Nat
  deriving DecidableEq, Repr

/-- The state of an expansion round (R190, R195). -/
inductive ExpPhase where
  | idle | opened | dealing | folding
  deriving DecidableEq, Repr

/-- A participant as owner and receiver (R190, R195). -/
structure ExpPart where
  fid : Nat
  idx : Nat
  start : Nat
  len : Nat
  off : Nat
  /-- accumulator, none before the first fold -/
  acc : Option DWord
  /-- next step as receiver -/
  next : Nat
  collected : Bool
  deriving DecidableEq, Repr

/-- The expand state block (R195). -/
structure Expand where
  phase : ExpPhase
  parts : List ExpPart
  /-- arrivals of the next round: fibre handle, index, start, len (R192) -/
  later : List ExpPart
  total : Nat
  /-- steps folded -/
  folded : Nat
  /-- contributions not yet folded: flattened item, value, and the operation, the type and FCTL of the SEGRED that made it (R65) -/
  contrib : List (Nat × DWord × RedOp × RedTy × BitVec 4)
  deriving DecidableEq, Repr

/-- A cushion and everything it owns (R50, R57, R58). -/
structure Cushion where
  cid : Nat
  carpet : Nat
  core : Nat
  slot : Nat
  px : Nat
  py : Nat
  pz : Nat
  stage : Nat
  pos : Nat
  /-- linear patch index (R340) -/
  patch : Nat
  /-- STRIPEBASE (R60) -/
  stripe : Nat
  /-- SCRATCH bytes by scratch offset -/
  scratch : Memory
  g : List Word
  fsr : BitVec 5
  fctl : BitVec 4
  /-- flags raised in a cycle, which a CSRW of FSR in that cycle does not clear (R64) -/
  fsrNew : Option (Nat × BitVec 5) := none
  /-- FCTL as it was before it was written in a cycle: the other slots use it to the end of that cycle (R65) -/
  fctlOld : Option (Nat × BitVec 4) := none
  chans : List (List ChanEntry)
  tiles : List Tile
  cvs : List Conv
  tks : List Nat
  accs : List Acc
  panel : Option Panel
  mq : List MatOp
  /-- MP0 of the last operation that completed, DONE, QUEUED (R310) -/
  mp0 : Word
  mdone : Word
  mqueued : Word
  mresumed : Bool
  /-- units of the power grant held (R301) -/
  grant : Nat
  /-- cycle at which the queue was last non-empty or running (R301) -/
  mlast : Nat
  exp : Expand
  /-- retired-store counter (R31) -/
  retired : Nat
  /-- kept for inspection after a permission violation (R374) -/
  frozen : Bool
  /-- written to the spill area by a context switch (R349) -/
  saved : Bool
  /-- a fibre of it has gone away: what it releases there meets the acquires of the home fibres at any scope (R233) -/
  roamed : Bool := false
  /-- words of its scratch, by offset over 4, that are poisoned (R418) -/
  bad : List Nat := []
  deriving DecidableEq, Repr

/-! ## Carpets and launch (03, 14) -/

/-- A launch packet's fields (R337). -/
structure Packet where
  addr : Nat
  kernel : DWord
  param : DWord
  px : Nat
  py : Nat
  pz : Nat
  stages : Nat
  width : Nat
  nfib : Nat
  prodLo : Nat
  prodHi : Nat
  prio : Nat
  scv : Bool
  cjv : Bool
  dieMask : BitVec 8
  die0 : Nat
  asid : Nat
  scAddr : DWord
  scThr : DWord
  scType : Nat
  cjAddr : DWord
  cjVal : DWord
  cjType : Nat
  /-- a reserved field of the packet is nonzero -/
  reservedBad : Bool
  deriving DecidableEq, Repr

/-- A kernel header's fields and its tables (R67, R69 to R71). -/
structure Kernel where
  codeOff : Nat
  codeSize : Nat
  entry : Nat
  handler : Nat
  budget : Nat
  stages : Nat
  tiles : Nat
  cvs : Nat
  tokMask : BitVec 8
  chMask : BitVec 16
  scratch : Nat
  chDepth : List Nat
  paramSize : Nat
  live : List DWord
  patches : List DWord
  funcs : List DWord
  deriving DecidableEq, Repr

/-- A carpet from acceptance to retirement or discard (R52, R339, R373). -/
structure Carpet where
  id : Nat
  asid : Nat
  q : Nat
  pkt : Packet
  ker : Kernel
  /-- the launch units' copy of the parameter block (R72) -/
  params : List Byte
  accepted : Nat
  /-- patches placed, in ascending index -/
  placed : Nat
  /-- a carpet-fatal detection has been made: it stops at the next boundary (R373) -/
  dead : Bool
  /-- L1 write-backs that its completion join waits for (R242) -/
  barrier : Option Nat
  /-- discarded; the record stays while a cushion of it is frozen (R374) -/
  gone : Bool
  /-- the cores on which a cushion of it has been placed, whose L1s may hold its words (R349, R373) -/
  cores : List Nat := []
  /-- its queue's die has been reset since it was accepted: it makes no completion join (R428) -/
  noJoin : Bool := false
  deriving DecidableEq, Repr

/-- A packet read and not yet accepted (R335, R336). -/
structure ReadPacket where
  asid : Nat
  q : Nat
  addr : Nat
  /-- HEAD before the increment -/
  index : Nat
  /-- the slot could be read -/
  readable : Bool
  pkt : Packet
  /-- no route led to the package in which the slot lies: address and package (R423) -/
  lost : Option (DWord × Nat) := none
  deriving DecidableEq, Repr

/-! ## Translation and caches (08) -/

/-- A complete translation in a cache (R216): context, page base, level of the leaf and the leaf word. -/
structure Xlat where
  asid : Nat
  base : Nat
  level : Nat
  leaf : DWord
  deriving DecidableEq, Repr

/-- The kind of an access, as records name it (R396). -/
inductive AccKind where
  | load | store | atomic | crust | fetch | walker | engine | joinMigrate
  deriving DecidableEq, Repr

/-- A translated access: its kind, first byte and length, the rights it needs, and for LJOIN and LDGE the SIZE code and whether
it is LDGE (R215, R396). -/
structure Access where
  kind : AccKind
  va : DWord
  n : Nat
  r : Bool
  w : Bool
  x : Bool
  crust : Option (Nat × Bool)
  deriving DecidableEq, Repr

/-- Who waits on a walk or on a replayable record (R216, R372): a fibre with the page address that missed and its access, an
engine operation, or a matrix operation of a cushion. -/
inductive Waiter where
  | fibre (fid : Nat) (va : DWord) (acc : Access) (pc : DWord)
  | engine (op : Nat)
  | matrix (cid op : Nat)
  deriving DecidableEq, Repr

/-- The access of a unit that walks in its own steps, as a record names it: kind, PC, word 2, expansion attribution (R369, R398). -/
structure Missed where
  kind : AccKind
  pc : DWord
  w2 : DWord
  exp : Option (Nat × Nat × Nat)
  deriving DecidableEq, Repr

/-- A walk of a die, for one virtual page of a context; the first waiter started it, unless `first` names another access (R216, R398). The walks
of a die beyond the first 128 are queued. -/
structure Walk where
  id : Nat
  die : Nat
  asid : Nat
  va : DWord
  waiters : List Waiter
  /-- begun before an invalidation: the result is dropped (R217) -/
  dropped : Bool
  /-- the access whose miss brought it, of an engine, a matrix operation or a walker (R398) -/
  first : Option Missed := none
  deriving DecidableEq, Repr

/-- A line of an L1 (R205, R206) or of a metadata cache (R273); the most recently used stands first in its list. -/
structure Line where
  core : Nat
  line : Nat
  valid : BitVec 16
  dirty : BitVec 16
  data : List Byte
  /-- the model's own, of an L1: how old each clean word is, 2n + 1 when the read numbered n brought it, 2n when the core's own
  write of it went to its home at n (log entry 34) -/
  stamps : List Nat := []
  /-- words that are poisoned (R418) -/
  bad : BitVec 16 := 0
  deriving DecidableEq, Repr

/-- A line of the L2 (R209, R210). -/
structure L2Line where
  line : Nat
  valid : BitVec 4
  dirty : BitVec 4
  /-- where the line lies after a migration: die and slice -/
  at_ : Option (Nat × Nat)
  lastDie : Nat
  count : Nat
  deriving DecidableEq, Repr

/-! ## Messages in flight (08, 10, 14) -/

/-- What an acknowledgement does at the core or engine that gets it. -/
inductive AckTo where
  /-- counts a store of the fibre down, or of its cushion's retired stores (R45, R31); the accesses of one store bear its number,
  which grows in issue order, and only the last acknowledgement counts -/
  | store (fid : Nat) (cush : Nat) (num : Nat)
  /-- an L1 write-back of the core (R207) -/
  | writeBack (core : Nat)
  /-- a write of an engine operation, with the counted bytes it carries (R237) -/
  | engine (op : Nat) (bytes : Nat)
  /-- a write of a matrix operation -/
  | matrix (op : Nat)
  /-- the count-up of an away CPY (R317) -/
  | tokenUp (op : Nat) (fid : Nat) (cush : Nat)
  /-- answered to another package (R214) -/
  | link (pkg tag : Nat)
  /-- nobody waits -/
  | nothing
  deriving DecidableEq, Repr

/-- Where the bytes of a read go. -/
inductive ReadTo where
  /-- pending load, atomic or JOIN -/
  | load (op : Nat)
  /-- engine operation: offset in its buffer -/
  | engine (op : Nat) (off : Nat)
  /-- matrix operation: offset in the image -/
  | matrix (op : Nat) (off : Nat)
  /-- a line of a remote page for the walker that serves a fibre (R272) -/
  | walker (fid : Nat)
  /-- answered to another package -/
  | link (pkg tag : Nat)
  deriving DecidableEq, Repr

/-- Who gets the result of an atomic or JOIN: a pending operation of the package, or another package. -/
inductive OpTo where
  | load (op : Nat)
  | link (pkg tag : Nat)
  deriving DecidableEq, Repr

/-- An operation a home applies (R208, R253, R257, R258, R259). -/
inductive HomeOp where
  /-- read the bytes at the physical addresses; each with its place in the destination's buffer -/
  | read (tgt : ReadTo) (bytes : List (Nat × Nat))
  /-- write the bytes -/
  | write (tgt : AckTo) (cells : List (Nat × Byte))
  /-- read-modify-write of n bytes at an address (R253) -/
  | rmw (tgt : OpTo) (aop : Aop) (addr n : Nat) (b cmp : DWord)
  /-- JOIN on the word at an address (R181) -/
  | join (tgt : OpTo) (addr : Nat)
  /-- read of crust bytes of the replica of the die: virtual addresses (R250) -/
  | crustRead (tgt : ReadTo) (asid : Nat) (bytes : List (Nat × DWord))
  /-- LJOIN (R257) -/
  | ljoin (tgt : AckTo) (asid : Nat) (va : DWord) (ctype : Nat) (b : DWord)
  /-- LDGE (R258) -/
  | ldge (op : Nat) (asid : Nat) (va : DWord) (ctype : Nat) (thr : DWord)
  /-- LSYNC request (R259) -/
  | sync (id : Nat)
  /-- L2 prefetch of a sector (R261) -/
  | prefL2 (addr : Nat)
  deriving DecidableEq, Repr

/-- A request on its way to a home: from one core or engine unit to one die in the order sent (R26). -/
structure Req where
  id : Nat
  /-- package core number; plus 384 for the copy engine and plus 768 for the Sorus engine working for a core -/
  src : Nat
  die : Nat
  carpet : Nat
  asid : Nat
  fibre : Nat
  pc : DWord
  va : DWord
  op : HomeOp
  /-- refusals met so far (R347) -/
  refused : Nat
  ticket : Option Nat
  retryAt : Nat
  sent : Nat
  /-- the pages in which the bytes of several accesses of an engine lie that go together (R217, R234) -/
  pages : List DWord := []
  /-- accepted by a home whose die is halted: it holds its place in the tracker (R427) -/
  taken : Bool := false
  /-- a write-back of a line with a poisoned word: the unit it writes is poisoned (R418) -/
  bad : Bool := false
  /-- word 2 of a record about it, as things stood when the access was made (R369) -/
  w2 : DWord := 0
  /-- the next handle when its addresses were translated (R217) -/
  xlated : Nat := 0
  deriving DecidableEq, Repr

/-- What a reply carries. -/
inductive Payload where
  | bytes (tgt : ReadTo) (bs : List (Nat × Byte))
  /-- old value and flags of an atomic -/
  | old (op : Nat) (v : DWord) (flags : BitVec 5)
  /-- the release of a JOIN -/
  | done (op : Nat)
  /-- the value of an LDGE -/
  | value (op : Nat) (v : DWord)
  /-- a die has absorbed an LSYNC (R259) -/
  | absorbed (sync : Nat) (die : Nat)
  deriving DecidableEq, Repr

/-- A reply in flight (R44). -/
structure Reply where
  id : Nat
  die : Nat
  what : Payload
  /-- cycle in which its request was sent (R425) -/
  sent : Nat := 0
  deriving DecidableEq, Repr

/-- An acknowledgement in flight (R45). -/
structure Ack where
  id : Nat
  die : Nat
  tgt : AckTo
  /-- cycle in which its request was sent (R425) -/
  sent : Nat := 0
  deriving DecidableEq, Repr

/-- What kind of instruction a pending reply completes. -/
inductive LoadKind where
  | ld | atom | red | ldge | join
  /-- a fill by PREF, for no fibre (R261) -/
  | pref
  deriving DecidableEq, Repr

/-- Where a byte of an access lies: memory with the page's CPOL, or 3 for a remote page that names this package; a crust cell; another
package. -/
inductive Place where
  | mem (cpol : Nat) (addr : Nat)
  | crust (va : DWord)
  | remote (pkg : Nat) (kind : Nat) (pa : Nat)
  deriving DecidableEq, Repr

/-- A load, atomic, LDGE or JOIN whose reply is due (R250, R254, R255, R258, R181). -/
structure LoadOp where
  id : Nat
  kind : LoadKind
  fid : Nat
  core : Nat
  d : Dst
  size : MSize
  /-- the scope of the acquire that follows, if any -/
  acq : Option Scope
  places : List Place
  /-- the bytes of the value, lowest address first; none: still due -/
  bytes : List (Option Byte)
  /-- the L1 lines its replies fill: line, the words still to be filled, CPOL 2 (R206) -/
  fills : List (Nat × BitVec 16 × Bool)
  /-- the model's own: the number of the read, drawn when it started (log entry 34) -/
  stamp : Nat := 0
  deriving DecidableEq, Repr

/-- A JOIN waiting at the home of its word (R181). -/
structure JoinWait where
  tgt : OpTo
  addr : Nat
  die : Nat
  /-- cycle in which its request was sent (R425) -/
  sent : Nat := 0
  deriving DecidableEq, Repr

/-- An LDGE waiting at its die's slice (R258). -/
structure LdgeWait where
  op : Nat
  die : Nat
  asid : Nat
  va : DWord
  ctype : Nat
  thr : DWord
  carpet : Nat
  /-- cycle in which its request was sent (R425) -/
  sent : Nat := 0
  deriving DecidableEq, Repr

/-- What a held access does when it may go: a store with its page's CPOL, a request to a home, a request to another package, or the start
of a load. -/
inductive HeldAct where
  | store (places : List Place) (bytes : List Byte)
  | send (r : Req)
  | far (r : Req) (pkg kind pa : Nat) (op : LinkOp)
  | load (op : Nat)
  deriving DecidableEq, Repr

/-- A global access held in a core's write-order buffer (R246). -/
structure Held where
  id : Nat
  fid : Nat
  cush : Nat
  core : Nat
  /-- scope of the release, none for an access held behind another -/
  rel : Option Scope
  /-- how much of the store counter is its own -/
  counted : Nat
  /-- the L1 write-backs to wait for, taken once the counters are zero -/
  barrier : Option Nat
  /-- the 64 B lines it touches -/
  lines : List Nat
  /-- address of the instruction and of the access, for a record (R369) -/
  pc : DWord
  va : DWord
  /-- word 2 of that record -/
  w2 : DWord
  act : HeldAct
  deriving DecidableEq, Repr

/-! ## Crust replicas and exchange (08, 10) -/

/-- A die's replica of a region: bytes by offset (R218, R220). -/
structure Replica where
  die : Nat
  asid : Nat
  region : Nat
  bytes : Memory
  deriving DecidableEq, Repr

/-- A block of a region. -/
structure Blk where
  asid : Nat
  region : Nat
  block : Nat
  deriving DecidableEq, Repr

/-- A dirty bit of a schedule entry, or of the sets that LSYNC pushes: to the dies of the package (entry 16), over LINK entries (entry 17)
(R222, R259). -/
structure DirtyBlk where
  die : Nat
  entry : Nat
  blk : Blk
  deriving DecidableEq, Repr

/-- An exchange in flight: its snapshot (R222), or a push of an LSYNC (R259). -/
structure Exchange where
  id : Nat
  die : Nat
  /-- schedule entry; 16 for a push -/
  entry : Nat
  /-- partner die -/
  dst : Nat
  /-- partner package of a LINK entry; such an exchange carries one block -/
  pkg : Option Nat
  blocks : List (Blk × Memory)
  /-- the LSYNC it serves -/
  sync : Option Nat
  /-- absorbed: the acknowledgement is on its way -/
  absorbed : Bool
  /-- a push to another package that waits for a route -/
  unsent : Bool := false
  /-- of a push: the packages it has come through -/
  path : List Nat := []
  deriving DecidableEq, Repr

/-- An LSYNC past its drain (R259): the dies whose controllers have not yet pushed for it, and the pushes it awaits. -/
structure Sync where
  id : Nat
  fid : Nat
  asid : Nat
  sc : Scope
  dies : List Nat
  /-- the dies that have accepted its request, with the cycle in which that was sent (R425) -/
  asked : List (Nat × Nat) := []
  exch : List Nat
  /-- at system scope: its blocks have gone on to the partners of LINK entries -/
  linked : Bool
  /-- the package, die and exchange to acknowledge, of a push that came from another package; its fibre handle is then 0 -/
  back : Option (Nat × Nat × Nat)
  /-- of such a push: its block, and the packages it has come through, to which it does not go on -/
  blk : Option Blk := none
  path : List Nat := []
  deriving DecidableEq, Repr

/-! ## Engines of a die (13) -/

inductive EngKind where
  | cpy | cpyLd | cpySt | cpyTt | cpyd | route
  deriving DecidableEq, Repr

/-- Progress of an engine operation. -/
inductive EngPhase where
  /-- waits for the write-back of its fork edge, or for its count-up's acknowledgement -/
  | fork
  /-- has not asked for its descriptor -/
  | issued
  /-- its descriptor's bytes have been asked for -/
  | descRead
  /-- its bytes are counted; it waits for its tiles -/
  | counted
  | running
  deriving DecidableEq, Repr

/-- An access of an engine operation that is still to be made: n bytes at an address; `data` of a write, `off` the place of the
bytes of a read in the operation's buffer, `bias` the expert of a bias cell of ROUTE. Accesses whose bytes lie in common 64 B sectors
or block-scaled units go together: `more` says that the next one joins this one, `whole` that they are performed at one time (R234,
R235). -/
structure EngItem where
  va : DWord
  n : Nat
  off : Nat
  data : List Byte
  bias : Option Nat
  more : Bool := false
  whole : Bool := false
  deriving DecidableEq, Repr

/-- A CPY, CPYT, CPYD or ROUTE in progress (R317 to R330). -/
structure EngOp where
  id : Nat
  kind : EngKind
  cush : Nat
  carpet : Nat
  asid : Nat
  core : Nat
  die : Nat
  tok : Nat
  pc : DWord
  /-- source or base address, destination or descriptor address -/
  a : DWord
  b : DWord
  /-- valid bytes of a CPY -/
  n : Nat
  /-- tile entries -/
  src : Nat
  dst : Nat
  phase : EngPhase
  /-- write-backs of the fork edge -/
  barrier : Nat
  /-- the count-up of an away CPY is not acknowledged yet (R317) -/
  upDue : Bool
  /-- the descriptor, once read -/
  desc : List Byte
  /-- counted bytes not yet counted down -/
  left : Nat
  /-- rows applied, of the whole sequence (R332), and whether a row or a block is in flight -/
  row : Nat
  busy : Bool
  /-- accesses to be made; replies or acknowledgements due; the bytes that have come -/
  todo : List EngItem
  want : Nat
  buf : List (Nat × Byte)
  /-- translated bytes that wait for the accesses they go with: place, place in the buffer, byte to be written; virtual address, and the next
  handle when they were translated (R217) -/
  stage : List ((Place × Nat × Byte) × DWord × Nat)
  /-- an access waits for the answer to a page fault (R372) -/
  stalled : Bool
  /-- CPYD: next block, stream bytes written, block index, code lengths (R324); bytes written and not yet counted down; the
  header has been read; the reason for which the header fails -/
  nextBlk : DWord
  stream : Nat
  blkIdx : Nat
  lens : List Nat
  uncounted : Nat
  header : Bool
  fails : Option Nat
  /-- CPYD: the code-length table of the block is still to come (R413) -/
  table : Bool := false
  /-- the requests that are out make up one block-scaled access that lies in several packages (R235) -/
  wide : Bool := false
  deriving DecidableEq, Repr

/-- An x, g or latch operand of a cursor instruction as read at issue: as one register, as a pair, and the violation that its
use as a pair would be (syndrome, detail) (R275). -/
structure WArg where
  v32 : DWord
  v64 : DWord
  bad : Option (Nat × Nat)
  deriving DecidableEq, Repr

/-- A destination of a cursor instruction, which lands in the spore as one reply (R272). -/
inductive WkLand where
  | cursor (k : Nat) (c : Cursor)
  | reg (d : Dst) (v : DWord) (wide : Bool)
  /-- the instruction writes neither: its write, whose accesses bear this number, has been sent (R272, R283) -/
  | done (num : Nat)
  deriving DecidableEq, Repr

/-- A cursor instruction that a walker completes while its fibre is parked (R272): its operands as read at issue, the
violation that a pair destination would be, the remote lines asked for and fetched, the frond it was issued by, the replies it owes,
and those still due once the walk is done. -/
structure WalkerJob where
  fid : Nat
  core : Nat
  instr : Instr
  pc : DWord
  args : List WArg
  dpair : Option (Nat × Nat)
  asked : List Nat
  fetched : List (Nat × Byte)
  frond : Nat
  join : Nat
  due : List WkLand
  deriving DecidableEq, Repr

/-! ## Faults, power, time (12, 18, 21) -/

/-- A fault record before it is written to a ring (R369); SEQ is given at posting. -/
structure Rec where
  cls : Nat
  syn : Nat
  asid : Nat
  exp : Bool
  frozen : Bool
  esc : Bool
  w1 : DWord
  w2 : DWord
  w3 : DWord
  w4 : DWord
  w5 : DWord
  w6 : DWord
  w7 : DWord
  deriving DecidableEq, Repr

/-- What a posted or waiting record stands for, for ANSOP (R369). -/
inductive Hold where
  | nothing
  | sysc (fid : Nat)
  | replay (hold : Nat)
  /-- a record that froze masters: their FRZTAB entries get its SEQ -/
  | freeze (entries : List Nat)
  /-- the carpets this device record touched get its SEQ -/
  | device (tag : Nat)
  deriving DecidableEq, Repr

structure QRec where
  queue : Nat
  rec_ : Rec
  hold : Hold
  deriving DecidableEq, Repr

/-- A record in a ring that an ANSOP may still name. -/
structure Posted where
  queue : Nat
  seq : Nat
  hold : Hold
  deriving DecidableEq, Repr

/-- A carpet-fatal detection that awaits the discard (R373). -/
structure Detect where
  carpet : Nat
  rec_ : Rec
  die : Nat
  core : Nat
  /-- freezes its master, a cushion (R374) -/
  freeze : Option Nat
  /-- the device record whose SEQ goes to W3 -/
  device : Option Nat
  deriving DecidableEq, Repr

/-- A page fault's hold: who waits on its record (R372). -/
structure ReplayHold where
  id : Nat
  die : Nat
  asid : Nat
  va : DWord
  waiters : List Waiter
  deriving DecidableEq, Repr

/-- A power request of a cushion (R301). -/
structure PowerReq where
  cush : Nat
  amount : Nat
  cycle : Nat
  deriving DecidableEq, Repr

/-- A host access through BAR 2 that has been received, with BRWIN as it stood then (R20): the address and the member it reaches. -/
structure BarAcc where
  addr : DWord
  member : Nat
  asid : Nat
  phys : Bool
  bytes : Nat
  write : Option (List Byte)
  deriving DecidableEq, Repr

/-- A landing reservation request (R263). -/
structure LandReq where
  fid : Nat
  die : Nat
  deriving DecidableEq, Repr

/-- A turn of the agenda: the cycles CLOCK moves on by, and what happens (log entry 2). -/
inductive Act where
  | issue (core slot : Nat)
  | event (i : Instr)
  deriving DecidableEq, Repr

structure Turn where
  dt : Nat
  act : Act
  deriving DecidableEq, Repr

/-- What has happened in one cycle, for the rules that order what falls into the same cycle: the cycle; SIZE of the power pool
before its first write in it (R14); connection-table entries written (R25); dies whose launch unit has accepted a packet (R336);
schedule entries fired, by die and entry (R221); issue slots that have issued, by core and slot (R298, R311). -/
structure Cycle where
  cycle : Nat
  pool : Option Nat
  conn : List Nat
  accepted : List Nat
  fired : List (Nat × Nat)
  issued : List (Nat × Nat)
  deriving DecidableEq, Repr

/-- The package. -/
structure State where
  /-- control registers that have been written: offset and 64-bit word (R443); others hold their reset value -/
  ctl : List (Nat × DWord)
  /-- arithmetic cycles since package reset (R63) -/
  clock : Nat
  /-- firmware has released package reset (R16, R18) -/
  running : Bool
  /-- vault and HBM bytes by the addresses of Machine/Phys (R202) -/
  mem : Memory
  /-- dirty L2 bytes, by the same addresses (R209) -/
  l2data : List (Nat × Byte)
  l2 : List L2Line
  l1 : List Line
  meta_ : List Line
  /-- poisoned 64 B units and the structure that holds each (R418) -/
  poison : List (Nat × Nat)
  coreTlb : List (Nat × Xlat)
  dieTlb : List (Nat × Xlat)
  walks : List Walk
  /-- the invalidation in progress: sequence after which accesses no longer count (R217) -/
  inval : Option (Nat × Nat × DWord)
  carpets : List Carpet
  packets : List ReadPacket
  cushions : List Cushion
  fibres : List Fibre
  fronds : List Frond
  slots : List IssueSlot
  reqs : List Req
  replies : List Reply
  acks : List Ack
  loads : List LoadOp
  joins : List JoinWait
  ldges : List LdgeWait
  held : List Held
  /-- L1 write-backs not yet acknowledged: core and id (R207) -/
  wbs : List (Nat × Nat)
  /-- L1 resizes in progress: core, new L1KB, write-backs to wait for (R59) -/
  resizes : List (Nat × Nat × Nat)
  /-- the next ticket of the homes (R347) -/
  nextTicket : Nat
  replicas : List Replica
  dirty : List DirtyBlk
  exchanges : List Exchange
  /-- firings that wait for the entry's previous exchange, a halted die or a route: die and entry (R222, R427) -/
  fireDue : List (Nat × Nat)
  syncs : List Sync
  engines : List EngOp
  /-- order in which CPYD operations take decoder turns, by die: last served -/
  decoders : List (Nat × Nat)
  jobs : List WalkerJob
  power : List PowerReq
  landing : List LandReq
  /-- records waiting for a ring (R370) -/
  queued : List QRec
  posted : List Posted
  detects : List Detect
  holds : List ReplayHold
  /-- device records not yet posted keep a tag for W3 of 0x0403 records -/
  deviceSeq : List (Nat × Nat)
  /-- BAR 2 ingress frozen; link request channels frozen, by port (R374) -/
  barFrozen : Bool
  portsFrozen : List Nat
  /-- PCIe link of the bridge is up (R424) -/
  hostUp : Bool
  /-- interrupt messages held (member, vector), and MSI-X vectors sent, oldest first (R21, R424) -/
  irqHeld : List (Nat × Nat)
  irqOwed : List Nat
  msix : List Nat
  /-- messages that left by a link port (R15) -/
  linkOut : List (Nat × LinkMsg)
  /-- consecutive flits of each port that failed their check (R423); ports in training -/
  linkFails : List (Nat × Nat)
  training : List Nat
  /-- requests to other packages not yet answered: tag, pending request -/
  remote : List (Nat × Req)
  /-- forwarded BAR 4 accesses not yet answered: tag, bytes, whether it writes (R19) -/
  bar4 : List (Nat × Nat × Bool)
  /-- forwarded BAR 2 accesses not yet answered: tag, address, ASID it was received under, whether it writes (R20) -/
  bar2 : List (Nat × DWord × Nat × Bool)
  /-- BAR 2 accesses received and not yet performed, in the order received (R20, R424) -/
  barWait : List BarAcc
  /-- messages taken from a port that wait for a halted or resetting die, with their ports, oldest first (R424, R427) -/
  linkWait : List (Nat × LinkMsg)
  /-- cycle at which each suspended context came to be suspended (R350) -/
  suspendedAt : List (Nat × Nat)
  /-- L1 write-backs that a suspension waits for: ASID and the first id that is not among them (R349 step 7) -/
  suspendWb : List (Nat × Nat)
  /-- cycle since which a HALT bit has been set: the watchdogs stand frozen (R427) -/
  haltSince : Option Nat
  /-- dies that were all in reset at once and still have to reload their replicas from the backing images (R376) -/
  imageReload : List Nat
  /-- the spores, held writes and matrix operations, by handle, that lie in a spill area and not in the record area of their core (R46, R345) -/
  spilled : List Nat
  /-- what the last host read returned -/
  hostData : List Byte
  /-- the model's own fields: the next handle, the draw of free values, the issue slot of the instruction in execution, the
  turns to come -/
  nextId : Nat
  oracle : Nat
  focus : Option (Nat × Nat)
  /-- what has happened in the cycle that `cyc.cycle` names -/
  cyc : Cycle
  agenda : List Turn
  deriving DecidableEq, Repr

/-- The package right after reset. Registers stand at the values of their field maps, which `ctl` lists only once they are
written; memory lists nothing; no work is in flight. -/
def State.reset : State where
  ctl := []
  clock := 0
  running := false
  mem := []
  l2data := []
  l2 := []
  l1 := []
  meta_ := []
  poison := []
  coreTlb := []
  dieTlb := []
  walks := []
  inval := none
  carpets := []
  packets := []
  cushions := []
  fibres := []
  fronds := []
  slots := []
  reqs := []
  replies := []
  acks := []
  loads := []
  joins := []
  ldges := []
  held := []
  wbs := []
  resizes := []
  nextTicket := 0
  replicas := []
  dirty := []
  exchanges := []
  fireDue := []
  syncs := []
  engines := []
  decoders := []
  jobs := []
  power := []
  landing := []
  queued := []
  posted := []
  detects := []
  holds := []
  deviceSeq := []
  barFrozen := false
  portsFrozen := []
  hostUp := true
  irqHeld := []
  irqOwed := []
  msix := []
  linkOut := []
  linkFails := []
  training := []
  remote := []
  bar4 := []
  bar2 := []
  barWait := []
  linkWait := []
  suspendedAt := []
  suspendWb := []
  haltSince := none
  imageReload := []
  spilled := []
  hostData := []
  nextId := 1
  oracle := 0
  focus := none
  cyc := { cycle := 0, pool := none, conn := [], accepted := [], fired := [], issued := [] }
  agenda := []

end Sys2Proof.Machine
end

