-- ==== Sys2Proof/Machine/Bits.lean ====
section
/-! DEFINITION. Bit fields of 64-bit words, extensions, byte memories in canonical form, and list updates. -/

namespace Sys2Proof.Machine

/-! ## Fields of words -/

/-- The field of n bits from bit lo. -/
def getF (w : DWord) (lo n : Nat) : Nat := (w.toNat >>> lo) % 2 ^ n

def getB (w : DWord) (i : Nat) : Bool := w.getLsbD i

/-- The word with the field of n bits from bit lo replaced by v mod 2^n. -/
def setF (w : DWord) (lo n v : Nat) : DWord :=
  (w &&& ~~~(BitVec.ofNat 64 ((2 ^ n - 1) <<< lo))) ||| BitVec.ofNat 64 ((v % 2 ^ n) <<< lo)

def setB (w : DWord) (i : Nat) (b : Bool) : DWord := setF w i 1 b.toNat

def ofBytes (bs : List Byte) : Nat := leNat bs

/-- A byte address plus a signed displacement, modulo 2^64 (R198). -/
def addrAdd (a : DWord) (d : Int) : DWord := BitVec.ofInt 64 ((a.toNat : Int) + d)

/-- Bits [63:57] all equal bit 56 (R198). -/
def canonicalVA (a : DWord) : Bool := a.sshiftRight 56 == 0#64 || a.sshiftRight 56 == BitVec.allOnes 64

def lo32 (v : DWord) : Word := v.setWidth 32
def hi32 (v : DWord) : Word := (v >>> 32).setWidth 32
def zext (v : Word) : DWord := v.setWidth 64
def pair64 (lo hi : Word) : DWord := hi ++ lo

/-- The v mod 2^64 of an integer. -/
def ofI64 (v : Int) : DWord := BitVec.ofInt 64 v
def ofN64 (v : Nat) : DWord := BitVec.ofNat 64 v

def divUp (a b : Nat) : Nat := (a + b - 1) / b
def roundUp (a b : Nat) : Nat := divUp a b * b

/-! ## Lists -/

def updIf {α : Type} (p : α → Bool) (f : α → α) (l : List α) : List α := l.map (fun a => if p a then f a else a)

def getD {α : Type} (l : List α) (i : Nat) (d : α) : α := (l[i]?).getD d

/-- The list with element i replaced; a list too short for it is filled up with d. -/
def setAt {α : Type} (d : α) : List α → Nat → α → List α
  | [], 0, v => [v]
  | [], n + 1, v => d :: setAt d [] n v
  | _ :: l, 0, v => v :: l
  | a :: l, n + 1, v => a :: setAt d l n v

/-- Insert keeping an order given by a comparison: after every element that is not behind it. -/
def insertBy {α : Type} (before : α → α → Bool) (x : α) : List α → List α
  | [] => [x]
  | a :: l => if before x a then x :: a :: l else a :: insertBy before x l

def sortBy {α : Type} (before : α → α → Bool) (l : List α) : List α :=
  l.foldl (fun acc x => insertBy before x acc) []

/-- The element that stands before all others, the first of equals. -/
def bestBy {α : Type} (before : α → α → Bool) : List α → Option α
  | [] => none
  | a :: l => some (l.foldl (fun b x => if before x b then x else b) a)

def sumBy {α : Type} (f : α → Nat) (l : List α) : Nat := l.foldl (fun n a => n + f a) 0

def addNew {α : Type} [DecidableEq α] (a : α) (l : List α) : List α := if a ∈ l then l else l ++ [a]

/-- The positions of the set bits of a mask below n, ascending. -/
def maskBits (n m : Nat) : List Nat := (List.range n).filter (fun i => m.testBit i)

/-! ## Byte memories -/

/-- The byte at an address; 0 where none is listed. -/
def memRead : Memory → Nat → Byte
  | [], _ => 0
  | (a, b) :: m, x => if a = x then b else if x < a then 0 else memRead m x

/-- Write one byte, keeping the canonical form. -/
def memWrite : Memory → Nat → Byte → Memory
  | [], x, v => if v = 0 then [] else [(x, v)]
  | (a, b) :: m, x, v =>
    if x < a then (if v = 0 then (a, b) :: m else (x, v) :: (a, b) :: m)
    else if a = x then (if v = 0 then m else (x, v) :: m)
    else (a, b) :: memWrite m x v

def memWriteAll (m : Memory) (cells : List (Nat × Byte)) : Memory := cells.foldl (fun m c => memWrite m c.1 c.2) m

/-- The n bytes from an address. -/
def memBytes (m : Memory) (a n : Nat) : List Byte := (List.range n).map (fun i => memRead m (a + i))

/-- The bytes of a list placed from an address. -/
def cellsAt (a : Nat) (bs : List Byte) : List (Nat × Byte) := (List.range bs.length).zip bs |>.map (fun p => (a + p.1, p.2))

/-- The addresses from lo rise strictly and no byte is 0. -/
def memWfFrom (lo : Nat) : Memory → Bool
  | [] => true
  | (a, b) :: m => decide (lo ≤ a) && decide (b ≠ 0) && memWfFrom (a + 1) m

/-- The canonical form of a memory. -/
def Memory.wf (m : Memory) : Bool := memWfFrom 0 m

/-- The listed byte at an address in a sorted list that may hold zeros. -/
def ovRead : List (Nat × Byte) → Nat → Option Byte
  | [], _ => none
  | (a, b) :: m, x => if a = x then some b else if x < a then none else ovRead m x

def ovWrite : List (Nat × Byte) → Nat → Byte → List (Nat × Byte)
  | [], x, v => [(x, v)]
  | (a, b) :: m, x, v =>
    if x < a then (x, v) :: (a, b) :: m else if a = x then (x, v) :: m else (a, b) :: ovWrite m x v

end Sys2Proof.Machine
end

