-- ==== Sys2Proof/Machine/Ctl.lean ====
section
/-! DEFINITION. The package control space: offsets of the registers, their fields and reset values, and the generic access
(R5, R443). -/

namespace Sys2Proof.Machine

/-! ## Offsets -/

def offPKGID : Nat := 0x100
def offLKBRIDGE : Nat := 0x200
def offBRGSEL : Nat := 0x208
def offBRWIN : Nat := 0x300
def offLKSTAT (p : Nat) : Nat := 0x400 + 8 * p
def offBRPEND (v : Nat) : Nat := 0x500 + 8 * v
def offPWPOOL : Nat := 0x1000
def offPWEVT : Nat := 0x1008
def offRHSTAT : Nat := 0x2000
def offCTXMEM (a : Nat) : Nat := 0x5000 + 16 * a
def offCRPART : Nat := 0x5800
def offCRSTAT : Nat := 0x5808
def offEXSCHED (d e : Nat) : Nat := 0x6000 + 0x80 * d + 8 * e
def offXLINVA : Nat := 0x7000
def offXLINVC : Nat := 0x7008
def offCRTAB (a r : Nat) : Nat := 0x8000 + 0x400 * a + 16 * r
def offCONN (i : Nat) : Nat := 0x10000 + 8 * i
def offHEAP (a h d : Nat) : Nat := 0x18000 + 0x800 * a + 0x80 * h + 16 * d
def offUSCFG (c : Nat) : Nat := 0x20000 + 8 * c
def offVLTCFG (c : Nat) : Nat := 0x21000 + 8 * c
def offLQ (a q : Nat) : Nat := 0x28000 + 0x200 * a + 32 * q
def offCTXCB (a : Nat) : Nat := 0x2C000 + 0x40 * a
/-- queue 0 to 15: a context; 16: the device (R369) -/
def offFQ (q : Nat) : Nat := 0x30000 + 0x40 * q
def offFRZTAB (i : Nat) : Nat := 0x31000 + 16 * i
def offRSTCTL : Nat := 0x32000
def offDEVSTAT : Nat := 0x32008
def offWDCFG : Nat := 0x33000
def offDBGCTL : Nat := 0x33100
def offECCSTAT (d : Nat) : Nat := 0x34000 + 0x10 * d

/-- The register families of the control space. -/
inductive CReg where
  | pkgid | lkbridge | brgsel | brwin | lkstat (p : Nat) | brpend (v : Nat) | pwpool | pwevt | rhstat
  | route (word : Nat) | ctxmem (a w : Nat) | crpart | crstat | exsched (d e : Nat) | xlinva | xlinvc
  | crtab (a r w : Nat) | conn (i : Nat) | heap (a h d w : Nat) | uscfg (c : Nat) | vltcfg (c : Nat)
  | lq (a q w : Nat) | ctxcb (a w : Nat) | fq (q w : Nat) | frztab (i w : Nat) | rstctl | devstat | wdcfg | dbgctl
  | eccstat (d w : Nat)
  deriving DecidableEq, Repr

/-- The register at an 8-byte aligned offset, if there is one. -/
def cregAt (o : Nat) : Option CReg :=
  if o = 0x100 then some .pkgid else if o = 0x200 then some .lkbridge else if o = 0x208 then some .brgsel
  else if o = 0x300 then some .brwin
  else if 0x400 ≤ o ∧ o < 0x480 then some (.lkstat ((o - 0x400) / 8))
  else if 0x500 ≤ o ∧ o < 0x588 then some (.brpend ((o - 0x500) / 8))
  else if o = 0x1000 then some .pwpool else if o = 0x1008 then some .pwevt else if o = 0x2000 then some .rhstat
  else if 0x3000 ≤ o ∧ o < 0x3020 then some (.route o)
  else if 0x4000 ≤ o ∧ o < 0x4200 then some (.route o)
  else if 0x5000 ≤ o ∧ o < 0x5100 then some (.ctxmem ((o - 0x5000) / 16) ((o - 0x5000) % 16 / 8))
  else if o = 0x5800 then some .crpart else if o = 0x5808 then some .crstat
  else if 0x6000 ≤ o ∧ o < 0x6400 then some (.exsched ((o - 0x6000) / 0x80) ((o - 0x6000) % 0x80 / 8))
  else if o = 0x7000 then some .xlinva else if o = 0x7008 then some .xlinvc
  else if 0x8000 ≤ o ∧ o < 0xC000 then
    some (.crtab ((o - 0x8000) / 0x400) ((o - 0x8000) % 0x400 / 16) ((o - 0x8000) % 16 / 8))
  else if 0x10000 ≤ o ∧ o < 0x10800 then some (.conn ((o - 0x10000) / 8))
  else if 0x18000 ≤ o ∧ o < 0x20000 then
    some (.heap ((o - 0x18000) / 0x800) ((o - 0x18000) % 0x800 / 0x80) ((o - 0x18000) % 0x80 / 16) ((o - 0x18000) % 16 / 8))
  else if 0x20000 ≤ o ∧ o < 0x20C00 then some (.uscfg ((o - 0x20000) / 8))
  else if 0x21000 ≤ o ∧ o < 0x21C00 then some (.vltcfg ((o - 0x21000) / 8))
  else if 0x28000 ≤ o ∧ o < 0x2A000 then
    some (.lq ((o - 0x28000) / 0x200) ((o - 0x28000) % 0x200 / 32) ((o - 0x28000) % 32 / 8))
  else if 0x2C000 ≤ o ∧ o < 0x2C400 ∧ (o - 0x2C000) % 0x40 < 32 then
    some (.ctxcb ((o - 0x2C000) / 0x40) ((o - 0x2C000) % 0x40 / 8))
  else if 0x30000 ≤ o ∧ o < 0x30440 then some (.fq ((o - 0x30000) / 0x40) ((o - 0x30000) % 0x40 / 8))
  else if 0x31000 ≤ o ∧ o < 0x31100 then some (.frztab ((o - 0x31000) / 16) ((o - 0x31000) % 16 / 8))
  else if o = 0x32000 then some .rstctl else if o = 0x32008 then some .devstat
  else if o = 0x33000 then some .wdcfg else if o = 0x33100 then some .dbgctl
  else if 0x34000 ≤ o ∧ o < 0x34080 then some (.eccstat ((o - 0x34000) / 16) ((o - 0x34000) % 16 / 8))
  else none

/-- Access codes (R5). -/
inductive CAcc where
  | ro | rw | w1c | rc | w
  deriving DecidableEq, Repr

/-- The fields of a register that software may act on: low bit, width, access. Bits outside them are RO or reserved. -/
def cregFields : CReg → List (Nat × Nat × CAcc)
  | .pkgid | .lkbridge | .devstat => []
  | .brgsel => [(0, 4, .rw), (4, 1, .rw)]
  | .brwin => [(0, 4, .rw), (4, 4, .rw), (8, 1, .rw), (30, 27, .rw)]
  | .lkstat _ => [(1, 1, .w1c), (3, 1, .w), (16, 16, .rc)]
  | .brpend _ => [(0, 16, .w1c)]
  | .pwpool => [(0, 16, .rw)]
  | .pwevt => [(0, 1, .w1c), (1, 1, .w1c)]
  | .rhstat => [(0, 1, .w1c), (1, 1, .w1c), (2, 1, .w1c), (3, 1, .w1c)]
  | .route _ => [(0, 16, .rw), (16, 16, .rw), (32, 16, .rw), (48, 16, .rw)]
  | .ctxmem _ 0 => [(0, 1, .rw), (12, 27, .rw)]
  | .ctxmem _ _ => [(22, 42, .rw)]
  | .crpart => [(0, 4, .rw)]
  | .crstat => [(0, 1, .w1c)]
  | .exsched _ _ => [(0, 1, .rw), (1, 1, .rw), (2, 3, .rw), (8, 12, .rw), (24, 16, .rw), (40, 16, .rw)]
  | .xlinva => [(0, 64, .rw)]
  | .xlinvc => [(0, 4, .rw), (4, 2, .rw), (8, 1, .w)]
  | .crtab _ _ 0 => [(0, 1, .rw), (2, 1, .rw), (3, 4, .rw), (8, 56, .rw)]
  | .crtab _ _ _ => [(0, 16, .rw), (16, 16, .rw)]
  | .conn _ => [(0, 1, .rw), (1, 3, .rw), (4, 3, .rw), (7, 3, .rw), (10, 3, .rw), (16, 32, .rw)]
  | .heap _ _ _ 0 => [(0, 1, .rw), (32, 32, .rw)]
  | .heap _ _ _ _ => [(0, 32, .rw), (32, 32, .rw)]
  | .uscfg _ => [(0, 5, .rw)]
  | .vltcfg _ => [(0, 4, .rw)]
  | .lq _ _ 0 => [(0, 1, .rw), (8, 4, .rw)]
  | .lq _ _ 1 => [(0, 64, .rw)]
  | .lq _ _ 2 => [(0, 64, .rw)]
  | .lq _ _ _ => []
  | .ctxcb _ 0 => [(0, 2, .w), (4, 1, .w1c)]
  | .ctxcb _ 1 => [(0, 64, .rw)]
  | .ctxcb _ 2 => [(0, 32, .rw)]
  | .ctxcb _ _ => []
  | .fq _ 0 => [(0, 1, .rw), (1, 1, .rw), (2, 5, .rw)]
  | .fq _ 1 => [(0, 64, .rw)]
  | .fq _ 3 => [(0, 32, .rw)]
  | .fq _ 4 => [(0, 32, .rc), (32, 1, .w1c)]
  | .fq _ 5 => [(0, 64, .rw)]
  | .fq _ 6 => [(0, 32, .rw), (32, 2, .rw), (34, 1, .w)]
  | .fq _ _ => []
  | .frztab _ 0 => [(3, 1, .w)]
  | .frztab _ _ => []
  | .rstctl => [(0, 8, .w), (16, 1, .w)]
  | .wdcfg => [(0, 16, .rw), (16, 16, .rw)]
  | .dbgctl => [(0, 8, .rw), (16, 16, .rw), (32, 4, .rw), (36, 1, .w)]
  | .eccstat _ 0 => [(0, 32, .rc), (32, 16, .rc)]
  | .eccstat _ _ => []

/-- The default Rhizoid mesh, entries 0 to 63, with the circuits open (R24). -/
def connDefault (i : Nat) : DWord :=
  if i < 64 then
    let d := i / 8
    let p := i % 8
    let dd := if p < 7 then (d + p + 1) % 8 else d ^^^ 4
    let dp := if p < 7 then 6 - p else 7
    setF (setF (setF (setF (setF (setF (setF 0 0 1 1) 1 3 d) 4 3 p) 7 3 dd) 10 3 dp) 16 32 0xFFFFFFFF) 62 2 2
  else 0

/-- The default exchange schedule (R221). -/
def exschedDefault (d e : Nat) : DWord :=
  if e < 3 then setF (setF (setF (setF 0 0 1 1) 2 3 (d ^^^ (2 ^ e))) 24 16 32) 40 16 (4 * e) else 0

/-- The reset value of a register. -/
def cregReset : CReg → DWord
  | .pwpool => 0x0000003000000300#64
  | .pwevt => 0x400#64
  | .exsched d e => exschedDefault d e
  | .conn i => connDefault i
  | .uscfg _ => 4#64
  | .vltcfg _ => 4#64
  | .fq _ 0 => 0x10#64
  | .wdcfg => 0x10000400#64
  | _ => 0#64

def ctlReset (o : Nat) : DWord :=
  match cregAt o with
  | some r => cregReset r
  | none => 0#64

def ctlFind : List (Nat × DWord) → Nat → Option DWord
  | [], _ => none
  | (a, w) :: l, o => if a = o then some w else ctlFind l o

def ctlErase : List (Nat × DWord) → Nat → List (Nat × DWord)
  | [], _ => []
  | (a, w) :: l, o => if a = o then l else (a, w) :: ctlErase l o

def ctlInsert : List (Nat × DWord) → Nat → DWord → List (Nat × DWord)
  | [], o, w => [(o, w)]
  | (a, v) :: l, o, w => if o < a then (o, w) :: (a, v) :: l else (a, v) :: ctlInsert l o w

/-- The 64-bit word of a register. -/
def ctlW (s : State) (o : Nat) : DWord := (ctlFind s.ctl o).getD (ctlReset o)

/-- Set a register's word; a register at its reset value is not listed. -/
def ctlSet (s : State) (o : Nat) (w : DWord) : State :=
  let l := ctlErase s.ctl o
  { s with ctl := if w = ctlReset o then l else ctlInsert l o w }

def ctlF (s : State) (o lo n : Nat) : Nat := getF (ctlW s o) lo n
def ctlB (s : State) (o i : Nat) : Bool := getB (ctlW s o) i
def ctlSetF (s : State) (o lo n v : Nat) : State := ctlSet s o (setF (ctlW s o) lo n v)
def ctlSetB (s : State) (o i : Nat) (b : Bool) : State := ctlSetF s o i 1 b.toNat

/-! ## Generic access -/

/-- The 8-byte word an access of 4 or 8 aligned bytes reaches, with the bits it covers: offset of the word, low bit, width.
Other accesses are not performed (R443). -/
def ctlCover (off bytes : Nat) : Option (Nat × Nat × Nat) :=
  if bytes = 8 ∧ off % 8 = 0 then some (off, 0, 64)
  else if bytes = 4 ∧ off % 4 = 0 then some (off / 8 * 8, off % 8 * 8, 32)
  else none

/-- The part of a field that an access covers. -/
def fieldPart (lo n clo cn : Nat) : Option (Nat × Nat) :=
  let a := max lo clo
  let b := min (lo + n) (clo + cn)
  if a < b then some (a, b - a) else none

/-- The word after a write of the covered bits, field by field; W, RC and RO fields keep their bits (R5, R443). -/
def fieldsWrite (fs : List (Nat × Nat × CAcc)) (old v : DWord) (clo cn : Nat) : DWord :=
  fs.foldl (fun w f =>
    match fieldPart f.1 f.2.1 clo cn with
    | none => w
    | some (lo, n) =>
      match f.2.2 with
      | .rw => setF w lo n (getF v lo n)
      | .w1c => w &&& ~~~(BitVec.ofNat 64 (getF v lo n <<< lo))
      | _ => w) old

/-- A read's value: W fields read zero (R5). -/
def fieldsRead (fs : List (Nat × Nat × CAcc)) (w : DWord) : DWord :=
  fs.foldl (fun w f => match f.2.2 with | .w => setF w f.1 f.2.1 0 | _ => w) w

/-- The word after a read that covers some RC fields whole (R5, R443). -/
def fieldsAfterRead (fs : List (Nat × Nat × CAcc)) (w : DWord) (clo cn : Nat) : DWord :=
  fs.foldl (fun w f =>
    match f.2.2 with
    | .rc => if clo ≤ f.1 ∧ f.1 + f.2.1 ≤ clo + cn then setF w f.1 f.2.1 0 else w
    | _ => w) w

/-- Whether a write covers a whole field (R443). -/
def coversField (lo n clo cn : Nat) : Bool := decide (clo ≤ lo) && decide (lo + n ≤ clo + cn)

/-- The value of a control write as a 64-bit word in place. -/
def ctlValue (w : CtlWrite) : DWord := if w.bytes = 4 ∧ w.off % 8 = 4 then w.value <<< 32 else w.value

/-! ## Named fields -/

def pkgIdOf (s : State) : Nat := ctlF s offPKGID 0 12
/-- L1KB of a core (R59). -/
def l1KB (s : State) (c : Nat) : Nat := ctlF s (offUSCFG c) 0 5
/-- RECBYTES of a core (R201). -/
def recBytes (s : State) (c : Nat) : Nat := ctlF s (offVLTCFG c) 0 4 * 0x40000
/-- NEARBASE of a context (R200). -/
def nearBase (s : State) (a : Nat) : DWord := BitVec.ofNat 64 (ctlF s (offCTXMEM a + 8) 22 42 <<< 22)
/-- STATE of a context: 0 running, 1 suspending, 2 suspended, 3 resuming (R348). -/
def ctxState (s : State) (a : Nat) : Nat := ctlF s (offCTXCB a) 2 2
/-- A die is to halt (R427); a die is in reset, or has failed its last reset and serves nothing (R376, R428). -/
def dieHalt (s : State) (d : Nat) : Bool := ctlB s offDBGCTL d
def dieInReset (s : State) (d : Nat) : Bool := ctlB s offRSTCTL (8 + d) || ctlB s offDEVSTAT d
def debuggerOn (s : State) (a : Nat) : Bool := ctlB s offDBGCTL (16 + a)

def regionV (s : State) (a r : Nat) : Bool := ctlB s (offCRTAB a r) 0
def regionReady (s : State) (a r : Nat) : Bool := ctlB s (offCRTAB a r) 1
def regionSys (s : State) (a r : Nat) : Bool := ctlB s (offCRTAB a r) 2
def regionType (s : State) (a r : Nat) : Nat := ctlF s (offCRTAB a r) 3 4
def regionBase (s : State) (a r : Nat) : Nat := ctlF s (offCRTAB a r) 8 56 * 256
def regionBlocks (s : State) (a r : Nat) : Nat := ctlF s (offCRTAB a r + 8) 0 16
def regionActive (s : State) (a r : Nat) : Bool := regionV s a r && regionReady s a r

/-- The active region of a context that covers a virtual address (R403). -/
def regionOf (s : State) (a : Nat) (va : DWord) : Option Nat :=
  (List.range 64).find? (fun r =>
    regionActive s a r && decide (regionBase s a r ≤ va.toNat) && decide (va.toNat < regionBase s a r + 256 * regionBlocks s a r))

/-- The region that the detail of 0x0208 names (R395): one in use whose range covers the address, else one whose fields still
describe such a range, else 0x3F. -/
def regionNear (s : State) (a : Nat) (va : DWord) : Nat :=
  let covers (r : Nat) : Bool := decide (regionBase s a r ≤ va.toNat) && decide (va.toNat < regionBase s a r + 256 * regionBlocks s a r)
  match (List.range 64).find? (fun r => (regionV s a r || regionReady s a r) && covers r) with
  | some r => r
  | none => ((List.range 64).find? covers).getD 0x3F

end Sys2Proof.Machine
end

