-- ==== Sys2Proof/Machine/Ops.lean ====
section
/-! DEFINITION. The named operations over fibres, fronds, cushions and runs: lookups, parking and waking, windows of the
unified store, fault records, taking a precise trap and returning from it. -/

namespace Sys2Proof.Machine

/-! ## Lookups and updates -/

def getFibre (s : State) (fid : Nat) : Option Fibre := s.fibres.find? (fun f => f.fid == fid)
def updFibre (s : State) (fid : Nat) (g : Fibre → Fibre) : State :=
  { s with fibres := updIf (fun f => f.fid == fid) g s.fibres }
def getCush (s : State) (cid : Nat) : Option Cushion := s.cushions.find? (fun c => c.cid == cid)
def updCush (s : State) (cid : Nat) (g : Cushion → Cushion) : State :=
  { s with cushions := updIf (fun c => c.cid == cid) g s.cushions }
def getCarpet (s : State) (id : Nat) : Option Carpet := s.carpets.find? (fun c => c.id == id)
def updCarpet (s : State) (id : Nat) (g : Carpet → Carpet) : State :=
  { s with carpets := updIf (fun c => c.id == id) g s.carpets }
def getFrond (s : State) (fr : Nat) : Option Frond := s.fronds.find? (fun f => f.fr == fr)
def updFrond (s : State) (fr : Nat) (g : Frond → Frond) : State :=
  { s with fronds := updIf (fun f => f.fr == fr) g s.fronds }
def getSlot (s : State) (core slot : Nat) : Option IssueSlot := s.slots.find? (fun k => k.core == core && k.slot == slot)
def updSlot (s : State) (core slot : Nat) (g : IssueSlot → IssueSlot) : State :=
  { s with slots := updIf (fun k => k.core == core && k.slot == slot) g s.slots }

/-- The die of a core (R10). -/
def dieOf (core : Nat) : Nat := core / 48

def asidOf (s : State) (carpet : Nat) : Nat := ((getCarpet s carpet).map (·.asid)).getD 0

/-- A core on which the carpet runs: its L1 may come to hold the carpet's words. -/
def ranOn (s : State) (carpet core : Nat) : State := updCarpet s carpet (fun k => { k with cores := (core :: k.cores).dedup })

/-- A fresh handle. -/
def fresh (s : State) : State × Nat := ({ s with nextId := s.nextId + 1 }, s.nextId)

/-- What has happened in the cycle that CLOCK counts. -/
def cycNow (s : State) : Cycle :=
  if s.cyc.cycle = s.clock then s.cyc
  else { cycle := s.clock, pool := none, conn := [], accepted := [], fired := [], issued := [] }

/-- Code base of a carpet's kernel (R67). -/
def codeBase (c : Carpet) : DWord := c.pkt.kernel + ofN64 c.ker.codeOff

/-- A fibre that is a member of its cushion: not a task record. -/
def Fibre.member (f : Fibre) : Bool := !f.task

/-- The live fibres of a cushion, in ascending index (R29). -/
def cushFibres (s : State) (cid : Nat) : List Fibre :=
  sortBy (fun a b => decide (a.idx < b.idx)) (s.fibres.filter (fun f => f.cush == cid && f.member))

/-! ## The frond in execution -/

/-- What the instruction in execution sees: its frond, the members by ascending lane, the home cushion, the carpet. -/
structure Ex where
  core : Nat
  slot : Nat
  frond : Frond
  lanes : List Fibre
  cush : Cushion
  car : Carpet
  pc : DWord
  latches : List Latch
  deriving DecidableEq, Repr

/-- The frond that the focused issue slot holds. -/
def focusEx (s : State) : Option Ex :=
  match s.focus with
  | none => none
  | some (core, slot) =>
    match getSlot s core slot with
    | none => none
    | some k =>
      match k.frond.bind (getFrond s) with
      | none => none
      | some fr =>
        let lanes := sortBy (fun a b => decide (a.lane < b.lane)) (fr.members.filterMap (getFibre s))
        match getCush s fr.cush, lanes with
        | some cu, f :: _ =>
          match getCarpet s cu.carpet with
          | some car => some { core, slot, frond := fr, lanes, cush := cu, car, pc := f.pc, latches := k.latches }
          | none => none
        | _, _ => none

/-- The guard of a fibre (R80). -/
def guardOf (h : Hdr) (f : Fibre) : Bool := f.pred.getLsbD h.gpred.toNat != h.gneg

/-- The instruction word, as records name it (R386). -/
def wordOf (i : Instr) : DWord := (encode i).getD 0#64

/-! ## Runs and fronds (R82, R34) -/

/-- End the run of an issue slot: the frond goes back to the ready fronds and the latches empty (R82, R84, R346). -/
def endRun (s : State) (core slot : Nat) : State :=
  updSlot s core slot (fun k => { k with frond := none, latches := [], endedAt := some s.clock })

def setPc (s : State) (fids : List Nat) (pc : DWord) : State :=
  { s with fibres := updIf (fun f => fids.contains f.fid) (fun f => { f with pc := pc }) s.fibres }

/-- Take fibres out of a frond; an empty frond is no more. -/
def leaveFrond (s : State) (fr : Nat) (fids : List Nat) : State :=
  { s with fronds := (updIf (fun f => f.fr == fr) (fun f => { f with members := f.members.filter (fun m => !fids.contains m) })
      s.fronds).filter (fun f => !f.members.isEmpty) }

/-- A new frond beside an old one, with its age, as place `order` of split `split` (R34, R346). -/
def splitOff (s : State) (old : Frond) (fids : List Nat) (split order : Nat) : State :=
  if fids.isEmpty then s
  else
    let p := fresh (leaveFrond s old.fr fids)
    { p.1 with fronds := p.1.fronds ++ [{ old with fr := p.2, members := fids, split := split, order := order }] }

/-- After the members of a frond changed or its run ended: give the slot back where needed (R82). -/
def settleRun (s : State) (core slot : Nat) (ended : Bool) : State :=
  match (getSlot s core slot).bind (·.frond) with
  | none => s
  | some fr => if ended || (getFrond s fr).isNone then endRun s core slot else s

/-- A new frond of resident fibres, where `f` is (R35, R36). -/
def frondOf (s : State) (f : Fibre) (members : List Nat) (age : Nat) : State :=
  let p := fresh s
  { p.1 with fronds := p.1.fronds ++ [{ fr := p.2, core := f.core, cush := f.cush, away := f.away, members := members,
                                         age := age, split := p.2, order := 0 }] }

/-- A frond of one for a resident fibre (R35). -/
def frondOfOne (s : State) (f : Fibre) (age : Nat) : State := frondOf s f [f.fid] age

/-! ## Windows and stripes of the unified store (R59 to R61, R341) -/

/-- Bytes of a bank below the L1 (R59). -/
def bankTop (s : State) (core : Nat) : Nat := 0x8000 - 1024 * l1KB s core

/-- Bytes a channel's queue takes in the footprint (R60, R67). -/
def chanDepth (k : Kernel) (h : Nat) : Nat := let d := getD k.chDepth h 0; if d = 0 then 16 else d

def footprint (k : Kernel) : Nat :=
  roundUp (k.scratch + sumBy (fun h => if k.chMask.getLsbD h then 132 * chanDepth k h else 0) (List.range 16)) 128

/-- The stripes on a core: start and length in every bank. -/
def stripesOn (s : State) (core : Nat) : List (Nat × Nat) :=
  (s.cushions.filter (fun c => c.core == core && !c.saved)).map (fun c =>
    (c.stripe, match getCarpet s c.carpet with | some k => footprint k.ker / 32 | none => 0))

/-- The windows of a bank of a core. -/
def windowsOn (s : State) (core bank : Nat) : List (Nat × Nat) :=
  (s.fibres.filter (fun f => f.core == core && f.lane == bank && f.status == .resident)).map
    (fun f => (f.winOff, 64 * f.winSize))

def occupied (s : State) (core bank : Nat) : List (Nat × Nat) := stripesOn s core ++ windowsOn s core bank

/-- The lowest aligned free run of `size` bytes below `top`, given the taken runs. -/
def lowestGap (occ : List (Nat × Nat)) (size align top : Nat) : Option Nat :=
  let r := (sortBy (fun a b => decide (a.1 < b.1)) occ).foldl (fun (st : Option Nat × Nat) o =>
    match st.1 with
    | some _ => st
    | none =>
      let q := roundUp st.2 align
      if o.2 = 0 then st
      else if q + size ≤ min o.1 top then (some q, st.2) else (none, max st.2 (o.1 + o.2))) (none, 0)
  match r.1 with
  | some q => some q
  | none => let q := roundUp r.2 align; if q + size ≤ top then some q else none

/-- The free place that a window of n granules gets in a bank: the lowest run, as R341 says of placement; for a restoration, where R30 lets it be any
free place, that is the model's choice (DESIGN CHOICE, log entry 43). -/
def windowPlace (s : State) (core bank n : Nat) : Option Nat :=
  lowestGap (occupied s core bank) (64 * n) 64 (bankTop s core)

/-- WINBASE of a resident fibre (R61). -/
def winBase (f : Fibre) : Nat := f.lane * 0x8000 + f.winOff

/-! ## Spores: sizes and room (R42, R46, R404) -/

def popc16 (b : BitVec 16) : Nat := ((List.range 16).filter (fun i => b.getLsbD i)).length

/-- Bytes of a spore (R42). -/
def sporeBytes (f : Fibre) : Nat := 64 + 64 * popc16 f.liveG + 32 * popc16 f.liveK

/-- A spore, or an entry that a write-order buffer or a matrix queue has spilled, as the areas hold it: its handle, its core and context, its
bytes, whether it is parked, its age. -/
structure SporeItem where
  h : Nat
  core : Nat
  asid : Nat
  bytes : Nat
  parked : Bool
  age : Nat
  deriving DecidableEq, Repr

/-- The held accesses of a core beyond its write-order buffer, in the order they were issued; the buffer has room for one at least (R246). -/
def heldSpill (s : State) (core : Nat) : List Held :=
  match s.held.filter (fun h => h.core == core) with
  | [] => []
  | _ :: rest => rest.drop (Config.heldRoom - 1)

def heldItem (s : State) (h : Held) : SporeItem :=
  { h := h.id, core := h.core, asid := ((getCush s h.cush).map (fun c => asidOf s c.carpet)).getD 0, bytes := Config.heldBytes, parked := false, age := 0 }

/-- The operations of a cushion's matrix queue beyond the 32 that the core holds (R299). -/
def mopSpill (c : Cushion) : List MatOp := if c.saved then [] else c.mq.drop 32

/-- What the record areas and spill areas have to hold (R46, R246, R299). -/
def sporeItems (s : State) : List SporeItem :=
  s.fibres.filterMap (fun f =>
    if f.status != .resident && !f.saved then
      some { h := f.fid, core := f.core, asid := asidOf s f.carpet, bytes := sporeBytes f, parked := f.status == .parked, age := f.age }
    else none) ++
  ((s.held.map (·.core)).dedup).flatMap (fun c => (heldSpill s c).map (heldItem s)) ++
  s.cushions.flatMap (fun c => (mopSpill c).map (fun o =>
    { h := o.id, core := c.core, asid := asidOf s c.carpet, bytes := Config.mopBytes, parked := false, age := 0 }))

/-- Bytes in use in the record area of a core. -/
def recordUse (s : State) (core : Nat) : Nat :=
  sumBy (fun f => if f.core == core && f.status != .resident && !f.saved && !s.spilled.contains f.fid then sporeBytes f else 0) s.fibres +
    sumBy (fun h => if s.spilled.contains h.id then 0 else Config.heldBytes) (heldSpill s core) +
    sumBy (fun c => if c.core == core then sumBy (fun o => if s.spilled.contains o.id then 0 else Config.mopBytes) (mopSpill c) else 0) s.cushions

/-- Bytes of the spill area of a context (R348). -/
def spillSize (s : State) (asid : Nat) : Nat := ctlF s (offCTXCB asid + 0x10) 0 32 * 0x10000

/-! ### Fault queues (R369) -/

def fqV (s : State) (q : Nat) : Bool := ctlB s (offFQ q) 0
def fqLog2 (s : State) (q : Nat) : Nat := ctlF s (offFQ q) 2 5
def fqProd (s : State) (q : Nat) : Nat := ctlF s (offFQ q + 0x10) 0 32
def fqCons (s : State) (q : Nat) : Nat := ctlF s (offFQ q + 0x18) 0 32

/-- Free places of a queue's ring, none while it is closed (R370). -/
def ringFree (s : State) (q : Nat) : Nat :=
  if fqV s q then 2 ^ fqLog2 s q - (fqProd s q + 2 ^ 32 - fqCons s q) % 2 ^ 32 else 0

/-- Bytes of a context's fault records that wait in its spill area: those for which its ring has no place (R370). -/
def recordsWaiting (s : State) (asid : Nat) : Nat :=
  64 * ((s.queued.filter (fun r => r.queue == asid)).length - ringFree s asid)

/-- Bytes of a context's items in its spill area. -/
def spilledBytes (s : State) (asid : Nat) : Nat :=
  sumBy (fun i => if i.asid == asid && s.spilled.contains i.h then i.bytes else 0) (sporeItems s)

/-- Bytes in use in the spill area of a context: spilled items and waiting fault records (R46, R348, R370). -/
def spillUse (s : State) (asid : Nat) : Nat := recordsWaiting s asid + spilledBytes s asid

/-- Ready spores come back from the spill areas, the oldest first, where the record area of their core has room (R46). -/
def fetchBack (s : State) : State :=
  let ready := (sporeItems s).filter (fun i => s.spilled.contains i.h && s.fibres.any (fun f => f.fid == i.h && f.status == .ready))
  (sortBy (fun (a b : SporeItem) => decide (a.age < b.age)) ready).foldl (fun s i =>
    if recordUse s i.core + i.bytes ≤ recBytes s i.core then { s with spilled := s.spilled.filter (· != i.h) } else s) s

/-- A core spills its oldest parked spores, and then what else its record area holds, each where its context's spill area has room, until n bytes are
free in the record area (R46, R345). -/
def spillOut (s : State) (core n : Nat) : State :=
  let mine := (sporeItems s).filter (fun i => i.core == core && !s.spilled.contains i.h)
  let order := sortBy (fun (a b : SporeItem) => (a.parked && !b.parked) || (a.parked == b.parked && decide (a.age < b.age))) mine
  order.foldl (fun s i =>
    if recordUse s core + n ≤ recBytes s core then s
    else if spillUse s i.asid + i.bytes ≤ spillSize s i.asid then { s with spilled := s.spilled ++ [i.h] }
    else s) s

/-- Room for an item of n bytes of a context on a core, with the handle h, that is not among the items yet: in the record area, where older spores
give way to it if they can, or else in the spill area (R46, R345, R404). -/
def makeRoom (s : State) (core asid n h : Nat) : Option State :=
  let s := { s with spilled := s.spilled.filter (· != h) }
  if recordUse s core + n ≤ recBytes s core then some s
  else
    let s := fetchBack s
    let t := spillOut s core n
    if recordUse t core + n ≤ recBytes t core then some t
    else if spillUse s asid + n ≤ spillSize s asid then some { s with spilled := s.spilled ++ [h] }
    else none

/-- There is room for n further bytes of a context on a core (R404). -/
def sporeRoom (s : State) (core asid n : Nat) : Bool := (makeRoom s core asid n 0).isSome

/-- W4 of 0x020A: SPSIZE is 0, and the cause (R395, R404). -/
def spaceW4 (s : State) (asid cause : Nat) : DWord := ofN64 (256 * cause + (if spillSize s asid = 0 then 1 else 0))

/-! ## Fault records and detections (R367 to R373) -/

/-- W2 of a record that names a fibre (R369). -/
def recW2 (carpet core slot fibre lane : Nat) : DWord :=
  ofN64 (carpet % 2 ^ 32 + core * 2 ^ 32 + slot * 2 ^ 41 + fibre * 2 ^ 45 + lane * 2 ^ 55)

def fibreW2 (s : State) (f : Fibre) : DWord :=
  recW2 f.carpet f.core ((getCush s f.cush).map (·.slot) |>.getD 0) f.idx f.lane

def mkRec (s : State) (cls syn asid : Nat) (w1 w2 w3 w4 : DWord) : Rec :=
  { cls, syn, asid, exp := false, frozen := false, esc := false, w1, w2, w3, w4, w5 := ofN64 s.clock, w6 := 0, w7 := 0 }

/-- A carpet-fatal detection: the carpet stops at the next boundary and awaits its discard (R373). -/
def detect (s : State) (carpet : Nat) (r : Rec) (die core : Nat) (freeze device : Option Nat) : State :=
  match getCarpet s carpet with
  | none => s
  | some _ =>
    let s := updCarpet s carpet (fun c => { c with dead := true })
    { s with detects := s.detects ++ [{ carpet, rec_ := r, die, core, freeze, device }] }

/-- The expansion attribution of a fibre's current item (R408, R369). -/
def expDetail (e : Nat × Nat × Nat) : DWord := ofN64 (e.1 + e.2.1 * 2 ^ 10 + e.2.2 * 2 ^ 32)

/-- W2 of a record about a fibre: FIBRE is 0x3FF in the range of R411. -/
def faultW2 (s : State) (f : Fibre) (syn : Nat) : DWord :=
  if 0x300 ≤ syn ∧ syn < 0x340 then recW2 f.carpet f.core ((getCush s f.cush).map (·.slot) |>.getD 0) 0x3FF 0 else fibreW2 s f

/-- A carpet-fatal fault of a fibre's own access or instruction (R395, R411); `freeze`: a permission violation (R374). A record of an access
carries the item that the fibre has been dealt; 0x020A is raised by the want of room, and by no access (R408; log entry 36). -/
def fatalFibre (s : State) (f : Fibre) (syn : Nat) (pc w3 w4 : DWord) (freeze : Bool) : State :=
  let asid := asidOf s f.carpet
  let r := mkRec s 2 syn asid pc (faultW2 s f syn) w3 w4
  let r := match f.expItem with
    | some e => if 0x200 ≤ syn ∧ syn < 0x300 ∧ syn ≠ 0x20A then { r with exp := true, w4 := expDetail e } else r
    | none => r
  detect s f.carpet r (dieOf f.core) f.core (if freeze then some f.cush else none) none

/-- A carpet-fatal fault of an engine or launch unit (R411): no fibre. -/
def fatalEngine (s : State) (carpet asid core slot syn : Nat) (pc w3 w4 : DWord) (freeze : Option Nat) : State :=
  detect s carpet (mkRec s 2 syn asid pc (recW2 carpet core slot 0x3FF 0) w3 w4) (dieOf core) core freeze none

/-- Queue a record for its ring (R370). -/
def queueRec (s : State) (q : Nat) (r : Rec) (h : Hold) : State := { s with queued := s.queued ++ [{ queue := q, rec_ := r, hold := h }] }

/-- Queue a device record (R375, R411): core none is 0x1FF. -/
def deviceRec (s : State) (syn : Nat) (core : Option Nat) (w3 w4 : DWord) : State :=
  queueRec s 16 (mkRec s 3 syn 0 0 (recW2 0 (core.getD 0x1FF) 0 0x3FF 0) w3 w4) (.device s.nextId)
    |> fun t => { t with nextId := t.nextId + 1 }

/-- A device fault touches a carpet: it ends with 0x0403, W3 the device record's SEQ (R375, R411). -/
def touchCarpet (s : State) (carpet : Nat) (tag : Option Nat) : State :=
  match getCarpet s carpet with
  | none => s
  | some c => detect s carpet (mkRec s 2 0x403 c.asid 0 (recW2 carpet 0x1FF 0 0x3FF 0) 0 0) 8 0x1FF none tag

/-- A read of a poisoned word of the unified store is refused: 0x0341, whose address is 0 since the word has no physical one, and the carpet is
touched; consumer 0 a fibre, 1 an engine (R418). -/
def storePoison (s : State) (core consumer carpet : Nat) : State :=
  touchCarpet (deviceRec s 0x341 (some core) 0 (ofN64 (dieOf core * 16 + consumer * 256))) carpet (some s.nextId)

/-! ## Taking a precise trap, and returning (R168, R170, R371, R380) -/

/-- W4 of a precise-trap syndrome (R380). -/
def trapW4 (syn det : Nat) : DWord := ofN64 (syn * 2 ^ 48 + det % 2 ^ 48)

/-- A fibre takes a precise trap at the instruction at `pc`: words 1 to 4 of the record go to FAULTINFO0 to 3, the return
address is saved, and the fibre enters handler mode at code base + HANDLER. With no handler, or in handler mode already, the
trap ends the carpet, with ESC (R168, R367, R371). -/
def takeTrap (s : State) (fid : Nat) (syn : Nat) (pc w3 : DWord) (det : Nat) : State :=
  match getFibre s fid with
  | none => s
  | some f =>
    match getCarpet s f.carpet with
    | none => s
    | some c =>
      if f.handler || c.ker.handler == 0xFFFFFFFF then
        detect s f.carpet { mkRec s 2 syn c.asid pc (fibreW2 s f) w3 (trapW4 syn det) with esc := true }
          (dieOf f.core) f.core none none
      else
        updFibre s fid (fun f => { f with
          faultInfo := [pc, fibreW2 s f, w3, trapW4 syn det]
          retAddr := pc + 8#64
          handler := true
          pc := codeBase c + ofN64 c.ker.handler })

/-- ERET: leave handler mode and continue at the saved return address (R170). -/
def leaveHandler (f : Fibre) : Fibre := { f with handler := false, pc := f.retAddr }

/-! ## Parking and waking (R39 to R44) -/

/-- The entry of the live-set table for an instruction offset (R69). -/
def liveEntry (c : Carpet) (pc : DWord) : Option DWord :=
  c.ker.live.find? (fun e => getF e 0 32 == (pc - codeBase c).toNat)

def granMask (n : Nat) : BitVec 16 := BitVec.ofNat 16 (2 ^ n - 1)

/-- The granules that hold n registers from x i. -/
def granulesOf (i n : Nat) : BitVec 16 :=
  (List.range n).foldl (fun m j => m ||| BitVec.ofNat 16 (2 ^ ((i + j) / 16 % 16))) 0#16

def cursorLoaded (k : Cursor) : Bool := !(k.w0 == 0 && k.w1 == 0 && k.w2 == 0 && k.w3 == 0)

/-- The cursors a fibre has loaded (R43). -/
def loadedMask (f : Fibre) : BitVec 16 :=
  (List.range 16).foldl (fun m i => if cursorLoaded (getD f.k i ⟨0, 0, 0, 0⟩) then m ||| BitVec.ofNat 16 (2 ^ i) else m) 0#16

/-- How a fibre parks: the parking instruction's address (none: forced, R43), where it resumes, what it waits on, the join
count, and the granules and cursors that replies are due into. -/
structure ParkArgs where
  at_ : Option DWord
  resume : DWord
  wait : Wait
  join : Nat
  dstG : BitVec 16
  dstK : BitVec 16
  /-- a reply is due into the predicate word -/
  dstP : Bool := false
  deriving DecidableEq, Repr

/-- The spore of a fibre that parks (R41 to R43, R49, R53). -/
def sporeOf (s : State) (f : Fibre) (a : ParkArgs) : Fibre :=
  let all := granMask f.winSize
  let e := match a.at_, getCarpet s f.carpet with
    | some pc, some c => liveEntry c pc
    | _, _ => none
  let lg := match e with | some w => BitVec.ofNat 16 (getF w 32 16) &&& all | none => all
  let lk := match e with | some w => BitVec.ofNat 16 (getF w 48 16) | none => loadedMask f
  { f with
    pc := a.resume
    status := if a.join = 0 then .ready else .parked
    wait := a.wait
    joinCnt := a.join
    liveG := (lg ||| a.dstG) &&& all
    liveK := lk ||| a.dstK
    pendG := a.dstG
    pendK := a.dstK
    pendP := a.dstP
    age := s.clock
    prio := (getCarpet s f.carpet).map (·.pkt.prio) |>.getD 0
    affinity := if f.away then 2 else 0
    tgtDie := if f.away then dieOf f.core else f.tgtDie
    landCore := none
    landed := false
    claim := none
    taken := none
    group := none
    saved := false
    heldBy := none
    poisoned := none }

/-! ## The bytes of a spore (R41, R42, R44) -/

/-- TGTDIE as a spore shows it: the target die when AFFINITY is 2 or 3, and 0 when it is 0 (R434); of a die-free spore the table gives the field no
meaning, and the model a free value (R41; log entry 37). -/
def shownTarget (f : Fibre) : Nat :=
  match f.affinity % 4 with
  | 0 => 0
  | 1 => Config.idleTarget f.fid f.age
  | _ => f.tgtDie

def placeOfCush (c : Cushion) : CushPlace := { core := c.core, slot := c.slot, stage := c.stage, pos := c.pos }

/-- The home cushion as the spore of a fibre names it, of a task record the spawning fibre's, which may have ended (R41). -/
def sporeHome (s : State) (f : Fibre) : CushPlace :=
  match getCush s f.cush with
  | some c => placeOfCush c
  | none => f.home.getD { core := 0, slot := 0, stage := 0, pos := 0 }

/-- The eight words of a spore's header (R41). `home`: as `sporeHome` gives it. -/
def sporeHeader (f : Fibre) (home : CushPlace) : List DWord :=
  [f.pc, f.frame,
   ofN64 (f.joinCnt % 2 ^ 32 + f.affinity % 4 * 2 ^ 32 + shownTarget f % 8 * 2 ^ 34 + f.task.toNat * 2 ^ 37 + (f.liveK != 0).toNat * 2 ^ 38 +
     f.pred.toNat * 2 ^ 40 + f.lane % 32 * 2 ^ 48 + f.away.toNat * 2 ^ 53 + f.prio % 4 * 2 ^ 54),
   ofN64 (min f.stcnt 0xFFFF + f.winSize % 256 * 2 ^ 16 + f.liveG.toNat * 2 ^ 24 + f.liveK.toNat * 2 ^ 40),
   ofN64 (f.idx % 1024 + f.awFlags.toNat * 2 ^ 10 + f.awFctl.toNat * 2 ^ 15 + home.core % 512 * 2 ^ 32 + home.slot % 16 * 2 ^ 41),
   ofN64 (f.carpet % 2 ^ 32 + home.stage % 8 * 2 ^ 32 + home.pos % 16 * 2 ^ 35),
   ofN64 (f.pendG.toNat + f.pendK.toNat * 2 ^ 16 + f.pendP.toNat * 2 ^ 32),
   Config.queueLink f.fid f.age]

/-- The body: the granules of LIVEG, then the cursors of LIVEK (R42). -/
def sporeBody (f : Fibre) : List Byte :=
  ((List.range 16).filter (fun i => f.liveG.getLsbD i)).flatMap (fun i =>
    (List.range 16).flatMap (fun j => leBytes 4 (getD f.x (16 * i + j) 0).toNat)) ++
  ((List.range 16).filter (fun i => f.liveK.getLsbD i)).flatMap (fun i =>
    let c := getD f.k i ⟨0, 0, 0, 0⟩
    [c.w0, c.w1, c.w2, c.w3].flatMap (fun w => leBytes 8 w.toNat))

/-- A spore's bytes (R41, R42). -/
def sporeImage (f : Fibre) (home : CushPlace) : List Byte :=
  (sporeHeader f home).flatMap (fun w => leBytes 8 w.toNat) ++ sporeBody f

/-- The byte of a spore at which the reply for register x r lands (R44). -/
def replyByte (f : Fibre) (r : Nat) : Nat := 64 + 64 * popc16 (f.liveG &&& granMask (r / 16)) + 4 * (r % 16)

/-- The byte at which the reply for cursor k i lands (R44). -/
def replyByteK (f : Fibre) (i : Nat) : Nat := 64 + 64 * popc16 f.liveG + 32 * popc16 (f.liveK &&& granMask i)

/-! ## The flags of a cushion (R64) -/

/-- FSR with flags raised in a cycle. -/
def Cushion.raise (clock : Nat) (fl : BitVec 5) (c : Cushion) : Cushion :=
  if fl = 0 then c
  else { c with
    fsr := c.fsr ||| fl
    fsrNew := some (clock, match c.fsrNew with | some (t, g) => if t = clock then g ||| fl else fl | none => fl) }

/-- The flags raised in a cycle. -/
def Cushion.raisedIn (clock : Nat) (c : Cushion) : BitVec 5 :=
  match c.fsrNew with
  | some (t, g) => if t = clock then g else 0
  | none => 0

/-- FCTL as an instruction issued in a cycle uses it: a write takes effect from the next cycle on (R65). -/
def Cushion.fctlIn (clock : Nat) (c : Cushion) : BitVec 4 :=
  match c.fctlOld with
  | some (t, v) => if t = clock then v else c.fctl
  | none => c.fctl

/-- The AWFLAGS of a fibre that comes home go to the home cushion's FSR (R49). -/
def flagsHome (s : State) (f : Fibre) : State := updCush s f.cush (Cushion.raise s.clock f.awFlags)

/-- Park a fibre of a frond: it leaves the frond and its window is free. With no room for its spore the carpet ends with
0x020A (R404) and nothing else happens; `after` is what the parking instruction then does. -/
def parkFibre (s : State) (fr : Nat) (f : Fibre) (a : ParkArgs) (after : State → State) : State :=
  let sp := sporeOf s f a
  match makeRoom s f.core (asidOf s f.carpet) (sporeBytes sp) f.fid with
  | some t => after (updFibre (leaveFrond t fr [f.fid]) f.fid (fun _ => sp))
  | none => fatalFibre s f 0x20A f.pc 0 (spaceW4 s (asidOf s f.carpet) 0) false

/-- A parked fibre's join counter reaches zero: it joins its ready queue (R44). A condition met while the context is suspended is found met
at the first check after its resume (R349). -/
def wakeFibre (s : State) (f : Fibre) : Fibre :=
  let g := { f with wait := Wait.none, pendG := 0, pendK := 0, pendP := false, heldBy := none }
  if f.saved then { g with joinCnt := 1 } else { g with status := .ready, joinCnt := 0, age := s.clock }

def wake (s : State) (fid : Nat) : State := updFibre s fid (fun f => if f.status == .parked then wakeFibre s f else f)

def wakeAll (s : State) (fids : List Nat) : State := fids.foldl wake s

/-- One reply of a parked fibre has landed (R44). -/
def joinDown (s : State) (fid : Nat) : State :=
  updFibre s fid (fun f =>
    if f.status != .parked then f else if f.joinCnt ≤ 1 then wakeFibre s f else { f with joinCnt := f.joinCnt - 1 })

/-- One reply of several lands: its registers are written, the join counter goes down by one, and the PEND bits that no reply still to
come is due into clear (R44). -/
def landOne (upd : Fibre → Fibre) (pendG pendK : BitVec 16) (pendP : Bool) (s : State) (fid : Nat) : State :=
  joinDown (updFibre s fid (fun f => { upd f with pendG := pendG, pendK := pendK, pendP := pendP })) fid

/-- Registers of a fibre: x as the window holds it; a read beyond the window cannot happen once checks are made. A write of the whole word
clears its poison (R418). -/
def getX (f : Fibre) (i : Nat) : Word := getD f.x i 0
def setX (f : Fibre) (i : Nat) (v : Word) : Fibre := { f with x := setAt 0 f.x i v, bad := f.bad.filter (fun j => j != i) }
def setX64 (f : Fibre) (i : Nat) (v : DWord) : Fibre := setX (setX f i (lo32 v)) (i + 1) (hi32 v)
def getX64 (f : Fibre) (i : Nat) : DWord := pair64 (getX f i) (getX f (i + 1))

/-- Predicate write; p0 discards writes (R57). -/
def setP (f : Fibre) (i : Nat) (b : Bool) : Fibre :=
  if i = 0 then f
  else { f with pred := if b then f.pred ||| BitVec.ofNat 8 (2 ^ i) else f.pred &&& ~~~(BitVec.ofNat 8 (2 ^ i)) }

def getP (f : Fibre) (i : Nat) : Bool := if i = 0 then true else f.pred.getLsbD i

def getK (f : Fibre) (i : Nat) : Cursor := getD f.k i ⟨0, 0, 0, 0⟩
def setK (f : Fibre) (i : Nat) (c : Cursor) : Fibre := { f with k := setAt ⟨0, 0, 0, 0⟩ f.k i c }

/-- The window after restoration: registers outside LIVEG read zero, cursors outside LIVEK too (R43). A poisoned word of the window goes into the
spore and out of it with its register (R418; log entry 40). -/
def restoreRegs (f : Fibre) : Fibre :=
  { f with
    x := (List.range (16 * f.winSize)).map (fun i => if f.liveG.getLsbD (i / 16) then getX f i else 0)
    k := (List.range 16).map (fun i => if f.liveK.getLsbD i then getK f i else ⟨0, 0, 0, 0⟩)
    bad := f.bad.filter (fun i => f.liveG.getLsbD (i / 16)) }

/-- A window of another size: new granules read zero (R175, R176). -/
def resizeRegs (f : Fibre) (n : Nat) : Fibre :=
  { f with winSize := n, x := (List.range (16 * n)).map (fun i => getX f i), bad := f.bad.filter (fun i => decide (i < 16 * n)) }

/-! ## Flags and modes (R49, R64, R65) -/

/-- Raise floating-point flags for a fibre: in its home cushion's FSR, or in AWFLAGS while away. -/
def raiseFlags (s : State) (f : Fibre) (fl : BitVec 5) : State :=
  if fl = 0 then s
  else if f.away then updFibre s f.fid (fun g => { g with awFlags := g.awFlags ||| fl })
  else updCush s f.cush (Cushion.raise s.clock fl)

def raiseCush (s : State) (cid : Nat) (fl : BitVec 5) : State :=
  if fl = 0 then s else updCush s cid (Cushion.raise s.clock fl)

/-- FCTL as a fibre sees it (R49, R65). -/
def fctlOf (s : State) (f : Fibre) : BitVec 4 :=
  if f.away then f.awFctl else ((getCush s f.cush).map (Cushion.fctlIn s.clock)).getD 0

/-! ## Acquires (R207, R233, R247) -/

def scopeWide : Scope → Bool
  | .die | .package | .system => true
  | _ => false

/-- Invalidate the valid words that are not dirty (R207); fills still due bring nothing into the L1. -/
def l1Invalidate (s : State) (core : Nat) : State :=
  let l1 := (updIf (fun (l : Line) => l.core == core) (fun l => { l with valid := l.valid &&& l.dirty }) s.l1).filter (fun l => l.valid != 0)
  let ls := updIf (fun (k : LoadOp) => k.core == core) (fun k => { k with fills := [] }) s.loads
  { s with l1 := l1, loads := ls, meta_ := s.meta_.filter (fun l => l.core != core) }

/-- A fibre of a cushion has gone away (R233). -/
def roamedOf (s : State) (cush : Nat) : Bool := ((getCush s cush).map (·.roamed)).getD false

/-- The acquire work of a completed acquire of a fibre (R207, R247). Where a fibre of its cushion has gone away, an acquire at cushion or core
scope meets the releases made there, and clean words go too (R233). -/
def acquireWork (s : State) (core fid : Nat) (sc : Scope) : State :=
  if scopeWide sc || roamedOf s (((getFibre s fid).map (·.cush)).getD 0) then l1Invalidate s core else s

/-! ## Ends of waits inside a cushion (R36, R182) -/

/-- BAR n of a cushion releases when every live fibre at home has arrived; for each arriver it acts as a FENCE with acquire-release order
at cushion scope (R182, R233). -/
def checkBars (s : State) (cid : Nat) : State :=
  (List.range 4).foldl (fun s n =>
    let fs := (cushFibres s cid).filter (fun f => !f.away)
    let arrived := fs.filter (fun f => f.wait == .bar n)
    if arrived.length = fs.length ∧ ¬ arrived.isEmpty then
      arrived.foldl (fun s f => wake (acquireWork s f.core f.fid .cushion) f.fid) s
    else s) s

/-- The fibres of a home frond (R33). -/
def homeFrond (s : State) (cid j : Nat) : List Fibre := (cushFibres s cid).filter (fun f => f.idx / 32 == j)

/-- REFORM releases a home frond once every live member has arrived at the same one; they resume as one frond (R36). -/
def checkReform (s : State) (cid j : Nat) : State :=
  match homeFrond s cid j with
  | [] => s
  | f :: fs =>
    if (f :: fs).all (fun g => g.wait == .reform && g.status == .parked && g.pc == f.pc) then
      let p := fresh s
      let s := wakeAll p.1 ((f :: fs).map (·.fid))
      { s with fibres := updIf (fun g => (f :: fs).any (fun h => h.fid == g.fid)) (fun g => { g with group := some p.2 }) s.fibres }
    else s

end Sys2Proof.Machine
end

