-- ==== Sys2Proof/Machine/Operands.lean ====
section
/-! DEFINITION. Operand forms: the checks of R379 and R388 in their order, reading sources, writing results, latches and
channels, and the frame in which a frond executes an instruction (R80 to R85, R378 to R383). -/

namespace Sys2Proof.Machine

/-! ## Illegal uses (R379, R386) -/

/-- An illegal use found in a slot: its place in the order of R379, and what the record says. -/
structure Viol where
  key : Nat
  syn : Nat
  w3 : DWord
  det : Nat
  deriving DecidableEq, Repr

/-- The step of R379 a syndrome belongs to. -/
def synRank (syn : Nat) : Nat :=
  match syn with
  | 0x100 => 0 | 0x101 => 1 | 0x105 => 2 | 0x106 => 3 | 0x107 => 4 | 0x103 => 5 | 0x102 => 6 | 0x104 => 7 | 0x108 => 8
  | 0x109 => 9 | 0x10A => 10 | 0x10E => 11 | 0x10F => 11 | 0x10B => 12 | 0x10C => 13 | 0x10D => 14 | 0x110 => 15
  | 0x111 => 16 | 0x119 => 18 | 0x11A => 19 | 0x11B => 20 | 0x11F => 21
  | 0x112 => 30 | 0x113 => 31 | 0x114 => 32 | 0x118 => 33 | 0x11C => 34
  | _ => 40

def viol (syn field : Nat) (w3 : DWord) (det : Nat) : Viol := { key := synRank syn * 64 + field, syn, w3, det }

/-- The one reported (R379). -/
def firstViol (vs : List Viol) : Option Viol := bestBy (fun a b => decide (a.key < b.key)) vs

/-! ## Uses of operand fields -/

/-- A source field: its number (R386), the operand, how many registers it names, and the classes it allows. -/
structure SrcU where
  field : Nat
  src : Src
  words : Nat
  chan : Bool
  latch : Bool
  gOnly : Bool
  deriving DecidableEq, Repr

/-- A 32-bit value operand: x, g, latch or channel (R145). -/
def s32 (field : Nat) (src : Src) : SrcU := { field, src, words := 1, chan := true, latch := true, gOnly := false }
/-- A 64-bit value operand (R79, R388). -/
def s64 (field : Nat) (src : Src) : SrcU := { field, src, words := 2, chan := false, latch := true, gOnly := false }
def sW (w64 : Bool) (field : Nat) (src : Src) : SrcU := if w64 then s64 field src else s32 field src
/-- A value operand that takes no channel (memory, CURS, MTX, TILE and ASYNC fields, R388). -/
def sNoChan (words field : Nat) (src : Src) : SrcU := { field, src, words, chan := false, latch := words < 4, gOnly := false }
/-- The BASE of an address: x or g, no latch (R243, R388). -/
def sBase (words field : Nat) (src : Src) : SrcU := { field, src, words, chan := false, latch := false, gOnly := false }
/-- A g pair (R105, R315). -/
def sG (field : Nat) (src : Src) : SrcU := { field, src, words := 2, chan := false, latch := false, gOnly := true }

/-- A destination field. -/
structure DstU where
  field : Nat
  dst : Dst
  words : Nat
  chan : Bool
  xOnly : Bool
  /-- class 11 beside x, with WS (R275) -/
  wsNone : Bool := false
  deriving DecidableEq, Repr

def dW (w64 : Bool) (dst : Dst) : DstU := { field := 0, dst, words := if w64 then 2 else 1, chan := !w64, xOnly := false }

/-- A 32-bit destination that takes no channel: D of TKRD, CHCNT, TLSTAT and MPROG (R311, R315, R388). -/
def dNoChan (dst : Dst) : DstU := { field := 0, dst, words := 1, chan := false, xOnly := false }

/-- The cushion that feeds from stage + 1 of the same patch position (R51). -/
def nextStage (s : State) (c : Cushion) : Option Cushion :=
  s.cushions.find? (fun d => d.carpet == c.carpet && d.patch == c.patch && d.pos == c.pos && d.stage == c.stage + 1)
def prevStage (s : State) (c : Cushion) : Option Cushion :=
  s.cushions.find? (fun d => d.carpet == c.carpet && d.patch == c.patch && d.pos == c.pos && d.stage + 1 == c.stage)

/-- Declaration, partner and away checks of a channel operand (R388). -/
def chanViols (ex : Ex) (f : Fibre) (w : DWord) (field h : Nat) (push : Bool) : List Viol :=
  (if ex.car.ker.chMask.getLsbD h then [] else [viol 0x105 field w (field + 3 * 2 ^ 8 + h * 2 ^ 16)]) ++
  (if (if push then ex.cush.stage + 1 == ex.car.ker.stages else ex.cush.stage == 0)
    then [viol 0x106 field w (field + h * 2 ^ 8)] else []) ++
  (if f.away then [viol 0x107 field w 0] else [])

/-- Pair, quad and window checks of an x register field (R388). -/
def xViols (f : Fibre) (w : DWord) (field i words : Nat) : List Viol :=
  (if i % words = 0 then [] else [viol 0x103 field w field]) ++
  (if i + words ≤ 16 * f.winSize then [] else [viol 0x102 field w (field + (max i (16 * f.winSize)) * 2 ^ 8)])

/-- A g register field: pairs even, no use while away (R388). -/
def gViols (f : Fibre) (w : DWord) (field i words : Nat) : List Viol :=
  (if i % words = 0 then [] else [viol 0x103 field w field]) ++ (if f.away then [viol 0x107 field w 0] else [])

/-- The latch value of a lane (R83, R84). -/
def latchVal (ex : Ex) (i lane : Nat) : Option DWord := (ex.latches[i]?).bind (fun l => getD l.vals lane none)

def srcViols (ex : Ex) (f : Fibre) (w : DWord) (u : SrcU) : List Viol :=
  let bad : List Viol := [viol 0x101 u.field w u.field]
  match u.src with
  | .x i => if u.gOnly then bad else xViols f w u.field i.toNat u.words
  | .g i => if u.words = 4 then bad else gViols f w u.field i.toNat u.words
  | .b i =>
    if u.latch && !u.gOnly then
      (if (latchVal ex i.toNat f.lane).isNone then [viol 0x104 u.field w (u.field + i.toNat * 2 ^ 8)] else [])
    else bad
  | .h i _ => if u.chan then chanViols ex f w u.field i.toNat false else bad

/-- The checks of a destination field. DESIGN CHOICE (log entry 18): with WS 1 nothing is pushed, and of a channel's checks the
declaration and the away check remain, not that of the last stage. A destination that must be x may not be class 11, whatever WS is
(R244, R388), but for the results of CURS, which may with WS (R275). -/
def dstViols (ex : Ex) (f : Fibre) (w : DWord) (ws : Bool) (u : DstU) : List Viol :=
  let bad : List Viol := [viol 0x101 u.field w u.field]
  match u.dst with
  | .x i => xViols f w u.field i.toNat u.words
  | .g i => if u.xOnly then bad else gViols f w u.field i.toNat u.words
  | .h i =>
    if !u.chan || u.words != 1 then bad
    else if ws then (chanViols ex f w u.field i.toNat true).filter (fun v => v.syn != 0x106)
    else chanViols ex f w u.field i.toNat true
  | .none => if u.xOnly && !(ws && u.wsNone) then bad else []

/-- A resource field: 0 tl, 1 cv, 2 tk, 3 h (R386 row 0x0105). -/
structure ResU where
  field : Nat
  kind : Nat
  idx : Nat
  deriving DecidableEq, Repr

def resViols (ex : Ex) (f : Fibre) (w : DWord) (awayOk : Bool) (u : ResU) : List Viol :=
  let ok := match u.kind with
    | 0 => decide (u.idx < ex.car.ker.tiles)
    | 1 => decide (u.idx < ex.car.ker.cvs)
    | 2 => ex.car.ker.tokMask.getLsbD u.idx
    | _ => ex.car.ker.chMask.getLsbD u.idx
  (if ok then [] else [viol 0x105 u.field w (u.field + u.kind * 2 ^ 8 + u.idx * 2 ^ 16)]) ++
  (if f.away && !awayOk then [viol 0x107 u.field w 0] else [])

/-! ## The shape of an instruction -/

/-- The operand fields of an instruction and what its use needs. -/
structure Shape where
  srcs : List SrcU
  dst : Option DstU
  res : List ResU
  /-- cushion-held state that an away fibre may not use (R388, 0x0107) -/
  held : Bool
  /-- acts once for the whole frond (R381) -/
  whole : Bool
  /-- x registers it reads beside its source fields -/
  more : List SrcU := []
  /-- reads the sources of every occupied slot, whatever its guard (R185) -/
  across : Bool := false
  deriving DecidableEq, Repr

def shape (srcs : List SrcU) (dst : Option DstU) : Shape := { srcs, dst, res := [], held := false, whole := false }

/-- A lane of the instruction in execution: a member that does not trap, whether its guard is true, its operand values. -/
structure LaneIn where
  f : Fibre
  act : Bool
  vals : List DWord
  deriving DecidableEq, Repr

/-- Violations of an instruction that acts once for the whole frond: the first one, in every true slot (R381). -/
def wholeViols (whole : Bool) (info : List (LaneIn × Option Viol)) : List (LaneIn × Option Viol) :=
  match whole, info.findSome? (·.2) with
  | true, some v => info.map (fun p => (p.1, if p.1.act then some v else none))
  | _, _ => info

def shapeViols (ex : Ex) (f : Fibre) (w : DWord) (ws : Bool) (sh : Shape) : List Viol :=
  sh.srcs.flatMap (srcViols ex f w) ++
  (match sh.dst with | some d => dstViols ex f w ws d | none => []) ++
  sh.res.flatMap (resViols ex f w false) ++
  (if sh.held && f.away then [viol 0x107 0 w 0] else [])

/-- The channel entries that the source fields read, in the order A, B, C; `none` when a channel is empty (R85). -/
def chanReads (srcs : List SrcU) (chans : List (List ChanEntry)) : Option (List (Nat × ChanEntry) × List (List ChanEntry)) × Nat :=
  srcs.foldl (fun st u =>
    match st.1, u.src with
    | some (es, cs), .h i pop =>
      match getD cs i.toNat [] with
      | [] => (none, i.toNat)
      | e :: rest => (some (es ++ [(u.field, e)], if pop then setAt [] cs i.toNat rest else cs), st.2)
    | _, _ => st) (some ([], chans), 0)

/-- The value of a source operand in a lane, zero-extended; false-guard lanes read empty latches as zero (R84, R85). -/
def srcVal (ex : Ex) (f : Fibre) (ents : List (Nat × ChanEntry)) (u : SrcU) : DWord :=
  match u.src with
  | .x i => if u.words = 1 then zext (getX f i.toNat) else getX64 f i.toNat
  | .g i => if u.words = 1 then zext (getD ex.cush.g i.toNat 0) else pair64 (getD ex.cush.g i.toNat 0) (getD ex.cush.g (i.toNat + 1) 0)
  | .b i =>
    let v := (latchVal ex i.toNat f.lane).getD 0
    if u.words = 1 then zext (lo32 v) else v
  | .h _ _ =>
    match ents.find? (fun e => e.1 == u.field) with
    | some (_, e) => if e.mask.getLsbD f.lane then zext (getD e.words f.lane 0) else 0
    | none => 0

/-- The fibre's own registers that an instruction reads hold a poisoned word (R418). -/
def readBad (sh : Shape) (f : Fibre) : Bool :=
  !f.bad.isEmpty && (sh.srcs ++ sh.more).any (fun u => match u.src with
    | .x i => (List.range u.words).any (fun j => f.bad.contains (i.toNat + j))
    | _ => false)

/-- The true slots whose read of a poisoned word of the unified store is refused (R418): those of the fibres whose registers it lies in, or all
of them where the word is in a channel entry that they read or in a slot that each of them may read. -/
def poisonedLanes (ex : Ex) (sh : Shape) (ents : List (Nat × ChanEntry)) (acts : List LaneIn) : List LaneIn :=
  if ents.any (fun e => e.2.bad) || (sh.across && ex.lanes.any (readBad sh)) then acts else acts.filter (fun l => readBad sh l.f)

/-- What the body of an instruction leaves: the state and whether the run ends. -/
abbrev Body := State × Bool

/-- Precise traps of an instruction: each trapping fibre leaves its frond (R168, R382). -/
def applyTraps (s : State) (ex : Ex) (traps : List (Fibre × Viol)) : State :=
  traps.foldl (fun s t =>
    let p := fresh s
    takeTrap (splitOff p.1 ex.frond [t.1.fid] p.2 0) t.1.fid t.2.syn ex.pc t.2.w3 t.2.det) s

/-- Execute an instruction over the focused frond. Checks come first, per true-guard slot (R378 to R382); members that do not trap advance; a slot
whose operand is poisoned does nothing else (R418); then `body` acts. With every guard false only the run end of ER remains (R82). -/
def frondExec (i : Instr) (h : Hdr) (sh : Shape) (extra : Ex → Fibre → List DWord → List Viol)
    (body : Ex → List LaneIn → State → Body) (s : State) : State :=
  match focusEx s with
  | none => s
  | some ex =>
    let w := wordOf i
    let cr := chanReads sh.srcs ex.cush.chans
    let ents := match cr.1 with | some p => p.1 | none => []
    let info := wholeViols sh.whole <| ex.lanes.map (fun f =>
      let act := guardOf h f
      let vals := sh.srcs.map (srcVal ex f ents)
      let v := if act then firstViol (shapeViols ex f w h.ws sh ++ extra ex f vals) else none
      (({ f, act, vals } : LaneIn), v))
    let traps := info.filterMap (fun p => p.2.map (fun v => (p.1.f, v)))
    let clean := (info.filter (fun p => p.2.isNone)).map (·.1)
    let bad := poisonedLanes ex sh ents (clean.filter (·.act))
    let lanes := clean.map (fun l => if bad.any (fun b => b.f.fid == l.f.fid) then { l with act := false } else l)
    let acts := lanes.filter (·.act)
    let s := bad.foldl (fun s _ => storePoison s ex.core 0 ex.car.id) (setPc s (lanes.map (fun l => l.f.fid)) (ex.pc + 8#64))
    let r : Body :=
      if acts.isEmpty then (s, false)
      else match cr.1 with
        | none =>
          -- an empty channel: every true slot parks at the instruction (R39, R85)
          (acts.foldl (fun s l => parkFibre s ex.frond.fr l.f
            { at_ := some ex.pc, resume := ex.pc, wait := .chanPop cr.2, join := 1, dstG := 0, dstK := 0 } id) s, true)
        | some (_, chans) =>
          match sh.dst, h.ws with
          | some { dst := .h c, .. }, false =>
            let full := match nextStage s ex.cush with
              | some d => decide (chanDepth ex.car.ker c.toNat ≤ (getD d.chans c.toNat []).length)
              | none => false
            if full then
              (acts.foldl (fun s l => parkFibre s ex.frond.fr l.f
                { at_ := some ex.pc, resume := ex.pc, wait := .chanPush c.toNat, join := 1, dstG := 0, dstK := 0 } id) s, true)
            else popAct ex sh.srcs chans acts (body ex lanes s)
          | _, _ => popAct ex sh.srcs chans acts (body ex lanes s)
    settleRun (applyTraps r.1 ex traps) ex.core ex.slot (r.2 || h.er || !traps.isEmpty)
where
  /-- Remove the popped entries and let waiting producers try again (R85). An instruction that every true slot will execute again
  from the start has popped nothing (R39, R194). -/
  popAct (ex : Ex) (srcs : List SrcU) (chans : List (List ChanEntry)) (acts : List LaneIn) (b : Body) : Body :=
    let pops := srcs.filterMap (fun u => match u.src with | .h i true => some i.toNat | _ => none)
    let again (l : LaneIn) : Bool := (getFibre b.1 l.f.fid).any (fun f => f.status != .resident && f.pc == ex.pc)
    if pops.isEmpty || acts.all again then b
    else
      let s := updCush b.1 ex.cush.cid (fun c => { c with chans := chans })
      match prevStage s ex.cush with
      | none => (s, b.2)
      | some d =>
        (wakeAll s ((s.fibres.filter (fun f => f.cush == d.cid && pops.any (fun h => f.wait == .chanPush h))).map (·.fid)), b.2)

/-! ## Results (R81, R83, R165) -/

/-- The latches after a result (R83): the new one first, at most four. -/
def pushLatch (s : State) (ex : Ex) (w64 : Bool) (res : List (Fibre × DWord)) : State :=
  let vals := (List.range 32).map (fun l => (res.find? (fun r => r.1.lane == l)).map (fun r => if w64 then r.2 else zext (lo32 r.2)))
  updSlot s ex.core ex.slot (fun k => { k with latches := ({ w64, vals } :: k.latches).take 4 })

/-- Append one entry to the channel's queue of the next stage and let its waiting consumers try again (R51, R85). DESIGN CHOICE (log
entry 19): where the cushion of the next stage has ended, the queue is never full and the entry is dropped. -/
def pushChan (s : State) (ex : Ex) (h : Nat) (res : List (Fibre × DWord)) : State :=
  match nextStage s ex.cush with
  | none => s
  | some d =>
    let words := (List.range 32).map (fun l => ((res.find? (fun r => r.1.lane == l)).map (fun r => lo32 r.2)).getD 0)
    let mask : Word := res.foldl (fun m r => m ||| BitVec.ofNat 32 (2 ^ r.1.lane)) 0#32
    let s := updCush s d.cid (fun c => { c with chans := setAt [] c.chans h (getD c.chans h [] ++ [{ words, mask }]) })
    wakeAll s ((s.fibres.filter (fun f => f.cush == d.cid && f.wait == .chanPop h)).map (·.fid))

/-- Write the results of the true slots: x and g registers, a channel push, none; with WS only the latch (R81, R83). A g
destination takes the value of the highest true slot (R165). -/
def writeResult (s : State) (ex : Ex) (h : Hdr) (d : Dst) (w64 : Bool) (res : List (Fibre × DWord)) : State :=
  if res.isEmpty then s
  else
    let s := if h.ws then s else
      match d with
      | .x i => res.foldl (fun s r => updFibre s r.1.fid (fun f => if w64 then setX64 f i.toNat r.2 else setX f i.toNat (lo32 r.2))) s
      | .g i =>
        match res.getLast? with
        | some r => updCush s ex.cush.cid (fun c =>
            { c with g := if w64 then setAt 0 (setAt 0 c.g i.toNat (lo32 r.2)) (i.toNat + 1) (hi32 r.2) else setAt 0 c.g i.toNat (lo32 r.2) })
        | none => s
      | .h c => pushChan s ex c.toNat res
      | .none => s
    pushLatch s ex w64 res

/-- A predicate destination: true-guard slots write it (R154). -/
def writePred (s : State) (d : Nat) (res : List (Fibre × Bool)) : State :=
  res.foldl (fun s r => updFibre s r.1.fid (fun f => setP f d r.2)) s

/-! ## The common instruction forms -/

/-- An instruction that computes one value a lane from its operands, with its flags (R144). -/
def valueExec (i : Instr) (h : Hdr) (srcs : List SrcU) (d : Dst) (w64 : Bool)
    (f : State → Fibre → List DWord → DWord × BitVec 5) (s : State) : State :=
  frondExec i h (shape srcs (some (dW w64 d))) (fun _ _ _ => [])
    (fun ex lanes s =>
      let res := (lanes.filter (·.act)).map (fun l => (l.f, f s l.f l.vals))
      let s' := res.foldl (fun s r => raiseFlags s r.1 r.2.2) s
      (writeResult s' ex h d w64 (res.map (fun r => (r.1, r.2.1))), false)) s

/-- As `valueExec`, raising no flag. -/
def intExec (i : Instr) (h : Hdr) (srcs : List SrcU) (d : Dst) (w64 : Bool) (f : List DWord → DWord) (s : State) : State :=
  valueExec i h srcs d w64 (fun _ _ vs => (f vs, 0)) s

/-- An instruction that computes one truth value a lane into a predicate. -/
def predExec (i : Instr) (h : Hdr) (srcs : List SrcU) (d : Nat) (f : Fibre → List DWord → Bool × BitVec 5) (s : State) : State :=
  frondExec i h (shape srcs none) (fun _ _ _ => [])
    (fun _ lanes s =>
      let res := (lanes.filter (·.act)).map (fun l => (l.f, f l.f l.vals))
      let s' := res.foldl (fun s r => raiseFlags s r.1 r.2.2) s
      (writePred s' d (res.map (fun r => (r.1, r.2.1))), false)) s

/-- Operand i of a lane. -/
def opv (vs : List DWord) (i : Nat) : DWord := getD vs i 0

end Sys2Proof.Machine
end

