-- ==== Sys2Proof/Machine/Flags.lean ====
section
/-! DEFINITION. The floating-point flags of FSR (R64), and the conditions of integer comparisons (R98, R154). -/

namespace Sys2Proof.Machine

def flNV : BitVec 5 := 1#5
def flDZ : BitVec 5 := 2#5
def flOF : BitVec 5 := 4#5
def flUF : BitVec 5 := 8#5
def flNX : BitVec 5 := 16#5

/-- The condition of ICMP on two values of w bits (R98, R154). -/
def icondHolds (c : ICond) (w64 : Bool) (a b : DWord) : Bool :=
  let w := if w64 then 64 else 32
  let na := a.toNat % 2 ^ w
  let nb := b.toNat % 2 ^ w
  let sg (n : Nat) : Int := if 2 ^ (w - 1) ≤ n then (n : Int) - 2 ^ w else n
  match c with
  | .eq => na == nb
  | .ne => na != nb
  | .lts => decide (sg na < sg nb)
  | .les => decide (sg na ≤ sg nb)
  | .gts => decide (sg nb < sg na)
  | .ges => decide (sg nb ≤ sg na)
  | .ltn => decide (na < nb)
  | .len => decide (na ≤ nb)
  | .gtn => decide (nb < na)
  | .gen => decide (nb ≤ na)

end Sys2Proof.Machine
end

