-- ==== Sys2Proof/Machine/Alu.lean ====
section
/-! DEFINITION. Integer, immediate, constant and address instructions: IALU, IALUI, MOVI, MOVHI, ADDR (R147 to R153). -/

namespace Sys2Proof.Machine

/-- Operand width w (R147). -/
def iw (w64 : Bool) : Nat := if w64 then 64 else 32

/-- v(z): the value of the low w bits, signed or not (R147). -/
def iv (w64 sgn : Bool) (z : DWord) : Int :=
  let n := z.toNat % 2 ^ iw w64
  if sgn && decide (2 ^ (iw w64 - 1) ≤ n) then (n : Int) - 2 ^ iw w64 else n

/-- res(z): wrap to w bits, or clamp to the type (R147). -/
def ires (w64 sgn sat : Bool) (z : Int) : DWord :=
  let w := iw w64
  let lo : Int := if sgn then -(2 ^ (w - 1)) else 0
  let hi : Int := if sgn then 2 ^ (w - 1) - 1 else 2 ^ w - 1
  let z := if sat then max lo (min hi z) else z
  ofN64 (z % 2 ^ w).toNat

/-- Quotient and remainder, truncated toward zero, with the corners of R148. -/
def idivRem (w64 sgn sat : Bool) (a b : DWord) : DWord × DWord :=
  let w := iw w64
  let x := iv w64 sgn a
  let y := iv w64 sgn b
  let cut (z : Int) : DWord := ofN64 (z % 2 ^ w).toNat
  if y = 0 then (cut (2 ^ w - 1), cut x)
  else if sgn && decide (x = -(2 ^ (w - 1))) && decide (y = -1) then
    (cut (if sat then 2 ^ (w - 1) - 1 else -(2 ^ (w - 1))), 0)
  else (cut (x.tdiv y), cut (x - x.tdiv y * y))

def lowW (w64 : Bool) (z : DWord) : Nat := z.toNat % 2 ^ iw w64

def shlW (w64 : Bool) (a : DWord) (n : Nat) : DWord :=
  if iw w64 ≤ n then 0 else ofN64 (lowW w64 a * 2 ^ n % 2 ^ iw w64)

def shrW (w64 : Bool) (a : DWord) (n : Nat) : DWord := if iw w64 ≤ n then 0 else ofN64 (lowW w64 a / 2 ^ n)

def sarW (w64 : Bool) (a : DWord) (n : Nat) : DWord :=
  ofN64 ((iv w64 true a / 2 ^ min n (iw w64 - 1)) % 2 ^ iw w64).toNat

def rotW (w64 : Bool) (a : DWord) (n : Nat) : DWord :=
  let w := iw w64
  let k := n % w
  ofN64 (lowW w64 a * 2 ^ k % 2 ^ w + lowW w64 a / 2 ^ (w - k))

/-- pos and len of BFX and BFI (R149). -/
def bfPos (b : DWord) : Nat := getF b 0 8
def bfLen (w64 : Bool) (b : DWord) : Nat := min (getF b 8 8) (iw w64)

def bfxW (w64 sgn : Bool) (a b : DWord) : DWord :=
  let len := bfLen w64 b
  let f : Int := (iv w64 sgn a / 2 ^ bfPos b) % 2 ^ len
  let f := if sgn && decide (0 < len) && decide (2 ^ (len - 1) ≤ f) then f - 2 ^ len else f
  ofN64 (f % 2 ^ iw w64).toNat

def bfiW (w64 : Bool) (a b c : DWord) : DWord :=
  let w := iw w64
  let m := ((2 ^ bfLen w64 b - 1) * 2 ^ bfPos b) % 2 ^ w
  ofN64 (((lowW w64 a * 2 ^ bfPos b) % 2 ^ w &&& m) ||| (lowW w64 c &&& (m ^^^ (2 ^ w - 1))))

def popcW (w64 : Bool) (a : DWord) : DWord := ofN64 ((List.range (iw w64)).filter (fun i => a.getLsbD i)).length

def clzW (w64 : Bool) (a : DWord) : DWord :=
  let n := lowW w64 a
  ofN64 (if n = 0 then iw w64 else iw w64 - 1 - n.log2)

def brevW (w64 : Bool) (a : DWord) : DWord :=
  ofN64 (sumBy (fun i => if a.getLsbD i then 2 ^ (iw w64 - 1 - i) else 0) (List.range (iw w64)))

/-- IMM24 sign-extended (R150). -/
def immW (imm : BitVec 24) : DWord := imm.signExtend 64

/-- IADD (R147). -/
def execIadd (h : Hdr) (m : IModeSat) (d : Dst) (a b : Src) (s : State) : Host.Outcome State Fault Refusal :=
  .next (intExec (.iadd h m d a b) h [sW m.w64 1 a, sW m.w64 2 b] d m.w64 (fun v => ires m.w64 m.sgn m.sat ((iv m.w64 m.sgn (opv v 0)) + (iv m.w64 m.sgn (opv v 1)))) s)

/-- ISUB (R147). -/
def execIsub (h : Hdr) (m : IModeSat) (d : Dst) (a b : Src) (s : State) : Host.Outcome State Fault Refusal :=
  .next (intExec (.isub h m d a b) h [sW m.w64 1 a, sW m.w64 2 b] d m.w64 (fun v => ires m.w64 m.sgn m.sat ((iv m.w64 m.sgn (opv v 0)) - (iv m.w64 m.sgn (opv v 1)))) s)

/-- IMUL (R147). -/
def execImul (h : Hdr) (m : IModeSat) (d : Dst) (a b : Src) (s : State) : Host.Outcome State Fault Refusal :=
  .next (intExec (.imul h m d a b) h [sW m.w64 1 a, sW m.w64 2 b] d m.w64
    (fun v => ires m.w64 m.sgn m.sat ((iv m.w64 m.sgn (opv v 0)) * (iv m.w64 m.sgn (opv v 1)))) s)

/-- IMULH: the high half of the exact product (R147). -/
def execImulh (h : Hdr) (m : IMode) (d : Dst) (a b : Src) (s : State) : Host.Outcome State Fault Refusal :=
  .next (intExec (.imulh h m d a b) h [sW m.w64 1 a, sW m.w64 2 b] d m.w64
    (fun v => ires m.w64 m.sgn false (((iv m.w64 m.sgn (opv v 0)) * (iv m.w64 m.sgn (opv v 1))) / 2 ^ iw m.w64)) s)

/-- IMAD (R147). -/
def execImad (h : Hdr) (m : IModeSat) (d : Dst) (a b c : Src) (s : State) : Host.Outcome State Fault Refusal :=
  .next (intExec (.imad h m d a b c) h [sW m.w64 1 a, sW m.w64 2 b, sW m.w64 3 c] d m.w64
    (fun v => ires m.w64 m.sgn m.sat ((iv m.w64 m.sgn (opv v 0)) * (iv m.w64 m.sgn (opv v 1)) + (iv m.w64 m.sgn (opv v 2)))) s)

/-- IMADW: 32-bit factors, 64-bit addend and result (R147). -/
def execImadw (h : Hdr) (sgn sat : Bool) (d : Dst) (a b c : Src) (s : State) : Host.Outcome State Fault Refusal :=
  .next (intExec (.imadw h sgn sat d a b c) h [s32 1 a, s32 2 b, s64 3 c] d true
    (fun v => ires true sgn sat (iv false sgn (opv v 0) * iv false sgn (opv v 1) + iv true sgn (opv v 2))) s)

/-- IDIV (R148). -/
def execIdiv (h : Hdr) (m : IModeSat) (d : Dst) (a b : Src) (s : State) : Host.Outcome State Fault Refusal :=
  .next (intExec (.idiv h m d a b) h [sW m.w64 1 a, sW m.w64 2 b] d m.w64 (fun v => (idivRem m.w64 m.sgn m.sat (opv v 0) (opv v 1)).1) s)

/-- IREM (R148). -/
def execIrem (h : Hdr) (m : IMode) (d : Dst) (a b : Src) (s : State) : Host.Outcome State Fault Refusal :=
  .next (intExec (.irem h m d a b) h [sW m.w64 1 a, sW m.w64 2 b] d m.w64 (fun v => (idivRem m.w64 m.sgn false (opv v 0) (opv v 1)).2) s)

/-- INEG (R147). -/
def execIneg (h : Hdr) (m : IModeSat) (d : Dst) (a : Src) (s : State) : Host.Outcome State Fault Refusal :=
  .next (intExec (.ineg h m d a) h [sW m.w64 1 a] d m.w64 (fun v => ires m.w64 m.sgn m.sat (-(iv m.w64 m.sgn (opv v 0)))) s)

/-- IABS (R147). -/
def execIabs (h : Hdr) (m : IModeSat) (d : Dst) (a : Src) (s : State) : Host.Outcome State Fault Refusal :=
  .next (intExec (.iabs h m d a) h [sW m.w64 1 a] d m.w64 (fun v => ires m.w64 m.sgn m.sat (((iv m.w64 m.sgn (opv v 0)).natAbs : Int))) s)

/-- IMIN (R147). -/
def execImin (h : Hdr) (m : IMode) (d : Dst) (a b : Src) (s : State) : Host.Outcome State Fault Refusal :=
  .next (intExec (.imin h m d a b) h [sW m.w64 1 a, sW m.w64 2 b] d m.w64 (fun v => ires m.w64 m.sgn false (min (iv m.w64 m.sgn (opv v 0)) (iv m.w64 m.sgn (opv v 1)))) s)

/-- IMAX (R147). -/
def execImax (h : Hdr) (m : IMode) (d : Dst) (a b : Src) (s : State) : Host.Outcome State Fault Refusal :=
  .next (intExec (.imax h m d a b) h [sW m.w64 1 a, sW m.w64 2 b] d m.w64 (fun v => ires m.w64 m.sgn false (max (iv m.w64 m.sgn (opv v 0)) (iv m.w64 m.sgn (opv v 1)))) s)

/-- AND (R147). -/
def execAnd (h : Hdr) (m : IMode) (d : Dst) (a b : Src) (s : State) : Host.Outcome State Fault Refusal :=
  .next (intExec (.and h m d a b) h [sW m.w64 1 a, sW m.w64 2 b] d m.w64 (fun v => opv v 0 &&& opv v 1) s)

/-- OR (R147). -/
def execOr (h : Hdr) (m : IMode) (d : Dst) (a b : Src) (s : State) : Host.Outcome State Fault Refusal :=
  .next (intExec (.or h m d a b) h [sW m.w64 1 a, sW m.w64 2 b] d m.w64 (fun v => opv v 0 ||| opv v 1) s)

/-- XOR (R147). -/
def execXor (h : Hdr) (m : IMode) (d : Dst) (a b : Src) (s : State) : Host.Outcome State Fault Refusal :=
  .next (intExec (.xor h m d a b) h [sW m.w64 1 a, sW m.w64 2 b] d m.w64 (fun v => opv v 0 ^^^ opv v 1) s)

/-- ANDN (R147). -/
def execAndn (h : Hdr) (m : IMode) (d : Dst) (a b : Src) (s : State) : Host.Outcome State Fault Refusal :=
  .next (intExec (.andn h m d a b) h [sW m.w64 1 a, sW m.w64 2 b] d m.w64 (fun v => opv v 0 &&& ~~~(opv v 1)) s)

/-- SHL (R149). -/
def execShl (h : Hdr) (m : IMode) (d : Dst) (a b : Src) (s : State) : Host.Outcome State Fault Refusal :=
  .next (intExec (.shl h m d a b) h [sW m.w64 1 a, s32 2 b] d m.w64 (fun v => shlW m.w64 (opv v 0) (opv v 1).toNat) s)

/-- SHR (R149). -/
def execShr (h : Hdr) (m : IMode) (d : Dst) (a b : Src) (s : State) : Host.Outcome State Fault Refusal :=
  .next (intExec (.shr h m d a b) h [sW m.w64 1 a, s32 2 b] d m.w64 (fun v => shrW m.w64 (opv v 0) (opv v 1).toNat) s)

/-- SAR (R149). -/
def execSar (h : Hdr) (m : IMode) (d : Dst) (a b : Src) (s : State) : Host.Outcome State Fault Refusal :=
  .next (intExec (.sar h m d a b) h [sW m.w64 1 a, s32 2 b] d m.w64 (fun v => sarW m.w64 (opv v 0) (opv v 1).toNat) s)

/-- ROT (R149). -/
def execRot (h : Hdr) (m : IMode) (d : Dst) (a b : Src) (s : State) : Host.Outcome State Fault Refusal :=
  .next (intExec (.rot h m d a b) h [sW m.w64 1 a, s32 2 b] d m.w64 (fun v => rotW m.w64 (opv v 0) (opv v 1).toNat) s)

/-- BFX (R149). -/
def execBfx (h : Hdr) (m : IMode) (d : Dst) (a b : Src) (s : State) : Host.Outcome State Fault Refusal :=
  .next (intExec (.bfx h m d a b) h [sW m.w64 1 a, s32 2 b] d m.w64 (fun v => bfxW m.w64 m.sgn (opv v 0) (opv v 1)) s)

/-- BFI (R149). -/
def execBfi (h : Hdr) (m : IMode) (d : Dst) (a b c : Src) (s : State) : Host.Outcome State Fault Refusal :=
  .next (intExec (.bfi h m d a b c) h [sW m.w64 1 a, s32 2 b, sW m.w64 3 c] d m.w64 (fun v => bfiW m.w64 (opv v 0) (opv v 1) (opv v 2)) s)

/-- POPC (R147). -/
def execPopc (h : Hdr) (m : IMode) (d : Dst) (a : Src) (s : State) : Host.Outcome State Fault Refusal :=
  .next (intExec (.popc h m d a) h [sW m.w64 1 a] d m.w64 (fun v => popcW m.w64 (opv v 0)) s)

/-- CLZ (R147). -/
def execClz (h : Hdr) (m : IMode) (d : Dst) (a : Src) (s : State) : Host.Outcome State Fault Refusal :=
  .next (intExec (.clz h m d a) h [sW m.w64 1 a] d m.w64 (fun v => clzW m.w64 (opv v 0)) s)

/-- BREV (R147). -/
def execBrev (h : Hdr) (m : IMode) (d : Dst) (a : Src) (s : State) : Host.Outcome State Fault Refusal :=
  .next (intExec (.brev h m d a) h [sW m.w64 1 a] d m.w64 (fun v => brevW m.w64 (opv v 0)) s)

/-- SEL: a where the predicate C is true, b otherwise (R147). -/
def execSel (h : Hdr) (m : IMode) (d : Dst) (a b : Src) (c : BitVec 3) (s : State) : Host.Outcome State Fault Refusal :=
  .next (valueExec (.sel h m d a b c) h [sW m.w64 1 a, sW m.w64 2 b] d m.w64
    (fun _ f v => (if getP f c.toNat then opv v 0 else opv v 1, 0)) s)

/-- MOV (R147, R85). -/
def execMov (h : Hdr) (m : IMode) (d : Dst) (a : Src) (s : State) : Host.Outcome State Fault Refusal :=
  .next (intExec (.mov h m d a) h [sW m.w64 1 a] d m.w64 (fun v => opv v 0) s)

/-- ADDMIN (R147). -/
def execAddmin (h : Hdr) (m : IModeSat) (d : Dst) (a b c : Src) (s : State) : Host.Outcome State Fault Refusal :=
  .next (intExec (.addmin h m d a b c) h [sW m.w64 1 a, sW m.w64 2 b, sW m.w64 3 c] d m.w64
    (fun v => ires m.w64 m.sgn false (min (iv m.w64 m.sgn (ires m.w64 m.sgn m.sat ((iv m.w64 m.sgn (opv v 0)) + (iv m.w64 m.sgn (opv v 1))))) (iv m.w64 m.sgn (opv v 2)))) s)

/-- ADDMAX (R147). -/
def execAddmax (h : Hdr) (m : IModeSat) (d : Dst) (a b c : Src) (s : State) : Host.Outcome State Fault Refusal :=
  .next (intExec (.addmax h m d a b c) h [sW m.w64 1 a, sW m.w64 2 b, sW m.w64 3 c] d m.w64
    (fun v => ires m.w64 m.sgn false (max (iv m.w64 m.sgn (ires m.w64 m.sgn m.sat ((iv m.w64 m.sgn (opv v 0)) + (iv m.w64 m.sgn (opv v 1))))) (iv m.w64 m.sgn (opv v 2)))) s)

/-- IADD with an immediate (R150). -/
def execIaddImm (h : Hdr) (m : IMode) (d : Dst) (a : Src) (imm : BitVec 24) (s : State) : Host.Outcome State Fault Refusal :=
  .next (intExec (.iaddImm h m d a imm) h [sW m.w64 1 a] d m.w64 (fun v => ires m.w64 m.sgn false ((iv m.w64 m.sgn (opv v 0)) + (iv m.w64 m.sgn (immW imm)))) s)

/-- AND with an immediate (R150). -/
def execAndImm (h : Hdr) (m : IMode) (d : Dst) (a : Src) (imm : BitVec 24) (s : State) : Host.Outcome State Fault Refusal :=
  .next (intExec (.andImm h m d a imm) h [sW m.w64 1 a] d m.w64 (fun v => opv v 0 &&& immW imm) s)

/-- OR with an immediate (R150). -/
def execOrImm (h : Hdr) (m : IMode) (d : Dst) (a : Src) (imm : BitVec 24) (s : State) : Host.Outcome State Fault Refusal :=
  .next (intExec (.orImm h m d a imm) h [sW m.w64 1 a] d m.w64 (fun v => opv v 0 ||| immW imm) s)

/-- XOR with an immediate (R150). -/
def execXorImm (h : Hdr) (m : IMode) (d : Dst) (a : Src) (imm : BitVec 24) (s : State) : Host.Outcome State Fault Refusal :=
  .next (intExec (.xorImm h m d a imm) h [sW m.w64 1 a] d m.w64 (fun v => opv v 0 ^^^ immW imm) s)

/-- SHL with an immediate (R150). -/
def execShlImm (h : Hdr) (m : IMode) (d : Dst) (a : Src) (imm : BitVec 24) (s : State) : Host.Outcome State Fault Refusal :=
  .next (intExec (.shlImm h m d a imm) h [sW m.w64 1 a] d m.w64 (fun v => shlW m.w64 (opv v 0) (lo32 (immW imm)).toNat) s)

/-- SHR with an immediate (R150). -/
def execShrImm (h : Hdr) (m : IMode) (d : Dst) (a : Src) (imm : BitVec 24) (s : State) : Host.Outcome State Fault Refusal :=
  .next (intExec (.shrImm h m d a imm) h [sW m.w64 1 a] d m.w64 (fun v => shrW m.w64 (opv v 0) (lo32 (immW imm)).toNat) s)

/-- SAR with an immediate (R150). -/
def execSarImm (h : Hdr) (m : IMode) (d : Dst) (a : Src) (imm : BitVec 24) (s : State) : Host.Outcome State Fault Refusal :=
  .next (intExec (.sarImm h m d a imm) h [sW m.w64 1 a] d m.w64 (fun v => sarW m.w64 (opv v 0) (lo32 (immW imm)).toNat) s)

/-- IMIN with an immediate (R150). -/
def execIminImm (h : Hdr) (m : IMode) (d : Dst) (a : Src) (imm : BitVec 24) (s : State) : Host.Outcome State Fault Refusal :=
  .next (intExec (.iminImm h m d a imm) h [sW m.w64 1 a] d m.w64 (fun v => ires m.w64 m.sgn false (min (iv m.w64 m.sgn (opv v 0)) (iv m.w64 m.sgn (immW imm)))) s)

/-- IMAX with an immediate (R150). -/
def execImaxImm (h : Hdr) (m : IMode) (d : Dst) (a : Src) (imm : BitVec 24) (s : State) : Host.Outcome State Fault Refusal :=
  .next (intExec (.imaxImm h m d a imm) h [sW m.w64 1 a] d m.w64 (fun v => ires m.w64 m.sgn false (max (iv m.w64 m.sgn (opv v 0)) (iv m.w64 m.sgn (immW imm)))) s)

/-- MOVI (R152). -/
def execMovi (h : Hdr) (d : Dst) (imm : BitVec 32) (s : State) : Host.Outcome State Fault Refusal :=
  .next (intExec (.movi h d imm) h [] d false (fun _ => zext imm) s)

/-- MOVI.s64 (R152). -/
def execMoviS64 (h : Hdr) (d : Dst) (imm : BitVec 32) (s : State) : Host.Outcome State Fault Refusal :=
  .next (intExec (.moviS64 h d imm) h [] d true (fun _ => imm.signExtend 64) s)

/-- MOVHI (R152). -/
def execMovhi (h : Hdr) (d : Dst) (imm : BitVec 32) (s : State) : Host.Outcome State Fault Refusal :=
  .next (intExec (.movhi h d imm) h [] d true (fun _ => pair64 0 imm) s)

/-- LEA (R153). -/
def execLea (h : Hdr) (sgn : Bool) (sh : BitVec 3) (d : Dst) (a b : Src) (s : State) : Host.Outcome State Fault Refusal :=
  .next (intExec (.lea h sgn sh d a b) h [s64 1 a, s32 2 b] d true
    (fun v => ofI64 ((opv v 0).toNat + iv false sgn (opv v 1) * 2 ^ sh.toNat)) s)

/-- ADD64 (R153). -/
def execAdd64 (h : Hdr) (d : Dst) (a b : Src) (s : State) : Host.Outcome State Fault Refusal :=
  .next (intExec (.add64 h d a b) h [s64 1 a, s64 2 b] d true (fun v => opv v 0 + opv v 1) s)

/-- SUB64 (R153). -/
def execSub64 (h : Hdr) (d : Dst) (a b : Src) (s : State) : Host.Outcome State Fault Refusal :=
  .next (intExec (.sub64 h d a b) h [s64 1 a, s64 2 b] d true (fun v => opv v 0 - opv v 1) s)

end Sys2Proof.Machine
end

