-- ==== Sys2Proof/Machine/Real.lean ====
section
/-! DEFINITION. Exact values, the floating formats, and the one rounding function (R120 to R131). A finite value is a
sign, a magnitude and a power of two; a quotient, root or function value carries one extra low bit that says "not exact". -/

namespace Sys2Proof.Machine

/-- A floating value (R120): a zero has magnitude 0 and a sign. -/
inductive FV where
  | nan (sig : Bool)
  | inf (neg : Bool)
  | fin (neg : Bool) (m : Nat) (e : Int)
  deriving DecidableEq, Repr

/-- The NaN rules of a format: as IEEE 754, E4M3, E2M1 (R120). -/
inductive FKind where
  | ieee | e4m3 | e2m1
  deriving DecidableEq, Repr

structure FInfo where
  eb : Nat
  fb : Nat
  bias : Nat
  kind : FKind
  deriving DecidableEq, Repr

/-- The layouts of R120. -/
def fInfo : Fmt → FInfo
  | .f16 => ⟨5, 10, 15, .ieee⟩
  | .bf16 => ⟨8, 7, 127, .ieee⟩
  | .f64 => ⟨11, 52, 1023, .ieee⟩
  | .e4m3 => ⟨4, 3, 7, .e4m3⟩
  | .e5m2 => ⟨5, 2, 15, .ieee⟩
  | .e2m1 => ⟨2, 1, 1, .e2m1⟩
  | _ => ⟨8, 23, 127, .ieee⟩

def fOf : FType → Fmt
  | .f16 => .f16 | .bf16 => .bf16 | .f32 => .f32 | .f64 => .f64

/-- Bits of an element of a format (R89, R121). -/
def fmtBits : Fmt → Nat
  | .s8 | .n8 | .e4m3 | .e5m2 | .mx8 | .ds8 => 8
  | .s16 | .n16 | .f16 | .bf16 => 16
  | .s32 | .n32 | .f32 => 32
  | .s64 | .n64 | .f64 => 64
  | .e2m1 | .i4 | .mx4 | .ds4 => 4

/-- Whether an integer format is signed (R121). -/
def fmtSigned : Fmt → Bool
  | .s8 | .s16 | .s32 | .s64 | .i4 => true
  | _ => false

/-- The value of a floating encoding (R120, R122). -/
def decFloat (i : FInfo) (x : Nat) : FV :=
  let f := x % 2 ^ i.fb
  let e := x / 2 ^ i.fb % 2 ^ i.eb
  let neg := decide (x / 2 ^ (i.fb + i.eb) % 2 = 1)
  let top := 2 ^ i.eb - 1
  let fin : FV :=
    if e = 0 then .fin neg f (1 - (i.bias : Int) - i.fb)
    else .fin neg (2 ^ i.fb + f) ((e : Int) - i.bias - i.fb)
  match i.kind with
  | .ieee => if e = top then (if f = 0 then .inf neg else .nan (decide (f < 2 ^ (i.fb - 1)))) else fin
  | .e4m3 => if e = top ∧ f = 7 then .nan false else fin
  | .e2m1 => fin

/-- The value of a scalar encoding in a type 0 to 15; an integer is exact with a positive zero. -/
def decVal (t : Fmt) (x : Nat) : FV :=
  if t.isFloat then decFloat (fInfo t) x
  else
    let w := fmtBits t
    let n := x % 2 ^ w
    if fmtSigned t && decide (2 ^ (w - 1) ≤ n) then .fin true (2 ^ w - n) 0 else .fin false n 0

/-- A rounding mode with its data (R124, R128). -/
inductive Rnd where
  | rne | rz | ru | rd | rna
  | sr (h : Nat)
  deriving DecidableEq, Repr

/-- Rounding mode from FCTL.RM (R65). -/
def rmOf (fctl : BitVec 4) : Rnd :=
  match (fctl.extractLsb' 0 3).toNat with
  | 0 => .rne | 1 => .rz | 2 => .ru | 3 => .rd | _ => .rna

/-- Rounding mode of an instruction's field (R158). -/
def rndOf (fctl : BitVec 4) : FRnd → Rnd
  | .rne => .rne | .rz => .rz | .ru => .ru | .rd => .rd | .rna => .rna | .dyn => rmOf fctl

/-- Round the magnitude m 2^e to a count of 2^q: the count, and whether it is exact (R124, R128). -/
def roundMag (mode : Rnd) (neg : Bool) (m : Nat) (e q : Int) : Nat × Bool :=
  if q ≤ e then (m * 2 ^ (e - q).toNat, true)
  else
    let d0 := (q - e).toNat
    -- beyond this distance the magnitude is below any threshold a mode compares it with
    let d := min d0 (m.log2 + 40)
    let lo := m / 2 ^ d
    let r := m % 2 ^ d
    if r = 0 ∧ lo * 2 ^ d = m ∧ d = d0 then (lo, true)
    else if m = 0 then (0, true)
    else
      let half := 2 ^ (d - 1)
      let up := match mode with
        | .rne => decide (half < r) || (decide (r = half) && decide (lo % 2 = 1))
        | .rna => decide (half ≤ r)
        | .rz => false
        | .ru => !neg
        | .rd => neg
        | .sr h => decide (h < r * 2 ^ 32 / 2 ^ d)
      (if up then lo + 1 else lo, false)

/-- The largest finite magnitude: a count of 2^q (R120). -/
def maxFin (i : FInfo) : Nat × Int :=
  match i.kind with
  | .ieee => (2 ^ (i.fb + 1) - 1, (i.bias : Int) - i.fb)
  | .e4m3 => (14, 5)
  | .e2m1 => (3, 1)

/-- The encoding of the largest finite value, of infinity, of the canonical NaN (R120, R122). -/
def encMax (i : FInfo) : Nat :=
  match i.kind with
  | .ieee => (2 ^ i.eb - 1) * 2 ^ i.fb - 1
  | .e4m3 => 0x7E
  | .e2m1 => 7
def encInf (i : FInfo) : Nat := (2 ^ i.eb - 1) * 2 ^ i.fb
def encNan (i : FInfo) : Nat :=
  match i.kind with
  | .ieee => (2 ^ i.eb - 1) * 2 ^ i.fb + 2 ^ (i.fb - 1)
  | .e4m3 => 0x7F
  | .e2m1 => 0

def signBit (i : FInfo) (neg : Bool) : Nat := if neg then 2 ^ (i.eb + i.fb) else 0

/-- What an overflow delivers (R124, R130). -/
def overflowEnc (i : FInfo) (mode : Rnd) (neg sat : Bool) : Nat :=
  let toInf := match mode with
    | .rne | .rna | .sr _ => true
    | .rz => false
    | .ru => !neg
    | .rd => neg
  signBit i neg + (if sat || !toInf then encMax i else match i.kind with
    | .ieee => encInf i
    | .e4m3 => 0
    | .e2m1 => encMax i)

/-- Round a value into a floating format: the encoding and the flags (R123 to R125, R130). `ftz`: a tiny result becomes zero
with underflow and inexact (R126). -/
def roundTo (i : FInfo) (mode : Rnd) (sat ftz : Bool) (v : FV) : Nat × BitVec 5 :=
  match v with
  | .nan sig => (encNan i, if sig || decide (i.kind = .e2m1) then flNV else 0)
  | .inf neg =>
    match i.kind with
    | .ieee => (signBit i neg + encInf i, 0)
    | .e4m3 => (if sat then signBit i neg + encMax i else encNan i, flNV)
    | .e2m1 => (signBit i neg + encMax i, flNV)
  | .fin neg m e =>
    if m = 0 then (signBit i neg, 0)
    else
      let top : Int := (m.log2 : Int) + e
      let emin : Int := 1 - (i.bias : Int)
      let u := roundMag mode neg m e (top - i.fb)
      let tiny := decide ((u.1.log2 : Int) + (top - i.fb) < emin)
      let q := max top emin - i.fb
      let r := roundMag mode neg m e q
      let mx := maxFin i
      -- compare r.1 2^q with the largest finite value at the finer of the two quanta
      let ovf := decide ((i.bias : Int) + 1 < top) || decide (mx.1 * 2 ^ (mx.2 - min q mx.2).toNat < r.1 * 2 ^ (q - min q mx.2).toNat)
      if ovf then
        let x := overflowEnc i mode neg sat
        (if decide (i.kind = .e4m3) && x % 128 == 0 then encNan i else x, flOF ||| flNX)
      else if ftz && tiny then (signBit i neg, flUF ||| flNX)
      else
        (signBit i neg + (r.1 + (q + i.fb + i.bias - 1).toNat * 2 ^ i.fb),
          (if r.2 then 0 else flNX) ||| (if tiny && !r.2 then flUF else 0))

/-- Round a value into an integer format (R131): saturating when out of range. -/
def roundInt (t : Fmt) (mode : Rnd) (v : FV) : Nat × BitVec 5 :=
  let w := fmtBits t
  let lo : Int := if fmtSigned t then -(2 ^ (w - 1)) else 0
  let hi : Int := if fmtSigned t then 2 ^ (w - 1) - 1 else 2 ^ w - 1
  let cut (z : Int) : Nat := (z % 2 ^ w).toNat
  match v with
  | .nan _ => (0, flNV)
  | .inf neg => (cut (if neg then lo else hi), flNV)
  | .fin neg m e =>
    -- far beyond every integer type the value saturates without being formed
    if 0 < m ∧ 80 < (m.log2 : Int) + e then (cut (if neg then lo else hi), flNV)
    else
      let r := roundMag mode neg m e 0
      let z : Int := if neg then -(r.1 : Int) else r.1
      if z < lo then (cut lo, flNV) else if hi < z then (cut hi, flNV) else (cut z, if r.2 then 0 else flNX)

/-! ## Arithmetic on exact values -/

def FV.isNan : FV → Bool
  | .nan _ => true
  | _ => false
def FV.isSig : FV → Bool
  | .nan s => s
  | _ => false
def FV.neg : FV → FV
  | .nan s => .nan s
  | .inf n => .inf (!n)
  | .fin n m e => .fin (!n) m e

def nanOf (vs : List FV) : FV × BitVec 5 := (.nan false, if vs.any FV.isSig then flNV else 0)

/-- A subnormal operand reads as zero under FTZ (R126). -/
def flushIn (i : FInfo) (ftz : Bool) (v : FV) : FV :=
  match v with
  | .fin n m e => if ftz && decide (m < 2 ^ i.fb) then .fin n 0 e else .fin n m e
  | v => v

/-- The signed sum of two finite magnitudes, exact. -/
def finSum (an : Bool) (am : Nat) (ae : Int) (bn : Bool) (bm : Nat) (be : Int) : Int × Int :=
  if am = 0 then ((if bn then -(bm : Int) else bm), be)
  else if bm = 0 then ((if an then -(am : Int) else am), ae)
  else
    let e := min ae be
    let x : Int := (am * 2 ^ (ae - e).toNat : Nat)
    let y : Int := (bm * 2 ^ (be - e).toNat : Nat)
    ((if an then -x else x) + (if bn then -y else y), e)

/-- a + b (R159): an exact zero sum of opposite signs is +0, or -0 under RD. -/
def fvAdd (mode : Rnd) (a b : FV) : FV × BitVec 5 :=
  match a, b with
  | .nan _, _ => nanOf [a, b]
  | _, .nan _ => nanOf [a, b]
  | .inf x, .inf y => if x = y then (.inf x, 0) else (.nan false, flNV)
  | .inf x, _ => (.inf x, 0)
  | _, .inf y => (.inf y, 0)
  | .fin an am ae, .fin bn bm be =>
    let s := finSum an am ae bn bm be
    if s.1 = 0 then
      (.fin (if am = 0 ∧ bm = 0 ∧ an = bn then an else decide (mode = .rd)) 0 0, 0)
    else (.fin (decide (s.1 < 0)) s.1.natAbs s.2, 0)

/-- a × b (R159). -/
def fvMul (a b : FV) : FV × BitVec 5 :=
  match a, b with
  | .nan _, _ => nanOf [a, b]
  | _, .nan _ => nanOf [a, b]
  | .inf x, .inf y => (.inf (x != y), 0)
  | .inf x, .fin y m _ => if m = 0 then (.nan false, flNV) else (.inf (x != y), 0)
  | .fin x m _, .inf y => if m = 0 then (.nan false, flNV) else (.inf (x != y), 0)
  | .fin an am ae, .fin bn bm be => (.fin (an != bn) (am * bm) (ae + be), 0)

/-- a × b + c (R159): 0 × Inf is invalid also when c is a quiet NaN. -/
def fvFma (mode : Rnd) (a b c : FV) : FV × BitVec 5 :=
  let p := fvMul a b
  if a.isNan || b.isNan then nanOf [a, b, c]
  else if p.1.isNan then (.nan false, flNV)
  else if c.isNan then nanOf [c]
  else fvAdd mode p.1 c

/-- a / b with an inexactness bit below the quotient's n leading bits (R159). -/
def fvDiv (n : Nat) (a b : FV) : FV × BitVec 5 :=
  match a, b with
  | .nan _, _ => nanOf [a, b]
  | _, .nan _ => nanOf [a, b]
  | .inf _, .inf _ => (.nan false, flNV)
  | .inf x, .fin y _ _ => (.inf (x != y), 0)
  | .fin x _ _, .inf y => (.fin (x != y) 0 0, 0)
  | .fin an am ae, .fin bn bm be =>
    if bm = 0 then (if am = 0 then (.nan false, flNV) else (.inf (an != bn), flDZ))
    else if am = 0 then (.fin (an != bn) 0 0, 0)
    else
      let k := n + bm.log2 + 2
      let q := am * 2 ^ k / bm
      let r := am * 2 ^ k % bm
      (.fin (an != bn) (2 * q + (if r = 0 then 0 else 1)) (ae - be - k - 1), 0)

/-- The integer square root, bit by bit from bit k down. -/
def isqrt (x : Nat) : Nat → Nat → Nat
  | 0, r => if (r + 1) * (r + 1) ≤ x then r + 1 else r
  | k + 1, r =>
    let c := r + 2 ^ (k + 1)
    isqrt x k (if c * c ≤ x then c else r)

def natSqrt (x : Nat) : Nat := if x = 0 then 0 else isqrt x (x.log2 / 2 + 1) 0

/-- √a, with an inexactness bit (R159). -/
def fvSqrt (n : Nat) (a : FV) : FV × BitVec 5 :=
  match a with
  | .nan _ => nanOf [a]
  | .inf neg => if neg then (.nan false, flNV) else (.inf false, 0)
  | .fin neg m e =>
    if m = 0 then (.fin neg 0 0, 0)
    else if neg then (.nan false, flNV)
    else
      let odd := e % 2
      let k := 2 * (n + 2)
      let x := m * 2 ^ (k + odd.toNat)
      let r := natSqrt x
      (.fin false (2 * r + (if r * r = x then 0 else 1)) ((e - odd - k) / 2 - 1), 0)

/-- a < b as exact values, infinities included. -/
def fvLt (a b : FV) : Bool :=
  match a, b with
  | .inf x, .inf y => x && !y
  | .inf x, .fin _ _ _ => x
  | .fin _ _ _, .inf y => !y
  | .fin an am ae, .fin bn bm be => decide ((finSum an am ae (!bn) bm be).1 < 0)
  | _, _ => false
def fvEq (a b : FV) : Bool :=
  match a, b with
  | .inf x, .inf y => x == y
  | .fin an am ae, .fin bn bm be => decide ((finSum an am ae (!bn) bm be).1 = 0)
  | _, _ => false

def FV.isNeg : FV → Bool
  | .nan _ => false
  | .inf n => n
  | .fin n _ _ => n

/-- minimumNumber and maximumNumber (R123): -0 is below +0. -/
def fvMinMax (isMax : Bool) (a b : FV) : FV × BitVec 5 :=
  let fl := if a.isSig || b.isSig then flNV else 0
  if a.isNan then (if b.isNan then (.nan false, fl) else (b, fl))
  else if b.isNan then (a, fl)
  else
    let aLess := fvLt a b || (fvEq a b && a.isNeg && !b.isNeg)
    (if aLess != isMax then a else b, fl)

/-- a × 2^n (R159 FSCALE). -/
def fvScale (a : FV) (n : Int) : FV × BitVec 5 :=
  match a with
  | .nan _ => nanOf [a]
  | .inf x => (.inf x, 0)
  | .fin x m e => (.fin x m (e + n), 0)

/-- Round to an integral value (R159 FRND): inexact is never raised. -/
def fvIntegral (mode : Rnd) (a : FV) : FV × BitVec 5 :=
  match a with
  | .nan _ => nanOf [a]
  | .inf x => (.inf x, 0)
  | .fin x m e => if 0 ≤ e then (.fin x m e, 0) else (.fin x (roundMag mode x m e 0).1 0, 0)

/-- srhash (R127). -/
def srhash (seed idx : Word) : Word :=
  let h := seed ^^^ (idx * 0x9E3779B9#32)
  let h := h ^^^ (h >>> 15)
  let h := h * 0x6C8E9CF5#32
  let h := h ^^^ (h >>> 13)
  let h := h * 0xA3B195E5#32
  h ^^^ (h >>> 16)

/-! ## Function values in fixed point (R160, R328): each within a few units of 2^-p, the exact cases apart -/

/-- 2 atanh(1/3) = ln 2, scaled by 2^p. -/
def ln2Fix (p : Nat) : Nat :=
  ((List.range (p / 3 + 4)).foldl (fun (st : Nat × Nat) k => (st.1 + st.2 / (2 * k + 1), st.2 / 9)) (0, 2 ^ (p + 1) / 3)).1

def atanInv (p x : Nat) : Nat :=
  let r := (List.range (p / 4 + 4)).foldl
    (fun (st : Int × Nat) k => (st.1 + (if k % 2 = 0 then ((st.2 / (2 * k + 1) : Nat) : Int) else -((st.2 / (2 * k + 1) : Nat) : Int)),
      st.2 / (x * x))) ((0 : Int), 2 ^ p / x)
  r.1.toNat

/-- π scaled by 2^p (Machin). -/
def piFix (p : Nat) : Nat := 16 * atanInv p 5 - 4 * atanInv p 239

/-- 2^f for f in [0, 1), both scaled by 2^p. -/
def exp2Fix (p f : Nat) : Nat :=
  let y := f * ln2Fix p / 2 ^ p
  ((List.range (p / 3 + 12)).foldl (fun (st : Nat × Nat) k =>
    let t := st.2 * y / (2 ^ p * (k + 1))
    (st.1 + t, t)) (2 ^ p, 2 ^ p)).1

/-- ln of m / 2^p in [1, 2], scaled by 2^p. -/
def lnFix (p m : Nat) : Nat :=
  let z := (m - 2 ^ p) * 2 ^ p / (m + 2 ^ p)
  ((List.range (p / 3 + 4)).foldl (fun (st : Nat × Nat) k => (st.1 + 2 * st.2 / (2 * k + 1), st.2 * z / 2 ^ p * z / 2 ^ p)) (0, z)).1

/-- sin x and cos x for x in [0, 1], scaled by 2^p. -/
def sinCosFix (p x : Nat) : Int × Int :=
  let r := (List.range (p / 3 + 12)).foldl (fun (st : Int × Int × Nat) k =>
    let t := st.2.2 * x / (2 ^ p * (k + 1))
    let v : Int := t
    match (k + 1) % 4 with
    | 0 => (st.1, st.2.1 + v, t)
    | 1 => (st.1 + v, st.2.1, t)
    | 2 => (st.1, st.2.1 - v, t)
    | _ => (st.1 - v, st.2.1, t)) ((0 : Int), (2 ^ p : Int), 2 ^ p)
  (r.1, r.2.1)

/-- The fraction and integer part of a finite value scaled by 2^p: floor(v 2^p) split at 2^p. -/
def splitFix (p : Nat) (neg : Bool) (m : Nat) (e : Int) : Int × Nat :=
  let x : Int := if 0 ≤ e + p then (m : Int) * 2 ^ (e + p).toNat else (m / 2 ^ (-(e + p)).toNat : Nat)
  let lost := decide (e + p < 0) && decide (m % 2 ^ (-(e + p)).toNat ≠ 0)
  let z : Int := if neg then -x - (if lost then 1 else 0) else x
  (z / 2 ^ p, (z % 2 ^ p).toNat)

/-- 2^v for a finite v with |v| below 2^14: exact for integers, else with the inexactness bit. -/
def fvExp2 (p : Nat) (neg : Bool) (m : Nat) (e : Int) : FV :=
  let s := splitFix p neg m e
  if m = 0 ∨ 0 ≤ e ∨ m % 2 ^ (-e).toNat = 0 then .fin false 1 s.1
  else .fin false (2 * exp2Fix p s.2 + 1) (s.1 - p - 1)

/-- log2 of a positive finite value: exact for powers of two. -/
def fvLog2 (p : Nat) (m : Nat) (e : Int) : FV :=
  let n : Int := (m.log2 : Int) + e
  if m = 2 ^ m.log2 then .fin (decide (n < 0)) n.natAbs 0
  else
    let mm := m * 2 ^ p / 2 ^ m.log2
    let l : Int := (lnFix p mm * 2 ^ p / ln2Fix p : Nat)
    let v : Int := n * 2 ^ p + l
    .fin (decide (v < 0)) (2 * v.natAbs + 1) (-(p : Int) - 1)

/-- sin (π v) or cos (π v) for a finite v: exact where the value is 0 or ±1. -/
def fvSinPi (p0 : Nat) (cosine : Bool) (neg : Bool) (m : Nat) (e : Int) : FV :=
  -- small arguments keep their leading bits
  let p := p0 + (if m.log2 + e < 0 then (-(m.log2 + e)).toNat * 2 else 0)
  if m = 0 then (if cosine then .fin false 1 0 else .fin neg 0 0)
  else
    -- the argument modulo 2, in units of 2^-k
    let k := (-e).toNat
    let a0 : Nat := m * 2 ^ e.toNat % 2 ^ (k + 1)
    -- cosine as the sine a half-turn quarter on; the cosine is even, the sine odd
    let a : Nat := if cosine then (2 * a0 + 2 ^ k) % 2 ^ (k + 2) else 2 * a0
    let k := k + 1
    let neg := if cosine then false else neg
    let half := decide (2 ^ k ≤ a)
    let r := a % 2 ^ k
    let sgn := neg != half
    -- quarter turns of the remaining half
    if r = 0 then .fin (if cosine then false else neg) 0 0
    else if 2 * r = 2 ^ k then .fin sgn 1 0
    else
      let r := if 2 * r < 2 ^ k then r else 2 ^ k - r
      -- sin (π r / 2^k) with r / 2^k in (0, 1/2); above 1/4 through the cosine of the complement
      if 4 * r ≤ 2 ^ k then
        let x := piFix p * r / 2 ^ k
        .fin sgn (2 * (sinCosFix p x).1.natAbs + 1) (-(p : Int) - 1)
      else
        let x := piFix p * (2 ^ (k - 1) - r) / 2 ^ k
        .fin sgn (2 * (sinCosFix p x).2.natAbs + 1) (-(p : Int) - 1)

/-- 1/√a, with an inexactness bit, for a positive finite value (R160 FRSQ). -/
def fvRsqrt (n m : Nat) (e : Int) : FV :=
  let odd := (e % 2).toNat
  let x := m * 2 ^ odd
  let k := n + x.log2 + 4
  let r := natSqrt (2 ^ (2 * k) / x)
  .fin false (2 * r + (if r * r * x = 2 ^ (2 * k) then 0 else 1)) (-(k : Int) - (e - odd) / 2 - 1)

end Sys2Proof.Machine
end

