-- ==== Sys2Proof/Machine/Cmp.lean ====
section
/-! DEFINITION. Comparisons and predicate moves (R150, R154 to R157), with the float operand reads they share with FALU. -/

namespace Sys2Proof.Machine

/-- FCTL.FTZ (R65). -/
def ftzOf (fctl : BitVec 4) : Bool := fctl.getLsbD 3

def fIs64 : FType → Bool
  | .f64 => true
  | _ => false

/-- Flushing holds for the formats other than binary64 (R126). -/
def flushes (fctl : BitVec 4) (t : FType) : Bool := ftzOf fctl && !fIs64 t

/-- A float operand's value, flushed (R126, R158). -/
def fRead (fctl : BitVec 4) (t : FType) (v : DWord) : FV :=
  let i := fInfo (fOf t)
  flushIn i (flushes fctl t) (decFloat i v.toNat)

/-- FCMP (R155). -/
def fcondHolds (c : FCond) (a b : FV) : Bool × BitVec 5 :=
  let sig := if a.isSig || b.isSig then flNV else 0
  if a.isNan || b.isNan then
    match c with
    | .eq | .ord => (false, sig)
    | .ne | .unord => (true, sig)
    | .lt | .le | .gt | .ge => (false, flNV)
  else
    match c with
    | .eq => (fvEq a b, 0)
    | .ne => (!fvEq a b, 0)
    | .lt => (fvLt a b, 0)
    | .le => (fvLt a b || fvEq a b, 0)
    | .gt => (fvLt b a, 0)
    | .ge => (fvLt b a || fvEq a b, 0)
    | .unord => (false, 0)
    | .ord => (true, 0)

/-- ICMP with an immediate (R150): 32-bit operands. -/
def execIcmpImm (h : Hdr) (c : ICond) (d : BitVec 3) (a : Src) (imm : BitVec 24) (s : State) : Host.Outcome State Fault Refusal :=
  .next (predExec (.icmpImm h c d a imm) h [s32 1 a] d.toNat
    (fun _ v => (icondHolds c false (opv v 0) (imm.signExtend 64), 0)) s)

/-- ICMP (R154). -/
def execIcmp (h : Hdr) (c : ICond) (w64 : Bool) (d : BitVec 3) (a b : Src) (s : State) : Host.Outcome State Fault Refusal :=
  .next (predExec (.icmp h c w64 d a b) h [sW w64 1 a, sW w64 2 b] d.toNat
    (fun _ v => (icondHolds c w64 (opv v 0) (opv v 1), 0)) s)

/-- FCMP (R155). -/
def execFcmp (h : Hdr) (c : FCond) (t : FType) (d : BitVec 3) (a b : Src) (s : State) : Host.Outcome State Fault Refusal :=
  .next (predExec (.fcmp h c t d a b) h [sW (fIs64 t) 1 a, sW (fIs64 t) 2 b] d.toNat
    (fun f v => fcondHolds c (fRead (fctlOf s f) t (opv v 0)) (fRead (fctlOf s f) t (opv v 1))) s)

/-- PSET (R156). -/
def execPset (h : Hdr) (table : BitVec 4) (d a b : BitVec 3) (s : State) : Host.Outcome State Fault Refusal :=
  .next (predExec (.pset h table d a b) h [] d.toNat
    (fun f _ => (table.getLsbD (2 * (getP f a.toNat).toNat + (getP f b.toNat).toNat), 0)) s)

/-- PMOV.get (R157). -/
def execPmovGet (h : Hdr) (d : Dst) (s : State) : Host.Outcome State Fault Refusal :=
  .next (valueExec (.pmovGet h d) h [] d false (fun _ f _ => (f.pred.setWidth 64, 0)) s)

/-- PMOV.set (R157): p0 stays true. -/
def execPmovSet (h : Hdr) (a : Src) (s : State) : Host.Outcome State Fault Refusal :=
  .next (frondExec (.pmovSet h a) h (shape [s32 1 a] none) (fun _ _ _ => [])
    (fun _ lanes s =>
      ((lanes.filter (·.act)).foldl (fun s l =>
        updFibre s l.f.fid (fun f => { f with pred := (opv l.vals 0).setWidth 8 ||| 1#8 })) s, false)) s)

end Sys2Proof.Machine
end

