-- ==== Sys2Proof/Machine/FloatOps.lean ====
section
/-! DEFINITION. FALU, FSPEC and HPACK (R158 to R162). -/

namespace Sys2Proof.Machine

/-- Round the value an operation delivers, with the operation's own flags. -/
def fDeliver (fctl : BitVec 4) (t : FType) (mode : Rnd) (v : FV × BitVec 5) : DWord × BitVec 5 :=
  let r := roundTo (fInfo (fOf t)) mode false (flushes fctl t) v.1
  (ofN64 r.1, v.2 ||| r.2)

/-- A FALU operation with rounding on float operands of its type (R158). -/
def faluExec (i : Instr) (h : Hdr) (t : FType) (r : FRnd) (srcs : List SrcU) (d : Dst) (op : Rnd → List FV → FV × BitVec 5)
    (s : State) : State :=
  valueExec i h srcs d (fIs64 t) (fun s f vs =>
    let fctl := fctlOf s f
    let mode := rndOf fctl r
    fDeliver fctl t mode (op mode (vs.map (fRead fctl t)))) s

def fv (vs : List FV) (i : Nat) : FV := getD vs i (.fin false 0 0)

/-- FADD (R159). -/
def execFadd (h : Hdr) (t : FType) (r : FRnd) (d : Dst) (a b : Src) (s : State) : Host.Outcome State Fault Refusal :=
  .next (faluExec (.fadd h t r d a b) h t r [sW (fIs64 t) 1 a, sW (fIs64 t) 2 b] d (fun m v => fvAdd m (fv v 0) (fv v 1)) s)

/-- FSUB (R159). -/
def execFsub (h : Hdr) (t : FType) (r : FRnd) (d : Dst) (a b : Src) (s : State) : Host.Outcome State Fault Refusal :=
  .next (faluExec (.fsub h t r d a b) h t r [sW (fIs64 t) 1 a, sW (fIs64 t) 2 b] d (fun m v => fvAdd m (fv v 0) (fv v 1).neg) s)

/-- FMUL (R159). -/
def execFmul (h : Hdr) (t : FType) (r : FRnd) (d : Dst) (a b : Src) (s : State) : Host.Outcome State Fault Refusal :=
  .next (faluExec (.fmul h t r d a b) h t r [sW (fIs64 t) 1 a, sW (fIs64 t) 2 b] d (fun _ v => fvMul (fv v 0) (fv v 1)) s)

/-- FFMA (R159). -/
def execFfma (h : Hdr) (t : FType) (r : FRnd) (d : Dst) (a b c : Src) (s : State) : Host.Outcome State Fault Refusal :=
  .next (faluExec (.ffma h t r d a b c) h t r [sW (fIs64 t) 1 a, sW (fIs64 t) 2 b, sW (fIs64 t) 3 c] d
    (fun m v => fvFma m (fv v 0) (fv v 1) (fv v 2)) s)

/-- FMIN (R159). -/
def execFmin (h : Hdr) (t : FType) (d : Dst) (a b : Src) (s : State) : Host.Outcome State Fault Refusal :=
  .next (faluExec (.fmin h t d a b) h t .dyn [sW (fIs64 t) 1 a, sW (fIs64 t) 2 b] d (fun _ v => fvMinMax false (fv v 0) (fv v 1)) s)

/-- FMAX (R159). -/
def execFmax (h : Hdr) (t : FType) (d : Dst) (a b : Src) (s : State) : Host.Outcome State Fault Refusal :=
  .next (faluExec (.fmax h t d a b) h t .dyn [sW (fIs64 t) 1 a, sW (fIs64 t) 2 b] d (fun _ v => fvMinMax true (fv v 0) (fv v 1)) s)

/-- FDIV (R159). -/
def execFdiv (h : Hdr) (t : FType) (r : FRnd) (d : Dst) (a b : Src) (s : State) : Host.Outcome State Fault Refusal :=
  .next (faluExec (.fdiv h t r d a b) h t r [sW (fIs64 t) 1 a, sW (fIs64 t) 2 b] d (fun _ v => fvDiv 60 (fv v 0) (fv v 1)) s)

/-- FSQRT (R159). -/
def execFsqrt (h : Hdr) (t : FType) (r : FRnd) (d : Dst) (a : Src) (s : State) : Host.Outcome State Fault Refusal :=
  .next (faluExec (.fsqrt h t r d a) h t r [sW (fIs64 t) 1 a] d (fun _ v => fvSqrt 60 (fv v 0)) s)

/-- The class bit of FCLASS (R159). -/
def fClassBit (i : FInfo) : FV → Nat
  | .nan sig => if sig then 8 else 9
  | .inf neg => if neg then 0 else 7
  | .fin neg m _ =>
    if m = 0 then (if neg then 3 else 4)
    else if m < 2 ^ i.fb then (if neg then 2 else 5)
    else if neg then 1 else 6

/-- FCLASS (R159): a 32-bit mask. -/
def execFclass (h : Hdr) (t : FType) (d : Dst) (a : Src) (s : State) : Host.Outcome State Fault Refusal :=
  .next (valueExec (.fclass h t d a) h [sW (fIs64 t) 1 a] d false
    (fun s f vs => (ofN64 (2 ^ fClassBit (fInfo (fOf t)) (fRead (fctlOf s f) t (opv vs 0))), 0)) s)

/-- FSCALE (R159): B is a 32-bit signed integer. -/
def execFscale (h : Hdr) (t : FType) (r : FRnd) (d : Dst) (a b : Src) (s : State) : Host.Outcome State Fault Refusal :=
  .next (valueExec (.fscale h t r d a b) h [sW (fIs64 t) 1 a, s32 2 b] d (fIs64 t)
    (fun s f vs =>
      let fctl := fctlOf s f
      fDeliver fctl t (rndOf fctl r) (fvScale (fRead fctl t (opv vs 0)) (lo32 (opv vs 1)).toInt)) s)

/-- FRND (R159). -/
def execFrnd (h : Hdr) (t : FType) (r : FRnd) (d : Dst) (a : Src) (s : State) : Host.Outcome State Fault Refusal :=
  .next (faluExec (.frnd h t r d a) h t r [sW (fIs64 t) 1 a] d (fun m v => fvIntegral m (fv v 0)) s)

/-! ## FSPEC (R160, R161) -/

/-- The FSPEC functions. -/
inductive FSpec where
  | rcp | rsq | exp2 | log2 | sin | cos
  deriving DecidableEq, Repr

/-- The error bound in units of the last place, for binary32 and binary64 (R160). -/
def FSpec.bound : FSpec → Nat
  | .rcp | .rsq => 1
  | _ => 2

def FSpec.minor : FSpec → Nat
  | .rcp => 0 | .rsq => 1 | .exp2 => 2 | .log2 => 3 | .sin => 4 | .cos => 5

/-- The bits carried by a function value. -/
def fsPrec : Nat := 200

/-- The exact function value, or a special result with its flags (R161). -/
def fspecVal (k : FSpec) (v : FV) : FV × BitVec 5 :=
  match v with
  | .nan _ => nanOf [v]
  | .inf neg =>
    match k with
    | .rcp => (.fin neg 0 0, 0)
    | .rsq => if neg then (.nan false, flNV) else (.fin false 0 0, 0)
    | .exp2 => if neg then (.fin false 0 0, 0) else (.inf false, 0)
    | .log2 => if neg then (.nan false, flNV) else (.inf false, 0)
    | .sin | .cos => (.nan false, flNV)
  | .fin neg m e =>
    match k with
    | .rcp => if m = 0 then (.inf neg, flDZ) else fvDiv fsPrec (.fin false 1 0) v
    | .rsq =>
      if m = 0 then (.inf neg, flDZ) else if neg then (.nan false, flNV) else (fvRsqrt fsPrec m e, 0)
    | .exp2 =>
      if 0 < m ∧ 14 ≤ (m.log2 : Int) + e then (.fin false 1 (if neg then -0x8000 else 0x8000), 0)
      else (fvExp2 fsPrec neg m e, 0)
    | .log2 => if m = 0 then (.inf true, flDZ) else if neg then (.nan false, flNV) else (fvLog2 fsPrec m e, 0)
    | .sin => (fvSinPi fsPrec false neg m e, 0)
    | .cos => (fvSinPi fsPrec true neg m e, 0)

/-- The values of a format within a bound of the exact value m 2^e, counted in units of the last place 2^q of that value (R160): as counts
of 2^h, where h is finer than q if the binade below has a finer spacing. -/
def fspecNear (i : FInfo) (neg : Bool) (bound m : Nat) (e : Int) : List Int × Int :=
  let top : Int := (m.log2 : Int) + e
  let emin : Int := 1 - (i.bias : Int)
  let q := max top emin - i.fb
  let h := max (top - 1) emin - i.fb
  let c := 2 ^ (q - h).toNat
  let r := roundMag .rz neg m e h
  let lo : Int := (r.1 : Int) - (bound * c : Nat) + (if r.2 then 0 else 1)
  let n := 2 * bound * c + (if r.2 then 1 else 0)
  let bot := 2 ^ (max top emin - h).toNat
  let inFormat (k : Int) : Bool :=
    decide (k.natAbs < bot) || (decide (k.natAbs ≤ 2 * bot) && k.natAbs % c == 0) || k.natAbs % (2 * c) == 0
  (((List.range n).map (fun (j : Nat) => lo + j)).filter inFormat, h)

/-- The value delivered in binary32 and binary64: the exact one where the format has it, else one of those within the bound (R160), chosen by
a free number (log entry 3). An exact power of two beyond the largest finite value is no value of the format: that finite value lies within its
bound, as the overflow of R124 does, by its row for RNE: R160 says only that FCTL.RM does not matter (DESIGN CHOICE, log entry 39). R125 calls no
delivered zero tiny. -/
def fspecDeliver (i : FInfo) (ftz : Bool) (bound pick : Nat) (v : FV) : Nat × BitVec 5 :=
  match v with
  | .fin neg m e =>
    let top : Int := (m.log2 : Int) + e
    if m = 0 ∨ (top ≤ i.bias ∧ (roundMag .rz neg m e (max top (1 - (i.bias : Int)) - i.fb)).2) then roundTo i .rne false ftz v
    else
      let near := fspecNear i neg bound m e
      let n := getD near.1 (pick % near.1.length) 0
      let tiny := decide (n ≠ 0) && decide ((n.natAbs.log2 : Int) + near.2 < 1 - (i.bias : Int))
      let o := roundTo i .rne false ftz (.fin (neg != decide (n < 0)) n.natAbs near.2)
      (o.1, o.2 ||| flNX ||| (if tiny then flUF else 0))
  | _ => roundTo i .rne false ftz v

/-- The value delivered in binary16 and bfloat16: the correctly rounded RNE result. Overflow is judged on the exact value; tininess, and with it
underflow and flushing, on the delivered one (R160, R125, R126). -/
def fspecRounded (i : FInfo) (ftz : Bool) (v : FV) : Nat × BitVec 5 :=
  let o := roundTo i .rne false false v
  let y := decFloat i o.1
  let tiny := match y with
    | .fin _ m _ => decide (0 < m ∧ m < 2 ^ i.fb)
    | _ => false
  let r := roundTo i .rne false ftz y
  (r.1, (o.2 &&& ~~~flUF) ||| r.2 ||| (if tiny then o.2 &&& flUF else 0))

/-- FSPEC on one operand (R160). -/
def fspecOp (k : FSpec) (fctl : BitVec 4) (t : FType) (x : DWord) : DWord × BitVec 5 :=
  let v := fspecVal k (fRead fctl t x)
  match t with
  | .f16 | .bf16 =>
    let r := fspecRounded (fInfo (fOf t)) (flushes fctl t) v.1
    (ofN64 r.1, v.2 ||| r.2)
  | .f32 | .f64 =>
    let r := fspecDeliver (fInfo (fOf t)) (flushes fctl t) k.bound (Config.fspecPick k.minor t x) v.1
    (ofN64 r.1, v.2 ||| r.2)

def fspecExec (i : Instr) (k : FSpec) (h : Hdr) (t : FType) (d : Dst) (a : Src) (s : State) : State :=
  valueExec i h [sW (fIs64 t) 1 a] d (fIs64 t) (fun s f vs => fspecOp k (fctlOf s f) t (opv vs 0)) s

/-- FRCP (R160). -/
def execFrcp (h : Hdr) (t : FType) (d : Dst) (a : Src) (s : State) : Host.Outcome State Fault Refusal :=
  .next (fspecExec (.frcp h t d a) .rcp h t d a s)

/-- FRSQ (R160). -/
def execFrsq (h : Hdr) (t : FType) (d : Dst) (a : Src) (s : State) : Host.Outcome State Fault Refusal :=
  .next (fspecExec (.frsq h t d a) .rsq h t d a s)

/-- FEXP2 (R160). -/
def execFexp2 (h : Hdr) (t : FType) (d : Dst) (a : Src) (s : State) : Host.Outcome State Fault Refusal :=
  .next (fspecExec (.fexp2 h t d a) .exp2 h t d a s)

/-- FLOG2 (R160). -/
def execFlog2 (h : Hdr) (t : FType) (d : Dst) (a : Src) (s : State) : Host.Outcome State Fault Refusal :=
  .next (fspecExec (.flog2 h t d a) .log2 h t d a s)

/-- FSIN (R160). -/
def execFsin (h : Hdr) (t : FType) (d : Dst) (a : Src) (s : State) : Host.Outcome State Fault Refusal :=
  .next (fspecExec (.fsin h t d a) .sin h t d a s)

/-- FCOS (R160). -/
def execFcos (h : Hdr) (t : FType) (d : Dst) (a : Src) (s : State) : Host.Outcome State Fault Refusal :=
  .next (fspecExec (.fcos h t d a) .cos h t d a s)

/-! ## HPACK (R162) -/

/-- Both halves of 32-bit operands, element by element. -/
def hpackExec (i : Instr) (h : Hdr) (bf : Bool) (r : FRnd) (srcs : List SrcU) (d : Dst)
    (op : Rnd → List FV → FV × BitVec 5) (s : State) : State :=
  valueExec i h srcs d false (fun s f vs =>
    let fctl := fctlOf s f
    let t : FType := if bf then .bf16 else .f16
    let mode := rndOf fctl r
    let el (k : Nat) := fDeliver fctl t mode (op mode (vs.map (fun (v : DWord) => fRead fctl t (v >>> (16 * k)))))
    ((el 0).1 ||| ((el 1).1 <<< 16), (el 0).2 ||| (el 1).2)) s

/-- HADD2 (R162). -/
def execHadd2 (h : Hdr) (bf : Bool) (r : FRnd) (d : Dst) (a b : Src) (s : State) : Host.Outcome State Fault Refusal :=
  .next (hpackExec (.hadd2 h bf r d a b) h bf r [s32 1 a, s32 2 b] d (fun m v => fvAdd m (fv v 0) (fv v 1)) s)

/-- HMUL2 (R162). -/
def execHmul2 (h : Hdr) (bf : Bool) (r : FRnd) (d : Dst) (a b : Src) (s : State) : Host.Outcome State Fault Refusal :=
  .next (hpackExec (.hmul2 h bf r d a b) h bf r [s32 1 a, s32 2 b] d (fun _ v => fvMul (fv v 0) (fv v 1)) s)

/-- HFMA2 (R162). -/
def execHfma2 (h : Hdr) (bf : Bool) (r : FRnd) (d : Dst) (a b c : Src) (s : State) : Host.Outcome State Fault Refusal :=
  .next (hpackExec (.hfma2 h bf r d a b c) h bf r [s32 1 a, s32 2 b, s32 3 c] d (fun m v => fvFma m (fv v 0) (fv v 1) (fv v 2)) s)

end Sys2Proof.Machine
end

