-- ==== Sys2Proof/Machine/Cvt.lean ====
section
/-! DEFINITION. CVT (R163, R164). -/

namespace Sys2Proof.Machine

/-- Whether a scalar type takes a register pair (R164). -/
def fmtPair (t : Fmt) : Bool := decide (fmtBits t = 64)

/-- An integer value saturated to a type, or its low bits (R131). -/
def intToInt (t : Fmt) (sat : Bool) (z : Int) : Nat :=
  let w := fmtBits t
  let lo : Int := if fmtSigned t then -(2 ^ (w - 1)) else 0
  let hi : Int := if fmtSigned t then 2 ^ (w - 1) - 1 else 2 ^ w - 1
  ((if sat then max lo (min hi z) else z) % 2 ^ w).toNat

/-- The value in a destination register: signed narrow integers are sign-extended to 32 bits (R164). -/
def placeVal (t : Fmt) (x : Nat) : DWord :=
  let w := fmtBits t
  if fmtSigned t && decide (w < 32) && decide (2 ^ (w - 1) ≤ x) then ofN64 (2 ^ 32 - 2 ^ w + x) else ofN64 x

/-- The conversion of one value (R129 to R131, R163). -/
def cvtVal (dt st : Fmt) (mode : Rnd) (sat : Bool) (x : DWord) : DWord × BitVec 5 :=
  let v := decVal st x.toNat
  if dt.isFloat then
    let r := roundTo (fInfo dt) mode sat false v
    (ofN64 r.1, (if v.isSig then flNV else 0) ||| r.2)
  else if st.isFloat then
    let r := roundInt dt mode v
    (placeVal dt r.1, r.2)
  else
    match v with
    | .fin neg m _ => (placeVal dt (intToInt dt sat (if neg then -(m : Int) else m)), 0)
    | _ => (0, 0)

/-- CVT (R163): the stochastic choice takes its seed from B and its index from the fibre's FIBRE value. -/
def execCvt (h : Hdr) (dt st : Fmt) (r : CRnd) (sat : Bool) (d : Dst) (a : Src) (s : State) : Host.Outcome State Fault Refusal :=
  let seed := match r with | .sr b => [s32 2 b] | .mode _ => []
  .next (valueExec (.cvt h dt st r sat d a) h (sW (fmtPair st) 1 a :: seed) d (fmtPair dt)
    (fun s f vs =>
      let mode := match r with
        | .mode m => rndOf (fctlOf s f) m
        | .sr _ => .sr (srhash (lo32 (opv vs 1)) (BitVec.ofNat 32 f.idx)).toNat
      cvtVal dt st mode sat (opv vs 0)) s)

end Sys2Proof.Machine
end

