-- ==== Sys2Proof/Machine/Lane.lean ====
section
/-! DEFINITION. Lane instructions (R185 to R189) and the reduction rules (R141 to R143). -/

namespace Sys2Proof.Machine

/-! ## Combining (R141, R143) -/

/-- The scalar type of a reduction type (R101). -/
def redFmt : RedTy → Fmt
  | .s32 => .s32 | .n32 => .n32 | .f32 => .f32 | .f64 => .f64

def redW64 : RedTy → Bool
  | .f64 => true
  | _ => false

def redFloat : RedTy → Bool
  | .f32 | .f64 => true
  | _ => false

/-- comb of two present values (R141), without flushing. -/
def comb (op : RedOp) (t : RedTy) (mode : Rnd) (x y : DWord) : DWord × BitVec 5 :=
  if redFloat t then
    let i := fInfo (redFmt t)
    let a := decFloat i x.toNat
    let b := decFloat i y.toNat
    let v := match op with
      | .add => fvAdd mode a b
      | .min => fvMinMax false a b
      | .max => fvMinMax true a b
      -- AND, OR and XOR of float types are unassigned encodings (R387)
      | .and | .or | .xor => (a, 0)
    let r := roundTo i mode false false v.1
    (ofN64 r.1, v.2 ||| r.2)
  else
    let a := lo32 x
    let b := lo32 y
    let less := match t with | .n32 => decide (a.toNat < b.toNat) | _ => decide (a.toInt < b.toInt)
    (zext (match op with
      | .add => a + b
      | .min => if less then a else b
      | .max => if less then b else a
      | .and => a &&& b
      | .or => a ||| b
      | .xor => a ^^^ b), 0)

/-- The identity of an operation (R143). -/
def redIdentity (op : RedOp) (t : RedTy) : DWord :=
  match op, t with
  | .min, .f32 => 0x7F800000#64
  | .max, .f32 => 0xFF800000#64
  | .min, .f64 => 0x7FF0000000000000#64
  | .max, .f64 => 0xFFF0000000000000#64
  | .min, .s32 => 0x7FFFFFFF#64
  | .min, .n32 => 0xFFFFFFFF#64
  | .max, .s32 => 0x80000000#64
  | .and, _ => 0xFFFFFFFF#64
  | _, _ => 0#64

/-- One level of the tree: neighbours are combined, absent values drop out (R141). -/
def combLevel (op : RedOp) (t : RedTy) (mode : Rnd) : List (Option DWord) → List (Option DWord) × BitVec 5
  | a :: b :: l =>
    let r := combLevel op t mode l
    match a, b with
    | some x, some y => let c := comb op t mode x y; (some c.1 :: r.1, c.2 ||| r.2)
    | some x, none => (some x :: r.1, r.2)
    | none, y => (y :: r.1, r.2)
  | l => (l, 0)

def combLevels (op : RedOp) (t : RedTy) (mode : Rnd) : Nat → List (Option DWord) → List (Option DWord) × BitVec 5
  | 0, l => (l, 0)
  | n + 1, l =>
    let a := combLevel op t mode l
    let b := combLevels op t mode n a.1
    (b.1, a.2 ||| b.2)

/-- The fixed tree over 32 slots (R141), with the identity when no value is present (R143). -/
def redTree (op : RedOp) (t : RedTy) (mode : Rnd) (vals : List (Option DWord)) : DWord × BitVec 5 :=
  let r := combLevels op t mode 5 vals
  ((getD r.1 0 none).getD (redIdentity op t), r.2)

/-! ## Lane instructions -/

/-- The operand of each occupied slot that does not trap (R37, R382). -/
def slotVals (lanes : List LaneIn) (k : Nat) : List (Option DWord) :=
  (List.range 32).map (fun i => (lanes.find? (fun l => l.f.lane == i)).map (fun l => opv l.vals k))

/-- A lane instruction with a result: each true slot's value from all slots. -/
def laneExec (i : Instr) (h : Hdr) (srcs : List SrcU) (d : Dst) (w64 : Bool)
    (f : State → List LaneIn → LaneIn → DWord × BitVec 5) (s : State) : State :=
  frondExec i h { shape srcs (some (dW w64 d)) with across := true } (fun _ _ _ => [])
    (fun ex lanes s =>
      let res := (lanes.filter (·.act)).map (fun l => (l.f, f s lanes l))
      let s' := res.foldl (fun s r => raiseFlags s r.1 r.2.2) s
      (writeResult s' ex h d w64 (res.map (fun r => (r.1, r.2.1))), false)) s

/-- The source slot of SHFL (R186). -/
def shflSlot (m : ShflMode) (i n : Nat) : Nat :=
  match m with
  | .idx => n % 32
  | .up => if i < n then i else i - n
  | .down => if 31 < i + n then i else i + n
  | .xor => i ^^^ (n % 32)

def slotValue (lanes : List LaneIn) (j : Nat) : DWord := ((getD (slotVals lanes 0) j none)).getD 0

/-- SHFL (R186). -/
def execShfl (h : Hdr) (m : ShflMode) (d : Dst) (a b : Src) (s : State) : Host.Outcome State Fault Refusal :=
  .next (laneExec (.shfl h m d a b) h [s32 1 a, s32 2 b] d false
    (fun _ lanes l => (slotValue lanes (shflSlot m l.f.lane (lo32 (opv l.vals 1)).toNat), 0)) s)

/-- GATH (R186): no slot above 31. -/
def execGath (h : Hdr) (d : Dst) (a b : Src) (s : State) : Host.Outcome State Fault Refusal :=
  .next (laneExec (.gath h d a b) h [s32 1 a, s32 2 b] d false
    (fun _ lanes l => (slotValue lanes (lo32 (opv l.vals 1)).toNat, 0)) s)

/-- The mask of occupied slots that pass a test. -/
def slotMask (lanes : List LaneIn) (p : LaneIn → Bool) : DWord := ofN64 (sumBy (fun l => if p l then 2 ^ l.f.lane else 0) lanes)

/-- VOTE (R187). -/
def execVote (h : Hdr) (v : VoteOp) (a : BitVec 3) (s : State) : Host.Outcome State Fault Refusal :=
  match v with
  | .ballot d => .next (laneExec (.vote h v a) h [] d false
      (fun _ lanes _ => (slotMask lanes (fun l => getP l.f a.toNat), 0)) s)
  | .any d => .next (frondExec (.vote h v a) h (shape [] none) (fun _ _ _ => [])
      (fun _ lanes s => (writePred s d.toNat ((lanes.filter (·.act)).map (fun l => (l.f, lanes.any (fun l => getP l.f a.toNat)))), false)) s)
  | .all d => .next (frondExec (.vote h v a) h (shape [] none) (fun _ _ _ => [])
      (fun _ lanes s => (writePred s d.toNat ((lanes.filter (·.act)).map (fun l => (l.f, lanes.all (fun l => getP l.f a.toNat)))), false)) s)

/-- ELECT (R187): the lowest occupied true slot. -/
def execElect (h : Hdr) (d : BitVec 3) (s : State) : Host.Outcome State Fault Refusal :=
  .next (frondExec (.elect h d) h (shape [] none) (fun _ _ _ => [])
    (fun _ lanes s =>
      let acts := lanes.filter (·.act)
      let low := (acts.head?.map (fun l => l.f.lane)).getD 32
      (writePred s d.toNat (acts.map (fun l => (l.f, l.f.lane == low))), false)) s)

/-- REDN (R188). -/
def execRedn (h : Hdr) (op : RedOp) (t : RedTy) (d : Dst) (a : Src) (s : State) : Host.Outcome State Fault Refusal :=
  .next (laneExec (.redn h op t d a) h [sW (redW64 t) 1 a] d (redW64 t)
    (fun s lanes l => redTree op t (rmOf (fctlOf s l.f)) (slotVals lanes 0)) s)

/-- SCAN (R188): slots above i are absent, and slot i too in the exclusive form. -/
def execScan (h : Hdr) (op : RedOp) (t : RedTy) (excl : Bool) (d : Dst) (a : Src) (s : State) : Host.Outcome State Fault Refusal :=
  .next (laneExec (.scan h op t excl d a) h [sW (redW64 t) 1 a] d (redW64 t)
    (fun s lanes l =>
      let n := if excl then l.f.lane else l.f.lane + 1
      redTree op t (rmOf (fctlOf s l.f))
        ((List.range 32).map (fun i => if i < n then getD (slotVals lanes 0) i none else none))) s)

/-- CONFL (R189). -/
def execConfl (h : Hdr) (d : Dst) (a : Src) (s : State) : Host.Outcome State Fault Refusal :=
  .next (laneExec (.confl h d a) h [s32 1 a] d false
    (fun _ lanes l => (slotMask lanes (fun k => decide (k.f.lane < l.f.lane) && lo32 (opv k.vals 0) == lo32 (opv l.vals 0)), 0)) s)

end Sys2Proof.Machine
end

