-- ==== Sys2Proof/Machine/Expand.lean ====
section
/-! DEFINITION. The expand unit (R190 to R196, R408): arrivals, the close of a round, the ordered fold, EXPAND, EXSTEP,
SEGRED, and what a retiring participant leaves. -/

namespace Sys2Proof.Machine

def expOf (s : State) (cid : Nat) : Expand :=
  ((getCush s cid).map (·.exp)).getD { phase := .idle, parts := [], later := [], total := 0, folded := 0, contrib := [] }

def setExp (s : State) (cid : Nat) (e : Expand) : State := updCush s cid (fun c => { c with exp := e })

/-- Steps of a round with P participants (R191). -/
def expSteps (e : Expand) : Nat := if e.parts.isEmpty then 0 else divUp e.total e.parts.length

def expInUse (e : Expand) : Bool := e.phase != .idle

/-- A round that has closed and not ended. -/
def expClosed (e : Expand) : Bool := e.phase == .dealing || e.phase == .folding

/-- The rank of a participant: its place in ascending FIBRE order (R190). -/
def expRank (e : Expand) (fid : Nat) : Option Nat := e.parts.findIdx? (fun p => p.fid == fid)

/-- The flattened item a participant's EXSTEP would return (R193). -/
def expItemAt (e : Expand) (fid : Nat) : Option Nat :=
  match expRank e fid, e.parts.find? (fun p => p.fid == fid) with
  | some q, some p => let t := p.next * e.parts.length + q; if t < e.total then some t else none
  | _, _ => none

/-- The owner of a flattened item (R190). -/
def expOwner (e : Expand) (t : Nat) : Option ExpPart := e.parts.find? (fun p => decide (p.off ≤ t) && decide (t < p.off + p.len))

/-- The prefixes off and the total (R190). -/
def expPrefixes (ps : List ExpPart) : List ExpPart × Nat :=
  ps.foldl (fun (st : List ExpPart × Nat) p => (st.1 ++ [{ p with off := st.2 }], st.2 + p.len)) ([], 0)

/-- Close the round if every participant has arrived: release them all, or end the carpet when T is above 2^32 - 1; the last
arrival is the one the record names, at its EXPAND, which lies before the address where it resumes (R190, R192, R369, R408). -/
def expTryClose (s : State) (cid : Nat) (last : Nat) : State :=
  let e := expOf s cid
  let live := (cushFibres s cid).filter (fun f => decide (f.idx < 128))
  if e.phase == .opened && !e.parts.isEmpty && live.all (fun f => e.parts.any (fun p => p.fid == f.fid)) then
    let ps := expPrefixes (sortBy (fun a b => decide (a.idx < b.idx)) e.parts)
    let s' := setExp s cid { e with phase := .dealing, parts := ps.1, total := ps.2, folded := 0, contrib := [] }
    if 2 ^ 32 - 1 < ps.2 then
      match getFibre s last, ps.1.find? (fun p => decide (2 ^ 32 - 1 < p.off + p.len)) with
      | some f, some o =>
        fatalFibre s' { f with expItem := some (o.idx, o.idx % 32, o.start) } 0x20C (f.pc - 8#64) (ofN64 ps.2) 0 false
      | _, _ => s'
    else wakeAll s' (ps.1.map (·.fid))
  else s

/-- A fibre arrives at the round that is open, or at the next one while a round is in use (R192). -/
def expArrive (s : State) (cid : Nat) (p : ExpPart) : State :=
  let e := expOf s cid
  if expClosed e then setExp s cid { e with later := e.later ++ [p] }
  else expTryClose (setExp s cid { e with phase := .opened, parts := e.parts ++ [p] }) cid p.fid

/-- Fold item t with its contribution (R142, R191): the owner's accumulator and the flags of comb, which rounds as the SEGRED that contributes the
item was issued to (R65). Where an owner's items come from SEGREDs of several operations, types or modes, those of the later item hold; the spec is
silent (DESIGN CHOICE, log entry 39). -/
def expFoldItem (st : List ExpPart × BitVec 5) (c : Nat × DWord × RedOp × RedTy × BitVec 4) : List ExpPart × BitVec 5 :=
  match st.1.find? (fun p => decide (p.off ≤ c.1) && decide (c.1 < p.off + p.len)) with
  | none => st
  | some o =>
    let r : DWord × BitVec 5 := match o.acc with
      | none => (c.2.1, 0)
      | some a => comb c.2.2.1 c.2.2.2.1 (rmOf c.2.2.2.2) a c.2.1
    (updIf (fun p => p.fid == o.fid) (fun p => { p with acc := some r.1 }) st.1, st.2 ||| r.2)

/-- Fold the next step if each of its items has been contributed (R191). -/
def expFoldStep (e : Expand) (fl : BitVec 5) : Expand × BitVec 5 :=
  let p := e.parts.length
  let lo := e.folded * p
  let hi := min (lo + p) e.total
  let step := sortBy (fun (a b : Nat × DWord × RedOp × RedTy × BitVec 4) => decide (a.1 < b.1))
    (e.contrib.filter (fun c => decide (lo ≤ c.1) && decide (c.1 < hi)))
  if lo < hi ∧ step.length = hi - lo then
    let r := step.foldl expFoldItem (e.parts, fl)
    ({ e with parts := r.1, folded := e.folded + 1, contrib := e.contrib.filter (fun c => decide (hi ≤ c.1)) }, r.2)
  else (e, fl)

def expFoldAll (e : Expand) : Expand × BitVec 5 :=
  (List.range 17).foldl (fun st _ => expFoldStep st.1 st.2) (e, 0)

/-- The value a fibre collects (R194); a collector of 32 bits takes the low word of what has been folded (DESIGN CHOICE, log entry 39). -/
def expTotalOf (e : Expand) (fid : Nat) (op : RedOp) (t : RedTy) : DWord :=
  match e.parts.find? (fun p => p.fid == fid) with
  | some { acc := some a, .. } => if redW64 t then a else zext (lo32 a)
  | _ => redIdentity op t

/-- Write the collected value of a parked fibre: an x register of its spore, a g register, or a push (R194). DESIGN CHOICE (log entry
21): each collected value is one channel entry, pushed whatever the depth, since the instruction has left its frond. -/
def expDeliver (s : State) (f : Fibre) (d : Dst) (w64 ws : Bool) (v : DWord) : State :=
  if ws then s
  else match d with
    | .x i => updFibre s f.fid (fun f => if w64 then setX64 f i.toNat v else setX f i.toNat (lo32 v))
    | .g i => updCush s f.cush (fun c =>
        { c with g := if w64 then setAt 0 (setAt 0 c.g i.toNat (lo32 v)) (i.toNat + 1) (hi32 v) else setAt 0 c.g i.toNat (lo32 v) })
    | .h c =>
      match getCush s f.cush with
      | none => s
      | some cu =>
        match nextStage s cu with
        | none => s
        | some n =>
          let ent : ChanEntry := { words := (List.range 32).map (fun l => if l = f.lane then lo32 v else 0), mask := BitVec.ofNat 32 (2 ^ f.lane) }
          let s := updCush s n.cid (fun n => { n with chans := setAt [] n.chans c.toNat (getD n.chans c.toNat [] ++ [ent]) })
          wakeAll s ((s.fibres.filter (fun g => g.cush == n.cid && g.wait == .chanPop c.toNat)).map (·.fid))
    | .none => s

/-- Complete the collections that wait, once every step is folded (R194). -/
def expCollect (s : State) (cid : Nat) : State :=
  let e := expOf s cid
  if expClosed e && decide (expSteps e ≤ e.folded) then
    let s := setExp s cid { e with phase := .folding }
    (s.fibres.filter (fun f => f.cush == cid)).foldl (fun s f =>
      match f.wait with
      | .collect op t d ws =>
        let s := expDeliver s f d (redW64 t) ws (expTotalOf e f.fid op t)
        let s := updCush s cid (fun c =>
          { c with exp := { c.exp with parts := updIf (fun p => p.fid == f.fid) (fun p => { p with collected := true }) c.exp.parts } })
        wake s f.fid
      | _ => s) s
  else s

/-- End the round when every participant has collected; the arrivals for the next round open it (R192, R194). -/
def expTryEnd (s : State) (cid : Nat) : State :=
  let e := expOf s cid
  if expClosed e && e.parts.all (·.collected) then
    let e' : Expand := { phase := if e.later.isEmpty then .idle else .opened, parts := e.later, later := [], total := 0, folded := 0, contrib := [] }
    let last := (e.later.getLast?.map (·.fid)).getD 0
    expTryClose (setExp s cid e') cid last
  else s

/-- After a contribution: fold, raise the flags, resume the fibres that wait on the distance, complete collections (R144, R191, R194). -/
def expAdvance (s : State) (cid : Nat) : State :=
  match getCush s cid with
  | none => s
  | some c =>
    let r := expFoldAll c.exp
    let s := raiseCush (setExp s cid r.1) cid r.2
    let ready := (s.fibres.filter (fun f => f.cush == cid && f.wait == .segredRoom &&
      r.1.parts.any (fun p => p.fid == f.fid && decide (p.next < r.1.folded + 16)))).map (·.fid)
    expTryEnd (expCollect (wakeAll s ready) cid) cid

/-- A participant retires (R190, R194): before the close it is no participant; after it, it counts as having collected, and
an item dealt to it and not contributed ends the carpet with 0x020F. -/
def expRetire (s : State) (f : Fibre) (pc : DWord) : State :=
  let cid := f.cush
  let e := expOf s cid
  let e' := { e with later := e.later.filter (fun p => p.fid != f.fid) }
  if !expClosed e then
    let s := setExp s cid { e' with parts := e.parts.filter (fun p => p.fid != f.fid) }
    expTryClose s cid ((e.parts.getLast?.map (·.fid)).getD 0)
  else if e.parts.any (fun p => p.fid == f.fid && !p.collected) then
    match expItemAt e f.fid with
    | some t =>
      let idx := match expOwner e t with | some o => (o.start + t - o.off) % 2 ^ 32 | none => 0
      fatalFibre (setExp s cid e') { f with expItem := none } 0x20F pc 0 (ofN64 (f.idx + idx * 2 ^ 32)) false
    | none =>
      expTryEnd (setExp s cid { e' with parts := updIf (fun p => p.fid == f.fid) (fun p => { p with collected := true }) e.parts }) cid
  else setExp s cid e'

/-! ## Instructions -/

/-- The checks of EXSTEP and SEGRED (R389): a round in use, and the fibre an arrived participant. -/
def expViols (ex : Ex) (f : Fibre) (w : DWord) : List Viol :=
  let e := ex.cush.exp
  let _ := w
  if f.away then []
  else if !expInUse e then [viol 0x114 0 0 1]
  else if !expClosed e || !e.parts.any (fun p => p.fid == f.fid) then [viol 0x114 0 0 2]
  else []

/-- EXPAND (R192). -/
def execExpand (h : Hdr) (a b : Src) (s : State) : Host.Outcome State Fault Refusal :=
  .next (frondExec (.expand h a b) h { shape [s32 1 a, s32 2 b] none with held := true }
    (fun _ f _ => if f.idx < 128 then [] else [viol 0x114 0 0 0])
    (fun ex lanes s =>
      ((lanes.filter (·.act)).foldl (fun s l =>
        parkFibre s ex.frond.fr l.f
          { at_ := some ex.pc, resume := ex.pc + 8#64, wait := .expand, join := 1, dstG := 0, dstK := 0 }
          (fun s => expArrive s ex.cush.cid
            { fid := l.f.fid, idx := l.f.idx, start := (lo32 (opv l.vals 0)).toNat, len := (lo32 (opv l.vals 1)).toNat,
              off := 0, acc := none, next := 0, collected := false })) s, true)) s)

/-- EXSTEP (R193): the owner and item index of the receiver's next item; that item is its current item (R408). -/
def execExstep (h : Hdr) (d : Dst) (s : State) : Host.Outcome State Fault Refusal :=
  let i : Instr := .exstep h d
  .next (frondExec i h { shape [] (some (dW true d)) with held := true } (fun ex f _ => expViols ex f (wordOf i))
    (fun ex lanes s =>
      let e := ex.cush.exp
      let res := (lanes.filter (·.act)).map (fun l =>
        match expItemAt e l.f.fid with
        | some t =>
          match expOwner e t with
          | some o => (l.f, pair64 (BitVec.ofNat 32 o.idx) (BitVec.ofNat 32 (o.start + t - o.off)), some (o.idx, o.idx % 32, (o.start + t - o.off) % 2 ^ 32))
          | none => (l.f, 0xFFFFFFFF#64, none)
        | none => (l.f, 0xFFFFFFFF#64, none))
      let s := res.foldl (fun s r => updFibre s r.1.fid (fun f => { f with expItem := r.2.2 })) s
      (writeResult s ex h d true (res.map (fun r => (r.1, r.2.1))), false)) s)

/-- SEGRED (R194): contribute, park on the distance, or park to collect. -/
def execSegred (h : Hdr) (op : RedOp) (t : RedTy) (d : Dst) (a : Src) (s : State) : Host.Outcome State Fault Refusal :=
  let i : Instr := .segred h op t d a
  let w64 := redW64 t
  .next (frondExec i h { shape [sW w64 1 a] (some (dW w64 d)) with held := true } (fun ex f _ => expViols ex f (wordOf i))
    (fun ex lanes s =>
      let e := ex.cush.exp
      let acts := lanes.filter (·.act)
      let far (f : Fibre) : Bool := e.parts.any (fun p => p.fid == f.fid && decide (e.folded + 16 ≤ p.next))
      let items := acts.filter (fun l => (expItemAt e l.f.fid).isSome && !far l.f)
      let waits := acts.filter (fun l => (expItemAt e l.f.fid).isSome && far l.f)
      let last := acts.filter (fun l => (expItemAt e l.f.fid).isNone)
      let dg : BitVec 16 := match d, h.ws with
        | .x i, false => granulesOf i.toNat (if w64 then 2 else 1)
        | _, _ => 0
      let s := writeResult s ex h d w64 (items.map (fun l => (l.f, opv l.vals 0)))
      let s := items.foldl (fun s l => updFibre s l.f.fid (fun f => { f with expItem := none })) s
      let e' : Expand := { e with
        contrib := e.contrib ++ items.filterMap (fun l => (expItemAt e l.f.fid).map (fun t' => (t', opv l.vals 0, op, t, ex.cush.fctlIn s.clock)))
        parts := updIf (fun p => items.any (fun l => l.f.fid == p.fid)) (fun p => { p with next := p.next + 1 }) e.parts }
      let s := setExp s ex.cush.cid e'
      let s := waits.foldl (fun s l => parkFibre s ex.frond.fr l.f
        { at_ := some ex.pc, resume := ex.pc, wait := .segredRoom, join := 1, dstG := 0, dstK := 0 } id) s
      let s := last.foldl (fun s l => parkFibre s ex.frond.fr { l.f with expItem := none }
        { at_ := some ex.pc, resume := ex.pc + 8#64, wait := .collect op t d h.ws, join := 1, dstG := dg, dstK := 0 } id) s
      (expAdvance s ex.cush.cid, !(waits.isEmpty && last.isEmpty))) s)

end Sys2Proof.Machine
end

