-- ==== Sys2Proof/Machine/Control.lean ====
section
/-! DEFINITION. SYS and FLOW instructions (R166 to R184, R389), apart from SPAWN and JOIN, which need a translation: branches
and regrouping, calls, fibre creation and retirement, barriers, windows, and control registers. -/

namespace Sys2Proof.Machine

/-- Divide a frond into groups that stand at one pc each, in the order they are issued when otherwise equal; all keep the
age (R34, R174, R175, R346). The first group keeps the frond. -/
def regroup (s : State) (ex : Ex) (groups : List (List Nat × DWord)) : State :=
  let gs := groups.filter (fun g => !g.1.isEmpty)
  match gs with
  | [] => s
  | [g] => setPc s g.1 g.2
  | g :: rest =>
    let p := fresh s
    let s := updFrond (setPc p.1 g.1 g.2) ex.frond.fr (fun f => { f with split := p.2, order := 0 })
    ((List.range rest.length).zip rest).foldl (fun s r => splitOff (setPc s r.2.1 r.2.2) ex.frond r.2.1 p.2 (r.1 + 1)) s

def fidsOf (ls : List LaneIn) : List Nat := ls.map (fun l => l.f.fid)

/-- The groups of equal targets, in ascending order of their lowest slot (R174). -/
def targetGroups (ts : List (Nat × DWord)) : List (List Nat × DWord) :=
  (ts.map (·.2)).dedup.map (fun t => ((ts.filter (fun x => x.2 == t)).map (·.1), t))
    |> sortBy (fun a b => decide ((ts.findIdx (fun x => x.2 == a.2)) < (ts.findIdx (fun x => x.2 == b.2))))

/-- Members that do not trap and whose guard is false: the fall-through group (R34). -/
def fallGroup (ex : Ex) (lanes : List LaneIn) : List Nat × DWord := (fidsOf (lanes.filter (fun l => !l.act)), ex.pc + 8#64)

/-- The branch target of a displacement (R172). -/
def relTarget (pc : DWord) (disp : BitVec 24) : DWord := pc + (disp.signExtend 64 <<< 3)

/-- FBUDGET of the function-table entry of a target (R70). -/
def fbudget (c : Carpet) (t : DWord) : Option Nat :=
  (c.ker.funcs.find? (fun e => ofN64 (getF e 0 32) == t - codeBase c)).map (fun e => getF e 32 8)

/-- A control instruction whose true slots go to targets of their own (R174). DESIGN CHOICE (log entry 20): with every guard false a
CALL, RET, CALLX or YIELD does nothing and keeps the run, as a branch that no member takes (R82). -/
def jumpExec (i : Instr) (h : Hdr) (sh : Shape) (extra : Ex → Fibre → List DWord → List Viol)
    (target : Ex → LaneIn → DWord) (upd : Ex → LaneIn → Fibre → Fibre) (s : State) : State :=
  frondExec i h sh extra (fun ex lanes s =>
    let acts := lanes.filter (·.act)
    let s := acts.foldl (fun s l => updFibre s l.f.fid (upd ex l)) s
    (regroup s ex (fallGroup ex lanes :: targetGroups (acts.map (fun l => (l.f.fid, target ex l)))), true)) s

/-! ## SYS -/

/-- NOP (R167). -/
def execNop (h : Hdr) (s : State) : Host.Outcome State Fault Refusal :=
  .next (frondExec (.nop h) h (shape [] none) (fun _ _ _ => []) (fun _ _ s => (s, false)) s)

/-- YIELD (R167). -/
def execYield (h : Hdr) (s : State) : Host.Outcome State Fault Refusal :=
  .next (frondExec (.yield h) h (shape [] none) (fun _ _ _ => []) (fun _ _ s => (s, true)) s)

/-- BRK (R168): a park when a debugger is attached to the context, else a precise trap. -/
def execBrk (h : Hdr) (code : BitVec 24) (s : State) : Host.Outcome State Fault Refusal :=
  .next (frondExec (.brk h code) h (shape [] none)
    (fun ex _ _ => if debuggerOn s ex.car.asid then [] else [viol 0x2 0 (code.setWidth 64) 0])
    (fun ex lanes s =>
      ((lanes.filter (·.act)).foldl (fun s l => parkFibre s ex.frond.fr l.f
        { at_ := some ex.pc, resume := ex.pc + 8#64, wait := .brk, join := 1, dstG := 0, dstK := 0 } id) s, true)) s)

/-- TRAP (R168). -/
def execTrap (h : Hdr) (code : BitVec 24) (s : State) : Host.Outcome State Fault Refusal :=
  .next (frondExec (.trap h code) h (shape [] none) (fun _ _ _ => [viol 0x1 0 (code.setWidth 64) 0]) (fun _ _ s => (s, false)) s)

/-- The record of a system call (R169, R369). -/
def syscRec (s : State) (f : Fibre) (asid : Nat) (pc : DWord) (code : BitVec 24) : Rec :=
  { mkRec s 4 0x500 asid pc (fibreW2 s f) (code.setWidth 64) 0 with
    w6 := pair64 (getX f 0) (getX f 1), w7 := pair64 (getX f 2) (getX f 3) }

/-- SYSC (R169): the granule of x0:x1 is always saved. -/
def execSysc (h : Hdr) (code : BitVec 24) (s : State) : Host.Outcome State Fault Refusal :=
  .next (frondExec (.sysc h code) h { shape [] none with more := [sBase 4 0 (.x 0)] } (fun _ _ _ => [])
    (fun ex lanes s =>
      ((lanes.filter (·.act)).foldl (fun s l => parkFibre s ex.frond.fr l.f
        { at_ := some ex.pc, resume := ex.pc + 8#64, wait := .sysc, join := 1, dstG := 1, dstK := 0 }
        (fun s => queueRec s ex.car.asid (syscRec s l.f ex.car.asid ex.pc code) (.sysc l.f.fid))) s, true)) s)

/-- ERET (R170). -/
def execEret (h : Hdr) (s : State) : Host.Outcome State Fault Refusal :=
  .next (jumpExec (.eret h) h (shape [] none) (fun _ f _ => if f.handler then [] else [viol 0x10A 0 0 0])
    (fun _ l => l.f.retAddr) (fun _ _ f => leaveHandler f) s)

/-- What a CSR number is (R63): its width and whether a program may write it, or read it only in handler mode. -/
structure CsrInfo where
  w64 : Bool
  rw : Bool
  priv : Bool
  deriving DecidableEq, Repr

def csrInfo (n : Nat) : Option CsrInfo :=
  if n ≤ 1 then some ⟨false, true, false⟩
  else if 0x10 ≤ n ∧ n ≤ 0x17 ∨ 0x20 ≤ n ∧ n ≤ 0x22 then some ⟨false, false, false⟩
  else if 0x30 ≤ n ∧ n ≤ 0x32 then some ⟨true, false, false⟩
  else if n = 0x800 ∨ n = 0x801 then some ⟨false, false, true⟩
  else if 0x810 ≤ n ∧ n ≤ 0x813 then some ⟨true, false, true⟩
  else none

def csrW64 (n : Nat) : Bool := ((csrInfo n).map (·.w64)).getD false

/-- CTXSTATUS (R66). -/
def ctxStatus (ex : Ex) (f : Fibre) : DWord :=
  ofN64 (f.handler.toNat + 2 * f.away.toNat + 4 * (f.prio % 4) + 16 * (ex.car.pkt.prio % 4))

/-- The value a fibre reads from a CSR (R28, R49, R63 to R66). -/
def csrValue (s : State) (ex : Ex) (f : Fibre) (n : Nat) : DWord :=
  match n with
  | 0x000 => if f.away then f.awFlags.setWidth 64 else ex.cush.fsr.setWidth 64
  | 0x001 => (fctlOf s f).setWidth 64
  | 0x010 => ofN64 f.idx
  | 0x011 => ofN64 f.lane
  | 0x012 => ofN64 ex.cush.pos
  | 0x013 => ofN64 ex.cush.stage
  | 0x014 => ofN64 ex.cush.px
  | 0x015 => ofN64 ex.cush.py
  | 0x016 => ofN64 ex.cush.pz
  | 0x017 => ofN64 ex.car.id
  | 0x020 => ofN64 (winBase f)
  | 0x021 => ofN64 f.winSize
  | 0x022 => ofN64 f.stcnt
  | 0x030 => ofN64 s.clock
  | 0x031 => nearBase s ex.car.asid
  | 0x032 => ex.car.pkt.param
  | 0x800 => ofN64 ex.car.asid
  | 0x801 => ctxStatus ex f
  | 0x810 => getD f.faultInfo 0 0
  | 0x811 => getD f.faultInfo 1 0
  | 0x812 => getD f.faultInfo 2 0
  | 0x813 => getD f.faultInfo 3 0
  | _ => 0

/-- Refused reads (R389, row 0x0109). -/
def csrReadViols (f : Fibre) (n : Nat) : List Viol :=
  match csrInfo n with
  | none => [viol 0x109 0 (ofN64 n) 0]
  | some c => if c.priv && !f.handler then [viol 0x109 0 (ofN64 n) 2] else []

/-- Refused writes. -/
def csrWriteViols (n : Nat) : List Viol :=
  match csrInfo n with
  | none => [viol 0x109 0 (ofN64 n) 0]
  | some c => if c.rw then [] else [viol 0x109 0 (ofN64 n) 1]

/-- CSRR (R171). -/
def execCsrr (h : Hdr) (d : Dst) (csr : BitVec 12) (s : State) : Host.Outcome State Fault Refusal :=
  let n := csr.toNat
  .next (frondExec (.csrr h d csr) h (shape [] (some (dW (csrW64 n) d))) (fun _ f _ => csrReadViols f n)
    (fun ex lanes s =>
      (writeResult s ex h d (csrW64 n) ((lanes.filter (·.act)).map (fun l => (l.f, csrValue s ex l.f n))), false)) s)

/-- A write of FSR or FCTL in a cycle. Flags that other instructions raise in that cycle are ORed into the written value (R64); the
value of FCTL that they use stays the old one to the end of the cycle, and RM 5 to 7 leaves FCTL unchanged (R65). -/
def csrWrite (clock : Nat) (c : Cushion) (n : Nat) (v : DWord) : Cushion :=
  if n = 0 then { c with fsr := v.setWidth 5 ||| c.raisedIn clock }
  else if n = 1 ∧ getF v 0 3 ≤ 4 then { c with fctl := v.setWidth 4, fctlOld := some (clock, c.fctlIn clock) }
  else c

/-- CSRW (R171): the highest true slot's value is written. -/
def execCsrw (h : Hdr) (a : Src) (csr : BitVec 12) (s : State) : Host.Outcome State Fault Refusal :=
  let n := csr.toNat
  .next (frondExec (.csrw h a csr) h { shape [sW (csrW64 n) 1 a] none with held := decide (n ≤ 1) } (fun _ _ _ => csrWriteViols n)
    (fun ex lanes s =>
      match (lanes.filter (·.act)).getLast? with
      | some l => (updCush s ex.cush.cid (fun c => csrWrite s.clock c n (opv l.vals 0)), false)
      | none => (s, false)) s)

/-! ## Branches and calls -/

/-- BRA (R172). -/
def execBra (h : Hdr) (disp : BitVec 24) (s : State) : Host.Outcome State Fault Refusal :=
  .next (jumpExec (.bra h disp) h (shape [] none) (fun _ _ _ => []) (fun ex _ => relTarget ex.pc disp) (fun _ _ f => f) s)

/-- The caller's frame word goes to x14:x15 (R172, R175). -/
def pushFrame (pc : DWord) (f : Fibre) : Fibre := { setX64 f 14 f.frame with frame := pc + 8#64 }

/-- CALL (R172, R389). -/
def execCall (h : Hdr) (disp : BitVec 24) (s : State) : Host.Outcome State Fault Refusal :=
  .next (jumpExec (.call h disp) h (shape [] none)
    (fun ex f _ =>
      let t := relTarget ex.pc disp
      match fbudget ex.car t with
      | some b => if f.winSize < b then [viol 0x10C 0 t b] else []
      | none => [])
    (fun ex _ => relTarget ex.pc disp) (fun ex _ f => pushFrame ex.pc f) s)

/-- A target must be 8-byte aligned (R174, R389). -/
def targetViols (t : DWord) : List Viol := if getF t 0 3 = 0 then [] else [viol 0x10E 0 t 0]

/-- BRX (R174). -/
def execBrx (h : Hdr) (a : Src) (s : State) : Host.Outcome State Fault Refusal :=
  .next (jumpExec (.brx h a) h (shape [s64 1 a] none) (fun _ _ vs => targetViols (opv vs 0))
    (fun _ l => opv l.vals 0) (fun _ _ f => f) s)

/-- RET (R174): the frame word is the target; x14:x15 becomes the frame word. -/
def execRet (h : Hdr) (s : State) : Host.Outcome State Fault Refusal :=
  .next (jumpExec (.ret h) h { shape [] none with more := [sBase 2 0 (.x 14)] } (fun _ f _ => targetViols f.frame)
    (fun _ l => l.f.frame) (fun _ _ f => { f with frame := getX64 f 14 }) s)

/-- Whether a resident window can have n granules in place: always where it does not grow, else where its bank has them free (R62, R175, R176). -/
def growRoom (s : State) (f : Fibre) (n : Nat) : Bool :=
  let lo := f.winOff + 64 * f.winSize
  let hi := f.winOff + 64 * n
  decide (n ≤ f.winSize) || (decide (hi ≤ bankTop s f.core) &&
    (occupied s f.core f.lane).all (fun o => o.2 == 0 || decide (o.1 + o.2 ≤ lo) || decide (hi ≤ o.1)))

/-- Grow the window of a fibre, or park it until the larger window is free (R39, R175, R176). -/
def growOrPark (s : State) (ex : Ex) (f : Fibre) (n : Nat) (grown : Fibre → Fibre) : State :=
  if growRoom s f n then updFibre s f.fid (fun f => grown (resizeRegs f n))
  else parkFibre s ex.frond.fr f { at_ := some ex.pc, resume := ex.pc, wait := .window n, join := 1, dstG := 0, dstK := 0 } id

/-- CALLX (R175): one round for the target of the lowest true slot. -/
def execCallx (h : Hdr) (a : Src) (s : State) : Host.Outcome State Fault Refusal :=
  .next (frondExec (.callx h a) h (shape [s64 1 a] none) (fun _ _ vs => targetViols (opv vs 0))
    (fun ex lanes s =>
      let acts := lanes.filter (·.act)
      match acts with
      | [] => (s, false)
      | e :: _ =>
        let t := opv e.vals 0
        let callers := acts.filter (fun l => opv l.vals 0 == t)
        let rest := acts.filter (fun l => opv l.vals 0 != t)
        let need (f : Fibre) := max f.winSize ((fbudget ex.car t).getD 0)
        let s := callers.foldl (fun s l => growOrPark s ex l.f (need l.f) (pushFrame ex.pc)) s
        let went := (fidsOf callers).filter (fun fid => ((getFibre s fid).map (fun f => f.status == .resident)).getD false)
        (regroup s ex [(went, t), (fidsOf rest, ex.pc), fallGroup ex lanes], true)) s)

/-- RESIZE (R176, R389). -/
def execResize (h : Hdr) (n : BitVec 5) (s : State) : Host.Outcome State Fault Refusal :=
  let n' := n.toNat
  .next (frondExec (.resize h n) h (shape [] none)
    (fun _ _ _ => if 1 ≤ n' ∧ n' ≤ 16 then [] else [viol 0x10B 0 0 n'])
    (fun ex lanes s =>
      let s' := (lanes.filter (·.act)).foldl (fun s l => growOrPark s ex l.f n' id) s
      let parked := (fidsOf lanes).any (fun fid => ((getFibre s' fid).map (fun f => f.status != .resident)).getD false)
      (s', parked)) s)

/-! ## Creating and ending fibres -/

/-- A fibre as it starts (R58, R178, R342). -/
def newFibre (fid : Nat) (cu : Cushion) (idx win : Nat) (pc : DWord) (age prio : Nat) : Fibre where
  fid := fid
  carpet := cu.carpet
  cush := cu.cid
  idx := idx
  lane := idx % 32
  status := .ready
  x := List.replicate (16 * win) 0
  pred := 1
  k := List.replicate 16 ⟨0, 0, 0, 0⟩
  frame := 0
  pc := pc
  stcnt := 0
  winSize := win
  winOff := 0
  core := cu.core
  handler := false
  retAddr := 0
  faultInfo := [0, 0, 0, 0]
  away := false
  awFlags := 0
  awFctl := 0
  prio := prio
  age := age
  joinCnt := 0
  affinity := 0
  tgtDie := 0
  task := false
  liveG := 0
  liveK := 0
  pendG := 0
  pendK := 0
  pendP := false
  wait := .none
  heldBy := none
  landCore := none
  landed := false
  claim := none
  taken := none
  expItem := none
  group := none
  saved := false

/-- The lowest free fibre index of a cushion (R29, R178). -/
def freeIdx (s : State) (cid : Nat) : Option Nat :=
  (List.range 1024).find? (fun i => !(s.fibres.any (fun f => f.cush == cid && f.member && f.idx == i)))

/-- One slot's FORK (R178, R404 cause 1). -/
def forkOne (ex : Ex) (e : BitVec 3) (target : DWord) (s : State) (l : LaneIn) : State :=
  match freeIdx s ex.cush.cid with
  | none => updFibre s l.f.fid (fun f => setP f e.toNat false)
  | some i =>
    let p := fresh s
    let sib := newFibre p.2 ex.cush i l.f.winSize target s.clock ex.car.pkt.prio
    let sib := { setX (setX sib 0 (lo32 (opv l.vals 0))) 1 (BitVec.ofNat 32 l.f.idx) with liveG := 1 }
    match makeRoom p.1 ex.cush.core ex.car.asid (sporeBytes sib) p.2 with
    | some t => updFibre { t with fibres := t.fibres ++ [sib] } l.f.fid (fun f => setP f e.toNat true)
    | none => fatalFibre s l.f 0x20A ex.pc 0 (ofN64 (0x100 + (if spillSize s ex.car.asid = 0 then 1 else 0))) false

/-- FORK (R178). -/
def execFork (h : Hdr) (disp : BitVec 24) (a : Src) (e : BitVec 3) (s : State) : Host.Outcome State Fault Refusal :=
  .next (frondExec (.fork h disp a e) h (shape [s32 1 a] none) (fun _ _ _ => [])
    (fun ex lanes s => ((lanes.filter (·.act)).foldl (forkOne ex e (relTarget ex.pc disp)) s, true)) s)

/-- A fibre retires (R31, R36, R49, R182, R190): its window and index are free, its store count goes to the cushion, and
waits that it was counted in are checked again. -/
def retireFibre (pc : DWord) (s : State) (f : Fibre) : State :=
  let f := (getFibre s f.fid).getD f
  let s := { s with fibres := s.fibres.filter (fun g => g.fid != f.fid) }
  let s := updCush s f.cush (fun c => { c.raise s.clock (if f.away then f.awFlags else 0) with retired := c.retired + f.stcnt })
  let s := expRetire s f pc
  checkReform (checkBars s f.cush) f.cush (f.idx / 32)

/-- EXIT (R177). -/
def execExit (h : Hdr) (s : State) : Host.Outcome State Fault Refusal :=
  .next (frondExec (.exit h) h (shape [] none) (fun _ _ _ => [])
    (fun ex lanes s =>
      let acts := lanes.filter (·.act)
      let s := leaveFrond s ex.frond.fr (fidsOf acts)
      (acts.foldl (fun s l => retireFibre ex.pc s l.f) s, true)) s)

/-! ## Barriers -/

/-- BAR (R182). -/
def execBar (h : Hdr) (n : BitVec 2) (s : State) : Host.Outcome State Fault Refusal :=
  .next (frondExec (.bar h n) h { shape [] none with held := true } (fun _ _ _ => [])
    (fun ex lanes s =>
      let s := (lanes.filter (·.act)).foldl (fun s l => parkFibre s ex.frond.fr l.f
        { at_ := some ex.pc, resume := ex.pc + 8#64, wait := .bar n.toNat, join := 1, dstG := 0, dstK := 0 } id) s
      (checkBars s ex.cush.cid, true)) s)

/-- REFORM (R36, R183). -/
def execReform (h : Hdr) (s : State) : Host.Outcome State Fault Refusal :=
  .next (frondExec (.reform h) h { shape [] none with held := true } (fun _ _ _ => [])
    (fun ex lanes s =>
      let acts := lanes.filter (·.act)
      let s := acts.foldl (fun s l => parkFibre s ex.frond.fr l.f
        { at_ := some ex.pc, resume := ex.pc + 8#64, wait := .reform, join := 1, dstG := 0, dstK := 0 } id) s
      (((acts.map (fun l => l.f.idx / 32)).dedup).foldl (fun s j => checkReform s ex.cush.cid j) s, true)) s)

end Sys2Proof.Machine
end

