-- ==== Sys2Proof/Machine/Phys.lean ====
section
/-! DEFINITION. Physical memory: kinds of address and homes (R202, R203), the L2 (R209, R210), poison (R418), and bytes read
and written at their home. HBM byte o of stack s has address s 2^36 + o; vault byte o of core c has 2^40 + c 2^22 + o. -/

namespace Sys2Proof.Machine

def vaultAddr (core off : Nat) : Nat := 2 ^ 40 + core * 2 ^ 22 + off
def isVault (a : Nat) : Bool := decide (2 ^ 40 ≤ a)
def vaultCore (a : Nat) : Nat := (a - 2 ^ 40) / 2 ^ 22
def vaultOff (a : Nat) : Nat := a % 2 ^ 22

/-- The byte a physical address names (R202): kinds vault, HBM die-local, HBM striped. -/
def physOf (kind pa : Nat) : Option Nat :=
  match kind with
  | 0 => if pa / 2 ^ 22 < 384 then some (vaultAddr (pa / 2 ^ 22) (pa % 2 ^ 22)) else none
  | 1 => if pa < 2 ^ 39 then some pa else none
  | 2 => if pa < 2 ^ 39 then let u := pa / 256; some (u % 8 * 2 ^ 36 + u / 8 * 256 + pa % 256) else none
  | _ => none

/-- The striped form of an HBM byte's address (R202). -/
def stripedPA (a : Nat) : Nat := (a % 2 ^ 36 / 256 * 8 + a / 2 ^ 36) * 256 + a % 256

/-- The die that homes a byte (R202, R203). -/
def homeDie (a : Nat) : Nat := if isVault a then vaultCore a / 48 else a / 2 ^ 36

/-- The L2 slice of the home die (R203). -/
def homeSlice (a : Nat) : Nat :=
  let o := a % 2 ^ 36
  (o / 2 ^ 8 % 8) ^^^ (o / 2 ^ 11 % 8) ^^^ (o / 2 ^ 14 % 8) ^^^ (o / 2 ^ 17 % 8)

/-- The physical address as device records show it (R411): vault form or HBM die-local form. -/
def shownPA (a : Nat) : DWord := ofN64 (if isVault a then a - 2 ^ 40 else a)

/-- The value of a byte at its home: a dirty L2 sector's, else the memory's. -/
def physRead (s : State) (a : Nat) : Byte := (ovRead s.l2data a).getD (memRead s.mem a)

def physBytes (s : State) (a n : Nat) : List Byte := (List.range n).map (fun i => physRead s (a + i))

def physWord (s : State) (a n : Nat) : Nat := ofBytes (physBytes s a n)

/-- Write one byte at its home: HBM bytes through the L2. -/
def physPut (s : State) (c : Nat × Byte) : State :=
  if isVault c.1 then { s with mem := memWrite s.mem c.1 c.2 } else { s with l2data := ovWrite s.l2data c.1 c.2 }

/-! ## Routes (R17) -/

/-- The port mask for a package. -/
def routeMask (s : State) (pkg : Nat) : Nat :=
  let own := pkgIdOf s
  if pkg / 16 = own / 16 then ctlF s (0x3000 + 2 * (pkg % 16) / 8 * 8) (16 * (pkg % 16 % 4)) 16
  else ctlF s (0x4000 + 2 * (pkg / 16) / 8 * 8) (16 * (pkg / 16 % 4)) 16

/-- The port in host-bridge mode (R18). -/
def bridgePort (s : State) : Option Nat := if ctlB s offLKBRIDGE 4 then some (ctlF s offLKBRIDGE 0 4) else none

def portUp (s : State) (p : Nat) : Bool := ctlB s (offLKSTAT p) 0 && bridgePort s != some p

/-- The port a message from a core to a package leaves on: the one of the mask that the hash chooses, which is the same while the entry is
unchanged (R17). Where that port is not up, which other port of the mask takes its flits (R423) the spec does not say: the model takes the next
of the mask that is up, in ascending order and round (DESIGN CHOICE, log entry 22). -/
def routePort (s : State) (core pkg : Nat) : Option Nat :=
  let ps := (List.range 16).filter (fun p => (routeMask s pkg).testBit p)
  let k := Config.portHash core pkg % ps.length
  (ps.drop k ++ ps.take k).find? (portUp s)

/-- The core that the port hash takes for a message no core of the package has asked for: an answer, an interrupt message, a forwarded
host access. DESIGN CHOICE (log entry 22): the number after the last core. -/
def noCore : Nat := 384

/-! ## L2 lines (R209 to R211) -/

/-- Lines of a slice (R209, R211). -/
def l2Sets (s : State) : Nat := (32 - min (ctlF s offCRPART 0 4) 8) * 32

/-- Die and slice where a line lies. -/
def l2Place (l : L2Line) : Nat × Nat := l.at_.getD (homeDie (l.line * 256), homeSlice (l.line * 256))

/-- Evict a line: its dirty bytes go to HBM (R209, R210). -/
def l2Evict (s : State) (line : Nat) : State :=
  { s with
    mem := memWriteAll s.mem (s.l2data.filter (fun c => c.1 / 256 == line))
    l2data := s.l2data.filter (fun c => c.1 / 256 != line)
    l2 := s.l2.filter (fun l => l.line != line) }

/-- Make room for a line in its set of 16 of a slice (R209); the victim is the implementation's choice. -/
def l2Room (s : State) (place : Nat × Nat) (line : Nat) : State :=
  let here := s.l2.filter (fun l => l2Place l == place && l.line != line)
  if here.length < 16 then s
  else
    let n := l2Sets s
    let set := here.filter (fun l => Config.cacheSet l.line n == Config.cacheSet line n)
    if set.length < 16 then s
    else match set[Config.l2Victim line set.length % set.length]? with
      | some v => l2Evict s v.line
      | none => s

/-- The home slice of a line. -/
def l2Home (line : Nat) : Nat × Nat := (homeDie (line * 256), homeSlice (line * 256))

/-- The line after one more request of a die to a sector (R210): it moves to the requester's slice at the fourth in a row from a die where
it does not lie. -/
def l2Next (die slice : Nat) (write : Bool) (bit : BitVec 4) (l : L2Line) : L2Line :=
  let count := if l.lastDie = die then min 4 (l.count + 1) else 1
  let moves := decide (count = 4) && decide ((l2Place l).1 ≠ die)
  { l with
    valid := l.valid ||| bit
    dirty := if write then l.dirty ||| bit else l.dirty
    lastDie := die
    count := if moves then 0 else count
    at_ := if moves then (if die = (l2Home l.line).1 then none else some (die, slice)) else l.at_ }

/-- One request touches a sector at its home: residence, dirtiness, and the migration count of its line; a line that moves finds room in
the set it moves to (R209, R210). `die` and `slice` place the requester. -/
def l2Touch (die slice : Nat) (write : Bool) (s : State) (addr : Nat) : State :=
  if isVault addr then s
  else
    let line := addr / 256
    let bit : BitVec 4 := BitVec.ofNat 4 (2 ^ (addr / 64 % 4))
    let s := if s.l2.any (fun l => l.line == line) then s
      else
        let s := l2Room s (l2Home line) line
        { s with l2 := s.l2 ++ [{ line, valid := 0, dirty := 0, at_ := none, lastDie := die, count := 0 }] }
    match s.l2.find? (fun l => l.line == line) with
    | none => s
    | some l =>
      let l' := l2Next die slice write bit l
      let s := if l2Place l' = l2Place l then s else l2Room s (l2Place l') line
      { s with l2 := updIf (fun l => l.line == line) (fun _ => l') s.l2 }

/-- The distinct 64 B sectors of a list of addresses. -/
def sectorsOf (as : List Nat) : List Nat := (as.map (fun a => a / 64 * 64)).dedup

def l2TouchAll (die slice : Nat) (write : Bool) (s : State) (as : List Nat) : State :=
  (sectorsOf as).foldl (l2Touch die slice write) s

/-- The die and slice of a requester: of the core, or of the core that an engine works for (R210). A link port counts as slice 0. -/
def srcDie (src : Nat) : Nat := dieOf (src % 384)
def srcSlice (src : Nat) : Nat := src % 48 / 6

/-! ## Poison (R418) -/

/-- The poisoned unit among some addresses, with its structure. -/
def poisonedAt (s : State) (as : List Nat) : Option (Nat × Nat) :=
  if s.poison.isEmpty then none else s.poison.find? (fun p => as.any (fun a => a / 64 == p.1))

/-- A write clears the poison of a unit all of whose bytes it covers (R418). -/
def clearPoison (s : State) (as : List Nat) : State :=
  if s.poison.isEmpty then s
  else { s with poison := s.poison.filter (fun p => !((List.range 64).all (fun i => as.contains (64 * p.1 + i)))) }

/-- A read of a poisoned unit is refused (R418): 0x0341, and the carpet is touched. -/
def poisonRead (s : State) (p : Nat × Nat) (consumer : Nat) (carpet : Option Nat) (core : Option Nat) : State :=
  let tag := s.nextId
  let s := deviceRec s 0x341 core (shownPA (64 * p.1)) (ofN64 (p.2 + homeDie (64 * p.1) * 16 + consumer * 256))
  match carpet with
  | some c => touchCarpet s c (some tag)
  | none => s

/-! ## Replies and the words that JOIN watches -/

def addReply (s : State) (die : Nat) (w : Payload) (sent : Nat := 0) : State :=
  let p := fresh s
  { p.1 with replies := p.1.replies ++ [{ id := p.2, die, what := w, sent }] }

def addAck (s : State) (die : Nat) (tgt : AckTo) : State :=
  let p := fresh s
  { p.1 with acks := p.1.acks ++ [{ id := p.2, die, tgt }] }

/-- A message to another package leaves on a port of its route (R17). DESIGN CHOICE (log entry 22): an answer for which no route is up is
lost. -/
def linkSend (s : State) (pkg : Nat) (m : LinkMsg) : State :=
  match routePort s noCore pkg with
  | some p => { s with linkOut := s.linkOut ++ [(p, m)] }
  | none => s

/-- An answer to another package (R214). -/
def linkReply (s : State) (pkg tag : Nat) (data : List Byte) : State := linkSend s pkg (.reply tag data)

def joinDone (s : State) (die : Nat) (tgt : OpTo) (sent : Nat := 0) : State :=
  match tgt with
  | .load op => addReply s die (.done op) sent
  | .link pkg tag => linkReply s pkg tag []

/-- The context of a JOIN runs; one of a suspended context is released at its resume (R349, R350). -/
def joinRuns (s : State) (tgt : OpTo) : Bool :=
  match tgt with
  | .link _ _ => true
  | .load op =>
    match (s.loads.find? (fun l => l.id == op)).bind (fun l => getFibre s l.fid) with
    | some f => decide (ctxState s (asidOf s f.carpet) = 0)
    | none => true

/-- After writes, release the JOINs whose word reads 0 (R181). -/
def joinCheck (s : State) : State :=
  if s.joins.isEmpty then s
  else
    let zero (j : JoinWait) := decide (physWord s j.addr 4 = 0) && joinRuns s j.tgt
    let rel := s.joins.filter zero
    rel.foldl (fun s j => joinDone s j.die j.tgt j.sent) { s with joins := s.joins.filter (fun j => !zero j) }

/-- A home applies a write (R208), with the L2, poison and JOIN consequences. -/
def homeWrite (s : State) (src : Nat) (cells : List (Nat × Byte)) : State :=
  let as := cells.map (·.1)
  joinCheck (clearPoison (cells.foldl physPut (l2TouchAll (srcDie src) (srcSlice src) true s as)) as)

/-! ## Read-modify-writes (R253) -/

/-- The new value of an atomic, with its flags. -/
def aopNew (op : Aop) (n : Nat) (old b cmp : DWord) : DWord × BitVec 5 :=
  let w := 8 * n
  let cut (x : DWord) : Nat := x.toNat % 2 ^ w
  let sg (x : DWord) : Int := if 2 ^ (w - 1) ≤ cut x then (cut x : Int) - 2 ^ w else cut x
  match op with
  | .add => (ofN64 ((cut old + cut b) % 2 ^ w), 0)
  | .mins => (if sg old ≤ sg b then old else b, 0)
  | .maxs => (if sg b ≤ sg old then old else b, 0)
  | .minn => (if cut old ≤ cut b then old else b, 0)
  | .maxn => (if cut b ≤ cut old then old else b, 0)
  | .and => (old &&& b, 0)
  | .or => (old ||| b, 0)
  | .xor => (old ^^^ b, 0)
  | .exch => (b, 0)
  | .cas => (if cut old = cut cmp then b else old, 0)
  | .fadd =>
    let i := fInfo (if n = 8 then .f64 else .f32)
    let v := fvAdd .rne (decFloat i (cut old)) (decFloat i (cut b))
    let r := roundTo i .rne false false v.1
    (ofN64 r.1, v.2 ||| r.2)

def bytesOf (n v : Nat) : List Byte := leBytes n v

end Sys2Proof.Machine
end

