-- ==== Sys2Proof/Machine/Crust.lean ====
section
/-! DEFINITION. Crust replicas: the lattices of the cell types (R219), cell reads and joins at a die (R220, R257, R258), dirty
blocks (R222, R259), and the release of LDGE. -/

namespace Sys2Proof.Machine

/-- Cell size of a type code (R219). -/
def cellSize (ct : Nat) : Nat := if ct = 10 then 32 else if ct = 2 ∨ ct = 4 ∨ ct = 6 ∨ ct = 9 then 8 else 4

/-- key of MAXF32 (R219). -/
def fkey (a : Nat) : Nat := if 2 ^ 31 ≤ a % 2 ^ 32 then a % 2 ^ 32 ^^^ 0xFFFFFFFF else a % 2 ^ 32 ^^^ 0x80000000

def sv32 (a : Nat) : Int := if 2 ^ 31 ≤ a % 2 ^ 32 then (a % 2 ^ 32 : Int) - 2 ^ 32 else (a % 2 ^ 32 : Int)

/-- a ⊑ b on cells (R219); of GCNT, on component lists see `cellJoin`, on sums the unsigned order. -/
def cellLe (ct a b : Nat) : Bool :=
  match ct with
  | 1 => decide (sv32 a ≤ sv32 b)
  | 3 | 4 => decide (b ≤ a)
  | 5 | 6 => a &&& b == a
  | 7 => a &&& b == b
  | 8 => decide (fkey a ≤ fkey b)
  | _ => decide (a ≤ b)

/-- The components of a GCNT cell. -/
def gcntComp (v i : Nat) : Nat := v / 2 ^ (32 * i) % 2 ^ 32

def gcntSum (v : Nat) : Nat := sumBy (gcntComp v) (List.range 8)

/-- join (R219); PAIR orders by epoch then value, which is the order of the 64-bit word. -/
def cellJoin (ct a b : Nat) : Nat :=
  match ct with
  | 5 | 6 => a ||| b
  | 7 => a &&& b
  | 10 => sumBy (fun i => max (gcntComp a i) (gcntComp b i) * 2 ^ (32 * i)) (List.range 8)
  | _ => if cellLe ct a b then b else a

/-- The value a threshold is compared with, and that LDGE returns (R258). -/
def cellValue (ct v : Nat) : Nat := if ct = 10 then gcntSum v else v

/-- What a local join makes of a cell (R257). -/
def joinNew (ct die old b : Nat) : Nat :=
  if ct = 10 then
    let c := gcntComp old die
    old - c * 2 ^ (32 * die) + min (c + b % 2 ^ 32) 0xFFFFFFFF * 2 ^ (32 * die)
  else cellJoin ct old b

/-! ## Replicas -/

def replicaOf (s : State) (die asid region : Nat) : Memory :=
  ((s.replicas.find? (fun r => r.die == die && r.asid == asid && r.region == region)).map (·.bytes)).getD []

def setReplica (s : State) (die asid region : Nat) (m : Memory) : State :=
  if s.replicas.any (fun r => r.die == die && r.asid == asid && r.region == region) then
    { s with replicas := updIf (fun r => r.die == die && r.asid == asid && r.region == region) (fun r => { r with bytes := m }) s.replicas }
  else { s with replicas := s.replicas ++ [{ die, asid, region, bytes := m }] }

def cellAt (s : State) (die asid region off n : Nat) : Nat := ofBytes (memBytes (replicaOf s die asid region) off n)

/-- A block becomes dirty in every schedule entry and for pushes (R222, R259). -/
def markDirty (s : State) (die : Nat) (b : Blk) : State :=
  { s with dirty := (List.range 18).foldl (fun l e => addNew { die, entry := e, blk := b } l) s.dirty }

/-- The cell an address lies in, of an active region: region, offset of the address, type (R403). -/
def cellOf (s : State) (asid : Nat) (va : DWord) : Option (Nat × Nat × Nat) :=
  (regionOf s asid va).map (fun r => (r, va.toNat - regionBase s asid r, regionType s asid r))

/-- The value LDGE compares at a die (R258). -/
def ldgeValue (s : State) (die asid : Nat) (va : DWord) (ct : Nat) : Option Nat :=
  (cellOf s asid va).map (fun c => cellValue ct (cellAt s die asid c.1 c.2.1 (cellSize ct)))

/-- Check every LDGE that waits at a die, and answer those whose threshold is met (R258); those of a context that does not run
wait for its resume (R349, R350). -/
def ldgeCheck (s : State) (die : Nat) : State :=
  if s.ldges.isEmpty then s
  else
    let val (l : LdgeWait) : Option Nat :=
      if l.die = die ∧ ctxState s l.asid = 0 then
        match ldgeValue s die l.asid l.va l.ctype with
        | some v => if cellLe (if l.ctype = 10 then 2 else l.ctype) l.thr.toNat v then some v else none
        | none => none
      else none
    s.ldges.foldl (fun s l => match val l with | some v => addReply s die (.value l.op (ofN64 v)) l.sent | none => s)
      { s with ldges := s.ldges.filter (fun l => (val l).isNone) }

/-- Write a cell of a replica; a change dirties its block and may release LDGE (R220, R222, R258). -/
def cellSet (s : State) (die asid region off n v : Nat) : State :=
  if cellAt s die asid region off n = v then s
  else
    let s := setReplica s die asid region (memWriteAll (replicaOf s die asid region) (cellsAt off (leBytes n v)))
    ldgeCheck (markDirty s die ⟨asid, region, off / 256⟩) die

/-- LJOIN at a die's replica (R257). -/
def crustJoin (s : State) (die asid region off ct b : Nat) : State :=
  let n := cellSize ct
  let o := off / n * n
  cellSet s die asid region o n (joinNew ct die (cellAt s die asid region o n) b)

/-- Join received cells into a replica (R222): `cells` holds the bytes of one block by offset in the region. -/
def blockJoin (s : State) (die : Nat) (b : Blk) (cells : Memory) : State :=
  if !regionActive s b.asid b.region && !regionReady s b.asid b.region then s
  else
    let ct := regionType s b.asid b.region
    let n := cellSize ct
    (List.range (256 / n)).foldl (fun s i =>
      let o := 256 * b.block + n * i
      cellSet s die b.asid b.region o n (cellJoin ct (cellAt s die b.asid b.region o n) (ofBytes (memBytes cells o n)))) s

/-- The bytes of a block in a die's replica, by offset in the region. -/
def blockBytes (s : State) (die : Nat) (b : Blk) : Memory :=
  (replicaOf s die b.asid b.region).filter (fun c => c.1 / 256 == b.block)

end Sys2Proof.Machine
end

