-- ==== Sys2Proof/Machine/Translate.lean ====
section
/-! DEFINITION. Translation: page tables (R212 to R215), the translation caches (R216), and the checks of an access (R397 to
R401, R442). -/

namespace Sys2Proof.Machine

/-- log2 of the page size of a leaf (R212). -/
def pageBits (level : Nat) : Nat := if level = 0 then 16 else if level = 1 then 21 else 30

/-- Index of a level in a virtual address (R212). -/
def levelIndex (va : DWord) (level : Nat) : Nat := if level = 0 then getF va 16 5 else getF va (12 + 9 * level) 9

/-! ## Leaf fields (R214) -/

def leafKind (w : DWord) : Nat := getF w 5 2
def leafCpol (w : DWord) : Nat := getF w 7 2
def leafCR (w : DWord) : Bool := getB w 9
def leafCtype (w : DWord) : Nat := getF w 10 4
def leafRmt (w : DWord) : Bool := getB w 14
def leafRpkg (w : DWord) : Nat := getF w 39 12

/-- The physical address of a byte of the page (R214). -/
def leafPA (x : Xlat) (va : DWord) : Nat := getF x.leaf 16 23 * 2 ^ 16 + va.toNat % 2 ^ pageBits x.level

/-- The outcome of a walk (R215). -/
inductive WalkRes where
  | ok (x : Xlat)
  | pageFault (level : Nat)
  | bad (level reason : Nat)
  /-- an entry lies in a poisoned unit (R418): the unit and its structure -/
  | poisoned (p : Nat × Nat)
  deriving DecidableEq, Repr

/-- What is malformed in a valid entry: the lowest reason (R213 to R215, R395 row 0x0202). -/
def entryBad (level : Nat) (e : DWord) : Option Nat :=
  let leaf := getB e 1
  if leaf && decide (3 ≤ level) then some 0
  else if !leaf && decide (level = 0) then some 1
  else if leaf then
    if getB e 15 || getF e 51 13 != 0 || (!leafCR e && leafCtype e != 0) || (!leafRmt e && leafRpkg e != 0) then some 2
    else if leafKind e = 3 ∨ leafCpol e = 3 then some 3
    else if (level = 1 ∧ getF e 16 5 ≠ 0) ∨ (level = 2 ∧ getF e 16 14 ≠ 0) then some 4
    else if leafCR e && (leafRmt e || decide (10 < leafCtype e)) then some 5
    else none
  else
    if getF e 2 6 ≠ 0 ∨ getF e 39 25 ≠ 0 then some 2
    else if 2 ≤ level ∧ getF e 8 4 ≠ 0 then some 4
    else none

/-- The poisoned unit that an entry of a page table lies in (R418). -/
def entryPoison (s : State) (a : Nat) : Option (Nat × Nat) := poisonedAt s [a]

/-- Walk from the node of a level down (R212, R215). -/
def walkFrom (s : State) (asid : Nat) (va : DWord) : Nat → Nat → WalkRes
  | level, node =>
    let a := node + 8 * levelIndex va level
    let e : DWord := ofN64 (physWord s a 8)
    if let some p := entryPoison s a then .poisoned p
    else if !getB e 0 then .pageFault level
    else match entryBad level e with
      | some r => .bad level r
      | none =>
        if getB e 1 then .ok { asid, base := va.toNat / 2 ^ pageBits level * 2 ^ pageBits level, level, leaf := e }
        else match level with
          | 0 => .bad 0 1
          | l + 1 => walkFrom s asid va l (getF e 8 31 * 256)

/-- The whole walk, from PTBASE (R200, R215). -/
def walkTable (s : State) (asid : Nat) (va : DWord) : WalkRes := walkFrom s asid va 4 (ctlF s (offCTXMEM asid) 12 27 * 4096)

/-- The table entries that a walk reads, from the node of a level down. -/
def walkReads (s : State) (va : DWord) : Nat → Nat → List Nat
  | level, node =>
    let a := node + 8 * levelIndex va level
    let e : DWord := ofN64 (physWord s a 8)
    if (entryPoison s a).isSome || !getB e 0 || getB e 1 || (entryBad level e).isSome then [a]
    else match level with
      | 0 => [a]
      | l + 1 => a :: walkReads s va l (getF e 8 31 * 256)

/-- A walk reads its entries through their L2 slices (R209, R210): die and slice of the requester. -/
def walkTouch (s : State) (die slice asid : Nat) (va : DWord) : State :=
  l2TouchAll die slice false s (walkReads s va 4 (ctlF s (offCTXMEM asid) 12 27 * 4096))

/-- The virtual page of an address: level of its leaf and page number; of an address without a leaf, the smallest page (R212, R216). -/
def pageOf (s : State) (asid : Nat) (va : DWord) : Nat × Nat :=
  match walkTable s asid va with
  | .ok x => (x.level, va.toNat / 2 ^ pageBits x.level)
  | _ => (0, va.toNat / 2 ^ 16)

/-! ## Translation caches (R216) -/

def xlatCovers (asid : Nat) (va : DWord) (x : Xlat) : Bool :=
  x.asid == asid && va.toNat / 2 ^ pageBits x.level == x.base / 2 ^ pageBits x.level

def tlbFind (l : List (Nat × Xlat)) (unit asid : Nat) (va : DWord) : Option Xlat :=
  (l.find? (fun e => e.1 == unit && xlatCovers asid va e.2)).map (·.2)

/-- Insert a translation; a full cache gives up one entry of the implementation's choice. -/
def tlbInsert (l : List (Nat × Xlat)) (unit cap : Nat) (x : Xlat) : List (Nat × Xlat) :=
  let l := l.filter (fun e => !(e.1 == unit && e.2.asid == x.asid && e.2.base == x.base && e.2.level == x.level))
  let n := (l.filter (fun e => e.1 == unit)).length
  let l := if n < cap then l
    else match (l.filter (fun e => e.1 == unit))[Config.tlbVictim x.base n % n]? with
      | some v => l.erase v
      | none => l
  l ++ [(unit, x)]

def fillCore (s : State) (core : Nat) (x : Xlat) : State := { s with coreTlb := tlbInsert s.coreTlb core 128 x }
def fillDie (s : State) (die : Nat) (x : Xlat) : State := { s with dieTlb := tlbInsert s.dieTlb die 8192 x }

/-- Look up both caches; a hit in the die's refills the core's (R216). -/
def tlbLookup (s : State) (core asid : Nat) (va : DWord) : State × Option Xlat :=
  match tlbFind s.coreTlb core asid va with
  | some x => (s, some x)
  | none =>
    match tlbFind s.dieTlb (dieOf core) asid va with
    | some x => (fillCore s core x, some x)
    | none => (s, none)

/-! ## Checks (R395, R396, R442) -/

def kindCode : AccKind → Nat
  | .load => 0 | .store => 1 | .atomic => 2 | .crust => 3 | .fetch => 4 | .walker => 5 | .engine => 6 | .joinMigrate => 7

/-- W4 detail: KIND, LEVEL, REASON (R396). -/
def accDetail (k : AccKind) (level reason : Nat) : DWord := ofN64 (kindCode k + level * 8 + reason * 64)

/-- A failed check: syndrome, the address for W3, detail, and whether it is a permission violation. -/
structure AccFail where
  syn : Nat
  w3 : DWord
  w4 : DWord
  freeze : Bool
  deriving DecidableEq, Repr

def accFail (syn : Nat) (w3 w4 : DWord) : AccFail := { syn, w3, w4, freeze := decide (0x201 ≤ syn) && decide (syn ≤ 0x205) }

/-- Checks before the walk (R442 steps 1 to 3), each over every page part before the next. -/
def preCheck (s : State) (asid : Nat) (k : AccKind) (ps : List (DWord × Nat)) : Option AccFail :=
  let d := accDetail k 0 0
  let nb := (nearBase s asid).toNat
  let near (p : DWord × Nat) : Bool := decide (nb < p.1.toNat + p.2) && decide (p.1.toNat < nb + 2 ^ 22)
  match ps.find? (fun p => !canonicalVA p.1), ps.find? near with
  | some p, _ => some (accFail 0x203 p.1 d)
  | none, some p => some (accFail 0x204 p.1 d)
  | none, none => if !ctlB s (offCTXMEM asid) 0 then (ps.head?).map (fun p => accFail 0x20E p.1 d) else none

/-- The reason a vault target is refused (R202); that of another package is checked there. -/
def targetBad (s : State) (x : Xlat) (va : DWord) (n : Nat) : Option Nat :=
  if (leafRmt x.leaf && leafRpkg x.leaf != pkgIdOf s) || leafCR x.leaf || decide (leafKind x.leaf ≠ 0) then none
  else
    let pa := leafPA x va
    if 384 ≤ pa / 2 ^ 22 then some 1
    else
      let limit := 2 ^ 22 - recBytes s (pa / 2 ^ 22)
      if limit ≤ pa % 2 ^ 22 ∨ limit < pa % 2 ^ 22 + n then some 2 else none

/-- Whether a crust instruction's SIZE and address suit the cell type (R256): the bit for a GCNT cell's inside, if wrong. -/
def crustMismatch (ct size : Nat) (ldge : Bool) (va : DWord) : Option Nat :=
  if ct = 10 then
    if getF va 0 5 ≠ 0 then some 1 else if size = (if ldge then 5 else 4) then none else some 0
  else if cellSize ct = 8 then (if size = 5 then none else some 0)
  else (if size = 4 then none else some 0)

/-- Checks on the completed leaf, in their order (R442 step 5), for the part of the access at `va` within the page. -/
def leafCheck (s : State) (acc : Access) (x : Xlat) (va : DWord) (n level : Nat) : Option AccFail :=
  let w := x.leaf
  let miss := (if acc.r && !getB w 2 then 1 else 0) + (if acc.w && !getB w 3 then 2 else 0) + (if acc.x && !getB w 4 then 4 else 0)
  if miss ≠ 0 then some (accFail 0x201 va (accDetail acc.kind level miss))
  else match targetBad s x va n with
    | some r => some (accFail 0x204 va (accDetail acc.kind 0 r))
    | none =>
      if leafCR w then
        match acc.kind, acc.crust with
        | .store, _ => some (accFail 0x205 va (accDetail acc.kind 0 0))
        | .atomic, _ => some (accFail 0x205 va (accDetail acc.kind 0 1))
        | .walker, _ => some (accFail 0x205 va (accDetail acc.kind 0 3))
        | .engine, _ => if acc.w then some (accFail 0x205 va (accDetail acc.kind 0 2)) else none
        | .joinMigrate, _ => if acc.r then some (accFail 0x209 va 0) else none
        | _, some (size, ldge) =>
          match crustMismatch (leafCtype w) size ldge va with
          | some inside => some (accFail 0x207 va (ofN64 (leafCtype w + size * 16 + inside * 128)))
          | none => none
        | _, none => none
      else if acc.crust.isSome then some (accFail 0x206 va (accDetail acc.kind 0 0))
      else none

/-- The page parts of an access: first address and bytes in each 64 KiB page it touches (R397). -/
def accParts (va : DWord) (n : Nat) : List (DWord × Nat) :=
  let room := 2 ^ 16 - va.toNat % 2 ^ 16
  if n ≤ room then [(va, n)] else [(va, room), (va + ofN64 room, n - room)]

/-- What a translation attempt gives. -/
inductive XlRes where
  | ok (xs : List (DWord × Nat × Xlat))
  | miss (va : DWord)
  | fail (f : AccFail)
  deriving DecidableEq, Repr

/-- The order of the checks on completed leaves (R442 step 5). -/
def leafRank (f : AccFail) : Nat :=
  match f.syn with
  | 0x201 => 0 | 0x204 => 1 | 0x205 => 2 | 0x206 => 3 | 0x207 => 4 | _ => 5

/-- The first failure on the leaves of an access: part, bytes, leaf, and the level that a record tells (R396, R442). -/
def leavesCheck (s : State) (acc : Access) (ps : List (DWord × Nat × Xlat × Nat)) : Option AccFail :=
  bestBy (fun a b => decide (leafRank a < leafRank b)) (ps.filterMap (fun p => leafCheck s acc p.2.2.1 p.1 p.2.1 p.2.2.2))

/-- Look up the parts of an access in the caches of a core: the leaves, or the first part that misses (R216). -/
def lookupParts (s : State) (core asid : Nat) (ps : List (DWord × Nat)) : State × List (DWord × Nat × Xlat) × Option DWord :=
  ps.foldl (fun (st : State × List (DWord × Nat × Xlat) × Option DWord) p =>
    match st.2.2 with
    | some _ => st
    | none =>
      match tlbLookup st.1 core asid p.1 with
      | (s, none) => (s, st.2.1, some p.1)
      | (s, some x) => (s, st.2.1 ++ [(p.1, p.2, x)], none)) (s, [], none)

/-- Translate an access through the caches of a core and check it, every page before any unit (R397, R442). -/
def xlate (s : State) (core asid : Nat) (acc : Access) : State × XlRes :=
  let ps := accParts acc.va acc.n
  match preCheck s asid acc.kind ps with
  | some f => (s, .fail f)
  | none =>
    match lookupParts s core asid ps with
    | (s, _, some va) => (s, .miss va)
    | (s, xs, none) =>
      match leavesCheck s acc (xs.map (fun x => (x.1, x.2.1, x.2.2, 7))) with
      | some f => (s, .fail f)
      | none => (s, .ok xs)

/-- A miss joins the walk of its virtual page in its die, or brings one, which begins when the pool has room for it, in arrival order (R216).
A unit that walks in its own steps comes back for the translation and is no waiter; `by_` is its access. -/
def queueWalk (s : State) (die asid : Nat) (va : DWord) (ws : List Waiter) (by_ : Option Missed) : State :=
  let same (k : Walk) : Bool := k.die == die && k.asid == asid && !k.dropped && pageOf s asid k.va == pageOf s asid va
  match s.walks.find? same with
  | some j =>
    { s with walks := updIf (fun k => k.id == j.id) (fun k => { k with waiters := k.waiters ++ ws }) s.walks }
  | none =>
    let p := fresh s
    { p.1 with walks := p.1.walks ++ [{ id := p.2, die, asid, va, waiters := ws, dropped := false, first := by_ }] }

/-- A fibre's access misses both caches: it waits on the walk of its virtual page in its die (R216). -/
def joinWalk (s : State) (die asid : Nat) (va : DWord) (w : Waiter) : State := queueWalk s die asid va [w] none

/-- What a unit that waits for its walk in the step itself gets: walkers, engines, launch units, the host. Of a failed walk the page address and
level are told; `poisoned`: the walk read a poisoned entry (R418); `busy`: the die's pool is full, or a walk of the page is under way, and the unit
has to queue for one: the page address that missed (R216). -/
inductive XwRes where
  | ok (xs : List (DWord × Nat × Xlat))
  | pageFault (va : DWord) (level : Nat)
  | fail (f : AccFail)
  | busy (va : DWord)
  | poisoned (p : Nat × Nat)
  deriving DecidableEq, Repr

/-- A walk of a die can begin now for a page: no walk of the page is under way, and the pool of 128 has a free one (R216). -/
def walkFree (s : State) (die asid : Nat) (va : DWord) : Bool :=
  let mine := s.walks.filter (fun w => w.die == die)
  s.walks.isEmpty ||
    (decide (mine.length < 128) && !mine.any (fun w => w.asid == asid && pageOf s asid w.va == pageOf s asid va))

/-- One part of such an access: from the die's cache, or by a walk, whose result goes there. -/
def walkPart (die asid : Nat) (acc : Access) (st : State × List (DWord × Nat × Xlat × Nat) × Option XwRes) (p : DWord × Nat) :
    State × List (DWord × Nat × Xlat × Nat) × Option XwRes :=
  match st.2.2 with
  | some _ => st
  | none =>
    match tlbFind st.1.dieTlb die asid p.1 with
    | some x => (st.1, st.2.1 ++ [(p.1, p.2, x, 7)], none)
    | none =>
      if !walkFree st.1 die asid p.1 then (st.1, st.2.1, some (.busy p.1))
      else
        let s := walkTouch st.1 die 0 asid p.1
        match walkTable st.1 asid p.1 with
        | .ok x => (fillDie s die x, st.2.1 ++ [(p.1, p.2, x, x.level)], none)
        | .pageFault l => (s, st.2.1, some (.pageFault p.1 l))
        | .poisoned u => (s, st.2.1, some (.poisoned u))
        | .bad l reason => (s, st.2.1, some (.fail (accFail 0x202 p.1 (accDetail acc.kind l reason))))

/-- Translate for a unit that walks in the step itself (R216, R397, R442). -/
def xlateWalk (s : State) (die asid : Nat) (acc : Access) : State × XwRes :=
  let ps := accParts acc.va acc.n
  match preCheck s asid acc.kind ps with
  | some f => (s, .fail f)
  | none =>
    match ps.foldl (walkPart die asid acc) (s, [], none) with
    | (t, _, some r) => (t, r)
    | (t, xs, none) =>
      match leavesCheck t acc xs with
      | some f => (t, .fail f)
      | none => (t, .ok (xs.map (fun x => (x.1, x.2.1, x.2.2.1))))

/-- Where each byte of a translated access lies; a remote page that names this package is served here, and cached nowhere (R205, R273). -/
def placesOf (s : State) (xs : List (DWord × Nat × Xlat)) : List Place :=
  xs.flatMap (fun p => (List.range p.2.1).map (fun i =>
    let va := p.1 + ofN64 i
    let pa := leafPA p.2.2 va
    let w := p.2.2.leaf
    if leafCR w then .crust va
    else if leafRmt w && leafRpkg w != pkgIdOf s then .remote (leafRpkg w) (leafKind w) pa
    else match physOf (leafKind w) pa with
      | some a => .mem (if leafRmt w then 3 else leafCpol w) a
      | none => .mem 1 pa))

/-- The package among some places to which no route leads from a core (R17, R423). -/
def unrouted (s : State) (core : Nat) (ps : List Place) : Option Nat :=
  ps.findSome? (fun p => match p with | .remote pkg _ _ => if (routePort s core pkg).isNone then some pkg else none | _ => none)

/-- The 64 B lines some bytes lie in, crust and remote lines apart from memory's. -/
def placeLine : Place → Nat
  | .mem _ a => a / 64
  | .crust va => 2 ^ 60 + va.toNat / 64
  | .remote pkg kind pa => 2 ^ 61 + pkg * 2 ^ 40 + kind * 2 ^ 36 + pa / 64

def placeLines (ps : List Place) : List Nat := (ps.map placeLine).dedup

/-! ## Misses and page faults (R216, R372, R398) -/

/-- A page fault: the waiter is held by the record of the page, which is posted if there is none yet (R372, R398). -/
def holdReplay (s : State) (die asid : Nat) (va : DWord) (w : Waiter) (r : Rec) : State :=
  let page (a : DWord) := a.toNat / 2 ^ 16
  match s.holds.find? (fun h => h.die == die && h.asid == asid && page h.va == page va) with
  | some h =>
    let hs := updIf (fun k => k.id == h.id) (fun (k : ReplayHold) => { k with waiters := k.waiters ++ [w] }) s.holds
    { s with holds := hs }
  | none =>
    let p := fresh s
    queueRec { p.1 with holds := p.1.holds ++ [{ id := p.2, die, asid, va, waiters := [w] }] } asid r (.replay p.2)

/-- The record of a page fault of an access (R369, R395, R408). -/
def missedRec (s : State) (asid : Nat) (m : Missed) (va : DWord) (level : Nat) : Rec :=
  let r := mkRec s 1 0x200 asid m.pc m.w2 va (accDetail m.kind level 0)
  match m.exp with
  | some e => { r with exp := true, w4 := expDetail e }
  | none => r

/-- An access of a fibre, and of an engine or a matrix operation. -/
def missedBy (s : State) (f : Fibre) (k : AccKind) (pc : DWord) : Missed := { kind := k, pc, w2 := fibreW2 s f, exp := f.expItem }
def engMissed (carpet core slot : Nat) (pc : DWord) : Missed := { kind := .engine, pc, w2 := recW2 carpet core slot 0x3FF 0, exp := none }

def replayRec (s : State) (f : Fibre) (k : AccKind) (pc va : DWord) (level : Nat) : Rec :=
  missedRec s (asidOf s f.carpet) (missedBy s f k pc) va level

/-- A fibre parks on a translation miss and resumes at the instruction itself (R39, R216). -/
def parkMiss (s : State) (ex : Ex) (f : Fibre) (acc : Access) (va : DWord) : State :=
  parkFibre s ex.frond.fr f { at_ := some ex.pc, resume := ex.pc, wait := .walk, join := 1, dstG := 0, dstK := 0 }
    (fun s => joinWalk s (dieOf f.core) ex.car.asid va (.fibre f.fid va acc ex.pc))

/-- A fibre's failed access ends its carpet (R395). -/
def failFibre (s : State) (f : Fibre) (pc : DWord) (e : AccFail) : State := fatalFibre s f e.syn pc e.w3 e.w4 e.freeze

end Sys2Proof.Machine
end

