-- ==== Sys2Proof/Machine/Mem.lean ====
section
/-! DEFINITION. The memory side of a core: the L1 (R205 to R207), requests to homes and to other packages (R17, R214), loads and
their fills (R250), stores (R251), the write-order buffer (R246), and what waits on counters (R260, R259, R39). -/

namespace Sys2Proof.Machine

/-! ## Requests -/

def mkReq (s : State) (src die carpet asid fibre : Nat) (pc va : DWord) (op : HomeOp) : Req :=
  { id := s.nextId, src, die, carpet, asid, fibre, pc, va, op, refused := 0, ticket := none, retryAt := 0, sent := s.clock, xlated := s.nextId }

/-- Put a request on its way (R26). -/
def pushReq (s : State) (r : Req) : State :=
  { s with nextId := s.nextId + 1, reqs := s.reqs ++ [{ r with id := s.nextId, sent := s.clock }] }

/-- Who makes an access: what a request carries for records and acknowledgements; the next handle when it was translated, if that was in an earlier
step. -/
structure Who where
  core : Nat
  carpet : Nat
  asid : Nat
  fid : Nat
  cush : Nat
  pc : DWord
  va : DWord
  w2 : DWord
  born : Option Nat := none
  deriving DecidableEq, Repr

def whoOf (ex : Ex) (f : Fibre) (va : DWord) : Who :=
  { core := ex.core, carpet := ex.car.id, asid := ex.car.asid, fid := f.fid, cush := ex.cush.cid, pc := ex.pc, va
    w2 := recW2 ex.car.id ex.core ex.cush.slot f.idx f.lane }

def reqOf (s : State) (w : Who) (die : Nat) (op : HomeOp) : Req :=
  { mkReq s w.core die w.carpet w.asid w.fid w.pc w.va op with w2 := w.w2, xlated := w.born.getD s.nextId }

/-! ## Requests to other packages (R17, R423) -/

/-- Word 2 of a record of the range of R411: FIBRE 0x3FF, and no lane. -/
def engineW2 (w2 : DWord) : DWord := setF (setF w2 45 10 0x3FF) 55 5 0

/-- A request of a carpet fails: the record names its fibre, or, where that has retired or is none, what made the access (R369, R411); `item`:
with the item that the fibre has been dealt (R408). -/
def fatalReq (s : State) (r : Req) (syn : Nat) (w4 : DWord) (item : Bool) : State :=
  match getFibre s r.fibre with
  | some f => fatalFibre s (if item then f else { f with expItem := none }) syn r.pc r.va w4 false
  | none =>
    let core := r.src % 384
    detect s r.carpet (mkRec s 2 syn r.asid r.pc (if 0x300 ≤ syn ∧ syn < 0x340 then engineW2 r.w2 else r.w2) r.va w4) (dieOf core) core none none

/-- Send a request to another package; with no route the requesting carpet ends with 0x0306 (R423). -/
def sendRemote (s : State) (r : Req) (pkg kind pa : Nat) (op : LinkOp) : State :=
  match routePort s (r.src % 384) pkg with
  | none => fatalReq s r 0x306 (ofN64 pkg) false
  | some p =>
    { s with nextId := s.nextId + 1
             remote := s.remote ++ [(s.nextId, { r with id := s.nextId, sent := s.clock, die := 8 + pkg })]
             linkOut := s.linkOut ++ [(p, .request (pkgIdOf s) s.nextId (BitVec.ofNat 2 kind) pa op)] }

/-! ## The L1 (R205 to R207) -/

/-- Sets of a core's L1 (R205). -/
def l1Sets (s : State) (core : Nat) : Nat := 64 * max 1 (l1KB s core)

def l1Get (s : State) (core line : Nat) : Option Line := s.l1.find? (fun l => l.core == core && l.line == line)

def l1Drop (s : State) (core line : Nat) : State := { s with l1 := s.l1.filter (fun l => !(l.core == core && l.line == line)) }

/-- The cells of the dirty words of a line. -/
def dirtyCells (l : Line) : List (Nat × Byte) :=
  ((List.range 64).zip l.data).filterMap (fun p => if l.dirty.getLsbD (p.1 / 4) then some (64 * l.line + p.1, p.2) else none)

/-- Send the dirty words of a line to its home as a partial write-back (R206). -/
def writeBackLine (s : State) (l : Line) : State :=
  if l.dirty = 0 then s
  else
    let id := s.nextId
    let s := pushReq s { mkReq s l.core (homeDie (64 * l.line)) 0 0 0 0 0 (.write (.writeBack l.core) (dirtyCells l)) with bad := l.bad &&& l.dirty != 0 }
    { s with wbs := s.wbs ++ [(l.core, id)] }

def wordBit (i : Nat) : BitVec 16 := BitVec.ofNat 16 (2 ^ i)

/-! ### How old the clean words of a line are (R227, R234; log entry 34) -/

def stampOf (l : Line) (w : Nat) : Nat := getD l.stamps w 0

/-- Stamp the words of a mask. -/
def setStamps (l : Line) (m : BitVec 16) (n : Nat) : Line :=
  { l with stamps := (List.range 16).map (fun w => if m.getLsbD w then n else stampOf l w) }

/-- The dirty words have gone to their home: they stay valid and clean. -/
def cleanedAt (n : Nat) (l : Line) : Line := { setStamps l l.dirty (2 * n) with dirty := 0 }

/-- A word of the line is valid and not dirty. -/
def cleanWord (l : Line) (w : Nat) : Bool := l.valid.getLsbD w && !l.dirty.getLsbD w

/-- Among some words, one that a read brought is younger than another clean one: together they may be parts of two writes. -/
def mixedWords (l : Line) (ws : List Nat) : Bool :=
  let cs := ws.filter (cleanWord l)
  cs.any (fun a => stampOf l a % 2 == 1 && cs.any (fun b => decide (stampOf l b < stampOf l a)))

/-- The words of a line that some addresses touch. -/
def wordMask (addrs : List Nat) (line : Nat) : BitVec 16 :=
  (addrs.filter (fun a => a / 64 == line)).foldl (fun m a => m ||| wordBit (a / 4 % 16)) 0

/-- Words that pending fills must leave alone: a later access of the core has written them, or the line has left the L1 (R228). -/
def excludeFills (s : State) (core : Nat) (addrs : List Nat) : State :=
  let ls := updIf (fun (k : LoadOp) => k.core == core && !k.fills.isEmpty)
    (fun k => { k with fills := k.fills.map (fun f => (f.1, f.2.1 &&& ~~~(wordMask addrs f.1), f.2.2)) }) s.loads
  if s.loads.isEmpty then s else { s with loads := ls }

/-- The clean words at some addresses leave the L1 of a core, and no fill that is still due brings them in: an access that passes this L1 by, of an
engine of the core or of a fibre that has come to it, has found or made a later value at the home (R227, R233, R237; DEDUCED, log entry 34). -/
def l1Forget (addrs : List Nat) (s : State) (core : Nat) : State :=
  let l1 := (updIf (fun (l : Line) => l.core == core) (fun l => { l with valid := l.valid &&& (l.dirty ||| ~~~(wordMask addrs l.line)) }) s.l1).filter
    (fun l => l.valid != 0)
  excludeFills (if s.l1.isEmpty then s else { s with l1 := l1 }) core addrs

/-- The words of a line. -/
def lineWords (line : Nat) : List Nat := (List.range 16).map (fun w => 64 * line + 4 * w)

/-- Make room for a line in its set: the least recently used of eight is evicted (R205, R206). -/
def l1Room (s : State) (core line : Nat) : State :=
  let here := s.l1.filter (fun l => l.core == core)
  if here.length < 8 then s
  else
    let n := l1Sets s core
    let set := here.filter (fun l => Config.cacheSet l.line n == Config.cacheSet line n)
    if set.length < 8 then s
    else match set.getLast? with
      | some v => excludeFills (l1Drop (writeBackLine s v) core v.line) core (lineWords v.line)
      | none => s

/-- Place a line in the L1: first of all lines, or last for CPOL 2 (R205, R206). -/
def l1Put (s : State) (l : Line) (stream : Bool) : State :=
  let s := l1Drop s l.core l.line
  { s with l1 := if stream then s.l1 ++ [l] else l :: s.l1 }

/-- The line, present or freshly allocated without data. -/
def l1Alloc (s : State) (core line : Nat) : State × Line :=
  match l1Get s core line with
  | some l => (s, l)
  | none => (l1Room s core line, { core, line, valid := 0, dirty := 0, data := List.replicate 64 0 })

/-- Write one word group of a store into the L1: a whole word becomes valid and dirty; part of a valid word is merged (R206).
The bytes it does not take go to the home as a masked write. -/
def l1StoreLine (s : State) (core line : Nat) (stream clean : Bool) (cells : List (Nat × Byte)) : State × List (Nat × Byte) :=
  let words := (cells.map (fun c => c.1 / 4 % 16)).dedup
  let full (w : Nat) : Bool := decide ((cells.filter (fun c => c.1 / 4 % 16 == w)).length = 4)
  let present := l1Get s core line
  let validW (w : Nat) : Bool := match present with | some l => l.valid.getLsbD w | none => false
  let takes (w : Nat) : Bool := if clean then present.isSome && (full w || validW w) else full w || validW w
  let ws := words.filter takes
  let rest := cells.filter (fun c => !ws.contains (c.1 / 4 % 16))
  if ws.isEmpty then (s, rest)
  else
    let p := l1Alloc s core line
    let data := cells.foldl (fun d c => if ws.contains (c.1 / 4 % 16) then setAt 0 d (c.1 % 64) c.2 else d) p.2.data
    let m : BitVec 16 := ws.foldl (fun m w => m ||| wordBit w) 0
    let fullM : BitVec 16 := (ws.filter full).foldl (fun m w => m ||| wordBit w) 0
    let old := if clean then setStamps p.2 fullM (2 * s.nextId) else p.2
    let l := { old with
      data := data
      valid := p.2.valid ||| m
      dirty := if clean then p.2.dirty &&& ~~~fullM else p.2.dirty ||| m
      bad := p.2.bad &&& ~~~fullM }
    (l1Put p.1 l stream, rest)

/-- Write back every dirty word of a core's L1; the words stay valid and clean (R207). -/
def l1WriteBackAll (s : State) (core : Nat) : State :=
  let ls := s.l1.filter (fun l => l.core == core && l.dirty != 0)
  let s := ls.foldl writeBackLine s
  let l1 := updIf (fun (l : Line) => l.core == core) (cleanedAt s.nextId) s.l1
  { s with l1 := l1 }

/-- Write back the dirty words of one line and drop it (R254). -/
def l1Flush (s : State) (core line : Nat) : State :=
  let s := match l1Get s core line with
    | some l => l1Drop (writeBackLine s l) core line
    | none => s
  excludeFills s core (lineWords line)

/-- A store or atomic of the core drops the metadata lines it writes to (R274). -/
def metaDrop (s : State) (core : Nat) (ps : List Place) : State :=
  if s.meta_.isEmpty then s
  else { s with meta_ := s.meta_.filter (fun l => !(l.core == core && (ps.map placeLine).contains l.line)) }

/-- A walker write in the metadata lines that are present (R274). -/
def metaWrite (s : State) (core : Nat) (cells : List (Nat × Byte)) : State :=
  let upd (l : Line) : Line := { l with data := (List.range 64).map (fun i =>
    ((cells.find? (fun c => c.1 == 64 * l.line + i)).map (·.2)).getD (getD l.data i 0)) }
  { s with meta_ := updIf (fun l => l.core == core && cells.any (fun c => c.1 / 64 == l.line)) upd s.meta_ }

/-- Every L1 write-back of a core below an id is acknowledged. -/
def wbDone (s : State) (core barrier : Nat) : Bool := s.wbs.all (fun w => w.1 != core || decide (barrier ≤ w.2))

/-! ## Scopes -/

/-- A scope as an away fibre performs it (R233). -/
def effScope (away : Bool) (sc : Scope) : Scope :=
  if away then match sc with | .cushion | .core => .package | s => s else sc

/-! ## Units of an access (R234, R243) -/

/-- Split bytes at 64 B lines and, when the access is misaligned, wherever a free value says (log entry 9). -/
def unitsOf {α : Type} (s : State) (misaligned : Bool) (items : List (Place × α)) : State × List (List (Place × α)) :=
  let cut (d : DWord) (i : Nat) : Bool := misaligned && d.getLsbD i
  let d := if misaligned then Config.freeValue s.oracle else 0
  let r := ((List.range items.length).zip items).foldl (fun (st : List (List (Place × α)) × Nat) it =>
    let l := placeLine it.2.1
    match st.1.getLast? with
    | some last =>
      if l = st.2 ∧ !cut d it.1 then (st.1.dropLast ++ [last ++ [it.2]], l) else (st.1 ++ [[it.2]], l)
    | none => ([[it.2]], l)) ([], 0)
  ({ s with oracle := if misaligned then s.oracle + 1 else s.oracle }, r.1)

/-- Whether an access starts at an address not aligned to its length. -/
def placesMis (ps : List Place) : Bool :=
  match ps with
  | [] => false
  | .mem _ a :: _ => a % ps.length != 0
  | .crust va :: _ => va.toNat % ps.length != 0
  | .remote _ _ pa :: _ => pa % ps.length != 0

def memAddr : Place → Nat
  | .mem _ a => a
  | _ => 0

/-- The L1 holds no byte of the page: CPOL 1, or RMT 1 (R205). -/
def bypasses (cpol : Nat) : Bool := decide (cpol = 1 ∨ cpol = 3)

def cachedPlace : Place → Bool
  | .mem cpol _ => !bypasses cpol
  | _ => false

def streamPlace : Place → Bool
  | .mem cpol _ => decide (cpol = 2)
  | _ => false

/-! ## Store counters (R45, R31) -/

def stcntOf (s : State) (fid : Nat) : Nat := ((getFibre s fid).map (·.stcnt)).getD 0
def retiredOf (s : State) (cush : Nat) : Nat := ((getCush s cush).map (·.retired)).getD 0

/-- Count stores of a fibre up, or of its cushion's retired fibres. -/
def countUp (s : State) (fid cush n : Nat) : State :=
  if n = 0 then s
  else if (getFibre s fid).isSome then updFibre s fid (fun f => { f with stcnt := f.stcnt + n })
  else updCush s cush (fun c => { c with retired := c.retired + n })

def countDown (s : State) (fid cush n : Nat) : State :=
  if n = 0 then s
  else if (getFibre s fid).isSome then updFibre s fid (fun f => { f with stcnt := f.stcnt - n })
  else updCush s cush (fun c => { c with retired := c.retired - n })

/-! ## Performing stores -/

/-- The addresses of an ordinary access on its way to a home. -/
def opAddrs : HomeOp → List Nat
  | .read _ bs => bs.map (·.1)
  | .write _ cs => cs.map (·.1)
  | .rmw _ _ a n _ _ => (List.range n).map (fun i => a + i)
  | .join _ a => [a]
  | _ => []

/-- Send the bytes of one unit of the store numbered `num` to where they live. -/
def sendUnit (num : Nat) (w : Who) (s : State) (unit : List (Place × Byte)) : State :=
  match unit with
  | [] => s
  | (.mem _ a, _) :: _ =>
    pushReq s (reqOf s w (homeDie a) (.write (.store w.fid w.cush num) (unit.map (fun u => (memAddr u.1, u.2)))))
  | (.remote pkg kind pa, _) :: _ =>
    sendRemote s (reqOf s w 0 (.write (.store w.fid w.cush num) [])) pkg kind pa
      (.write ((List.range unit.length).zip unit |>.map (fun p => (pa + p.1, p.2.2))))
  | (.crust _, _) :: _ => s

/-- What goes to the homes beside words of the L1 that show it already counts among the L1's write-backs: a release of another cushion of the core may
follow a read of it, and waits for it (R231; DEDUCED, log entry 34). `first`: the first id of these requests. -/
def shownAsBacks (s : State) (core first : Nat) (lines : List Nat) : State :=
  let mine := s.reqs.filter (fun r => decide (first ≤ r.id) && (opAddrs r.op).any (fun a => lines.contains (a / 64)))
  { s with wbs := s.wbs ++ mine.map (fun r => (core, r.id)) }

/-- Perform a store: what the L1 takes is absorbed; the rest goes to the homes. `through`: a release at die scope or wider,
which the L1 never absorbs (R206, R246, R251). Answers whether a home has to acknowledge it: then it counts once, in however many units
it goes (R45, R251). -/
def performStore (s : State) (w : Who) (num : Nat) (through : Bool) (places : List Place) (bytes : List Byte) : State × Bool :=
  let s := metaDrop s w.core places
  let items := places.zip bytes
  let lines := (items.filter (fun i => cachedPlace i.1)).map (fun i => (memAddr i.1 / 64, streamPlace i.1)) |>.dedup
  let r := lines.foldl (fun (st : State × List (Nat × Byte)) l =>
    let cells := (items.filter (fun i => cachedPlace i.1 && memAddr i.1 / 64 == l.1)).map (fun i => (memAddr i.1, i.2))
    let q := l1StoreLine st.1 w.core l.1 l.2 through cells
    (q.1, st.2 ++ q.2)) (s, [])
  let s := excludeFills r.1 w.core ((items.filter (fun i => cachedPlace i.1)).map (fun i => memAddr i.1))
  let sends := items.filter (fun i => through || !cachedPlace i.1 || r.2.any (fun c => c.1 == memAddr i.1))
  let p := unitsOf s (placesMis places) sends
  let t := p.2.foldl (sendUnit num w) p.1
  let shown := (lines.map (·.1)).filter (fun l => through && (l1Get s w.core l).isSome)
  (if shown.isEmpty then t else shownAsBacks t w.core p.1.nextId shown, !sends.isEmpty)

/-! ## Loads -/

/-- The byte the L1 serves, if its word is valid (R206). -/
def l1Byte (s : State) (core : Nat) (p : Place) : Option Byte :=
  if cachedPlace p then
    match l1Get s core (memAddr p / 64) with
    | some l => if l.valid.getLsbD (memAddr p / 4 % 16) then some (getD l.data (memAddr p % 64) 0) else none
    | none => none
  else none

/-- The byte lies in a valid word of the L1 that is poisoned (R418). -/
def l1Poison (s : State) (core : Nat) (p : Place) : Bool :=
  cachedPlace p && (match l1Get s core (memAddr p / 64) with
    | some l => (l.valid &&& l.bad).getLsbD (memAddr p / 4 % 16)
    | none => false)

def updLoad (s : State) (id : Nat) (g : LoadOp → LoadOp) : State := { s with loads := updIf (fun l => l.id == id) g s.loads }

/-- The number after the last die: where a reply that no home of the package gives comes from (R347). -/
def noDie : Nat := 8

/-- The words of the 64 B line that some places touch. -/
def wordsAt (ps : List Place) (line : Nat) : List Nat := ((ps.filter (fun p => memAddr p / 64 == line)).map (fun p => memAddr p / 4 % 16)).dedup

/-- The L1 serves every byte of an aligned access at one time: all its words are valid, and none is younger than another (R206, R234; log entry 34). -/
def servedWhole (s : State) (core : Nat) (ps : List Place) : Bool :=
  ps.all (fun p => (l1Byte s core p).isSome) &&
    ((ps.map (fun p => memAddr p / 64)).dedup).all (fun line =>
      match l1Get s core line with | some l => !mixedWords l (wordsAt ps line) | none => true)

/-- A byte of the L1 in a word that the core has written and not yet sent home. -/
def dirtyByte (s : State) (core : Nat) (p : Place) : Option Byte :=
  match l1Get s core (memAddr p / 64) with
  | some l => if l.dirty.getLsbD (memAddr p / 4 % 16) then l1Byte s core p else none
  | none => none

/-- What the L1 gives a load when it is issued. A unit of an aligned load comes from the L1 whole or from one read of the home, but for words
of the core's own that the home has not seen (R206, R227, R234; log entry 34). -/
def l1Bytes (s : State) (core : Nat) (ps : List Place) : List (Option Byte) :=
  if placesMis ps || servedWhole s core ps then ps.map (l1Byte s core) else ps.map (dirtyByte s core)

/-- Start the accesses of a pending load: what the L1 gives is captured now; merging fills and other reads are asked for
(R206, R250). A load that needs no reply gets an early one; one that would read a poisoned word of the L1 is refused (R418). -/
def startLoad (s : State) (w : Who) (id : Nat) : State :=
  match s.loads.find? (fun l => l.id == id) with
  | none => s
  | some op =>
    let got := l1Bytes s op.core op.places
    if (op.places.zip got).any (fun p => p.2.isSome && l1Poison s op.core p.1) then storePoison s op.core 0 w.carpet
    else
    let keyed := (List.range op.places.length).zip (op.places.zip got)
    -- a line served whole counts as used
    let hit := ((keyed.filter (fun k => cachedPlace k.2.1 && k.2.2.isSome)).map (fun k => (memAddr k.2.1 / 64, streamPlace k.2.1))).dedup
    let s := hit.foldl (fun s l => match l1Get s op.core l.1 with | some x => l1Put s x l.2 | none => s) s
    let need := (keyed.filter (fun k => k.2.2.isNone)).map (fun k => (k.1, k.2.1))
    let lines := ((need.filter (fun k => cachedPlace k.2)).map (fun k => (memAddr k.2 / 64, streamPlace k.2))).dedup
    let fills := lines.map (fun l => (l.1, ~~~(match l1Get s op.core l.1 with | some x => x.valid | none => 0), l.2))
    let stamp := s.nextId
    let s := updLoad s id (fun l => { l with bytes := got, fills := fills, stamp := stamp })
    let fillBytes (l : Nat) : List (Nat × Nat) :=
      match fills.find? (fun f => f.1 == l) with
      | some f => ((List.range 64).filter (fun i => f.2.1.getLsbD (i / 4))).map (fun i => (64 * l + i, 64 * l + i))
      | none => []
    let p := unitsOf s (placesMis op.places) (need.map (fun k => (k.2, k.1)))
    let s := p.2.foldl (fun s u =>
      match u with
      | [] => s
      | (.mem cpol a, _) :: _ =>
        let want := u.map (fun x => (memAddr x.1, memAddr x.1))
        let all := if bypasses cpol then want else want ++ (fillBytes (a / 64)).filter (fun f => !want.contains f)
        pushReq s (reqOf s w (homeDie a) (.read (.load id) all))
      | (.crust _, _) :: _ =>
        pushReq s (reqOf s w (dieOf op.core)
          (.crustRead (.load id) w.asid (u.filterMap (fun x => match x.1 with | .crust va => some (2 ^ 60 + x.2, va) | _ => none))))
      | (.remote pkg kind pa, k) :: _ =>
        sendRemote s (reqOf s w 0 (.read (.load id) ((List.range u.length).map (fun i => (pa + i, 2 ^ 60 + k + i))))) pkg kind pa (.read u.length)) p.1
    if need.isEmpty then addReply s noDie (.bytes (.load id) []) else s

/-- The key under which a load's byte i comes back. -/
def loadKey (i : Nat) : Place → Nat
  | .mem _ a => a
  | _ => 2 ^ 60 + i

/-! ## The write-order buffer (R246) -/

/-- A request writes; a fibre whose read, atomic or JOIN is on its way stays parked. -/
def opWrites : HomeOp → Bool
  | .write _ _ => true
  | _ => false

/-- Whether a line is one of another package. -/
def linePkg (l : Nat) : Option Nat := if 2 ^ 61 ≤ l then some ((l - 2 ^ 61) / 2 ^ 40) else none

/-- The store that an acknowledgement of a request counts: its cushion and number. -/
def ackStore : AckTo → Option (Nat × Nat)
  | .store _ cush num => some (cush, num)
  | _ => none

def opStore : HomeOp → Option (Nat × Nat)
  | .write tgt _ => ackStore tgt
  | .ljoin tgt _ _ _ _ => ackStore tgt
  | _ => none

/-- A write of the fibre, or a store of its cushion, is the access of a request. -/
def ownWrite (fid cush : Nat) (r : Req) : Bool :=
  (r.fibre == fid && opWrites r.op) || (match opStore r.op with | some q => q.1 == cush | none => false)

/-- A write of the fibre, or of a fellow of its cushion, to one of the lines is still on its way from another core: program order, and what BAR
and the cushion scope order before it, make the fibre's next access to the line wait (R228, R231, R233). -/
def stillFar (s : State) (fid cush core : Nat) (lines : List Nat) : Bool :=
  s.reqs.any (fun r => ownWrite fid cush r && decide (r.src < 384) && r.src != core && (opAddrs r.op).any (fun a => lines.contains (a / 64))) ||
    s.remote.any (fun r => ownWrite fid cush r.2 && decide (r.2.src < 384) && r.2.src != core &&
      lines.any (fun l => linePkg l == some (r.2.die - 8)))

/-- Whether an access must wait in the buffer: behind a held access of its own fibre, or of its cushion on one of its lines;
a load only for its lines (R246); and behind what the fibre has sent from another core (R233). -/
def mustHold (s : State) (w : Who) (lines : List Nat) (load : Bool) : Bool :=
  s.held.any (fun h => (!load && h.fid == w.fid) || (h.cush == w.cush && h.lines.any (fun l => lines.contains l))) ||
    stillFar s w.fid w.cush w.core lines

/-- Hold an access. The buffer spills to the record area and from there to the spill area; with both full the carpet ends with 0x020A,
cause 3 (R246, R404). -/
def holdAccess (s : State) (w : Who) (rel : Option Scope) (counted : Nat) (lines : List Nat) (act : HeldAct) : State :=
  let n := (s.held.filter (fun h => h.core == w.core)).length
  let p := fresh s
  match if n < max 1 Config.heldRoom then some p.1 else makeRoom p.1 w.core w.asid Config.heldBytes p.2 with
  | some t =>
    let h : Held := { id := p.2, fid := w.fid, cush := w.cush, core := w.core, rel, counted, barrier := none, lines, pc := w.pc, va := w.va, w2 := w.w2, act }
    { t with held := t.held ++ [h] }
  | none => match getFibre s w.fid with
    | some f => fatalFibre s f 0x20A w.pc 0 (spaceW4 s w.asid 3) false
    | none => s

def heldCount (s : State) (p : Held → Bool) : Nat := sumBy (fun h => if p h then h.counted else 0) s.held

/-- The counters a held release waits on are zero but for what is itself held (R232, R246). -/
def countersClear (s : State) (fid cush : Nat) : Bool :=
  stcntOf s fid == (if (getFibre s fid).isSome then heldCount s (fun h => h.fid == fid) else 0) &&
    retiredOf s cush == heldCount s (fun h => h.cush == cush && (getFibre s h.fid).isNone)

/-- A store of the cushion with a number below n is not acknowledged. Happens-before is cumulative: a release waits for what its cushion
has stored before it, since BAR and the cushion scope order such stores before it without waiting (R231; log entry 23). -/
def storesBefore (s : State) (cush n : Nat) : Bool :=
  let hit (o : Option (Nat × Nat)) : Bool := match o with | some q => q.1 == cush && decide (q.2 < n) | none => false
  s.reqs.any (fun r => hit (opStore r.op)) || s.acks.any (fun a => hit (ackStore a.tgt)) || s.remote.any (fun r => hit (opStore r.2.op)) ||
    s.held.any (fun h => h.cush == cush && decide (0 < h.counted) && decide (h.id < n))

def whoHeld (s : State) (h : Held) : Who :=
  let f := getFibre s h.fid
  let car := (f.map (·.carpet)).getD (((getCush s h.cush).map (·.carpet)).getD 0)
  { core := h.core, carpet := car, asid := asidOf s car, fid := h.fid, cush := h.cush, pc := h.pc, va := h.va, w2 := h.w2, born := some h.id }

/-- The fibre that made a held access still stands at the core that holds it, and its spore has not been claimed elsewhere; a retired one stood
with its cushion. -/
def standsAt (s : State) (h : Held) : Bool :=
  match getFibre s h.fid with
  | some f => f.core == h.core && f.claim.isNone && f.landCore.isNone
  | none => (getCush s h.cush).map (·.core) == some h.core

/-- Send or perform a held access. A store keeps its count; one that the L1 absorbs whole is acknowledged at once (R206, R207). Once its fibre
is to go on elsewhere, the L1 of the parking core absorbs nothing of it: the fibre's store counter still covers it until its home has it (R233,
R246). -/
def performHeld (s : State) (h : Held) : State :=
  let s := { s with held := s.held.filter (fun k => k.id != h.id) }
  match h.act with
  | .store places bytes =>
    let through := !standsAt s h || (match h.rel with | some sc => scopeWide sc | none => false)
    let r := performStore s (whoHeld s h) h.id through places bytes
    if r.2 then r.1 else countDown r.1 h.fid h.cush h.counted
  | .send r =>
    let s := match r.op with
      | .rmw _ _ a _ _ _ => l1Flush (metaDrop s h.core [.mem 0 a]) h.core (a / 64)
      | .join _ a => l1Flush s h.core (a / 64)
      | .write _ cells => metaWrite (h.lines.foldl (fun s l => l1Flush s h.core l) s) h.core cells
      | _ => s
    pushReq s r
  | .far r pkg kind pa op => sendRemote s r pkg kind pa op
  | .load op => startLoad s (whoHeld s h) op

/-- Try one held access: nothing before it, its counters, its write-backs (R246). -/
def tryHeld (s : State) (h : Held) : State :=
  if !s.held.any (fun k => k.id == h.id) then s
  else
    let before := s.held.takeWhile (fun k => k.id != h.id)
    let load := match h.act with | .load _ => true | _ => false
    if before.any (fun k => (!load && k.fid == h.fid) || (k.cush == h.cush && k.lines.any (fun l => h.lines.contains l))) ||
        stillFar s h.fid h.cush h.core h.lines then s
    else match h.rel with
      | none => performHeld s h
      | some sc =>
        if !countersClear s h.fid h.cush || storesBefore s h.cush h.id then s
        else if !scopeWide sc then performHeld s h
        else
          let go (s : State) (b : Nat) : State := if wbDone s h.core b then performHeld s h else s
          match h.barrier with
          | some b => go s b
          | none =>
            let s := l1WriteBackAll s h.core
            let b := s.nextId
            let hs := updIf (fun (k : Held) => k.id == h.id) (fun k => { k with barrier := some b }) s.held
            go { s with held := hs } b

def pumpHeld (s : State) : State :=
  s.held.foldl (fun s _ => s.held.foldl (fun s h => tryHeld s ((s.held.find? (fun k => k.id == h.id)).getD h)) s) s

/-! ## Waits on counters and write-backs -/

/-- The work of a parking FENCE (R260): counters, write-backs, then the acquire; the core is where the fibre parked. -/
def tryFence (s : State) (f : Fibre) (sc : Scope) (barrier : Option Nat) (before : Nat) : State :=
  if f.stcnt ≠ 0 ∨ retiredOf s f.cush ≠ 0 ∨ storesBefore s f.cush before then s
  else if !scopeWide sc then wake (acquireWork s f.core f.fid sc) f.fid
  else
    let go (s : State) (b : Nat) : State := if wbDone s f.core b then wake (l1Invalidate s f.core) f.fid else s
    match barrier with
    | some b => go s b
    | none =>
      let s := l1WriteBackAll s f.core
      let b := s.nextId
      go (updFibre s f.fid (fun f => { f with wait := .fence sc (some b) before })) b

/-- An LSYNC whose fibre's counter is zero asks the crust controllers of all dies (R259). -/
def tryLsync (s : State) (f : Fibre) (sc : Scope) : State :=
  if f.stcnt ≠ 0 then s
  else
    let p := fresh s
    let asid := asidOf s f.carpet
    let s := { p.1 with syncs := p.1.syncs ++ [{ id := p.2, fid := f.fid, asid, sc, dies := List.range 8, exch := [], linked := false, back := none }] }
    let s := updFibre s f.fid (fun f => { f with wait := .reply })
    (List.range 8).foldl (fun s d => pushReq s { mkReq s f.core d f.carpet asid f.fid f.pc 0 (.sync p.2) with w2 := fibreW2 s f }) s

/-- What waits on store counters and write-backs is tried again (R39, R246, R259, R260). -/
def pump (s : State) : State :=
  let s := if s.held.isEmpty then s else pumpHeld s
  s.fibres.foldl (fun s f =>
    match f.wait with
    | .storeRoom => if f.stcnt < 0xFFFF ∧ f.status = .parked then wake s f.fid else s
    | .fence sc b n => if f.status = .parked then tryFence s f sc b n else s
    | .lsyncDrain sc => if f.status = .parked then tryLsync s f sc else s
    | _ => s) s

end Sys2Proof.Machine
end

