-- ==== Sys2Proof/Machine/Near.lean ====
section
/-! DEFINITION. Near accesses LDS, STS and ATOMS (R60, R61, R197, R248, R249), and the near-vault accesses LDN and STN (R199,
R252). -/

namespace Sys2Proof.Machine

/-! ## Sizes and data (R88, R244) -/

def sizeBytes : MSize → Nat
  | .n8 | .s8 => 1
  | .n16 | .s16 => 2
  | .w32 => 4
  | .w64 => 8
  | .w128 => 16

/-- The SIZE code, as 0x0207 reports it (R88). -/
def sizeCode : MSize → Nat
  | .n8 => 0 | .s8 => 1 | .n16 => 2 | .s16 => 3 | .w32 => 4 | .w64 => 5 | .w128 => 6

/-- Registers a DATA field names. -/
def sizeWords : MSize → Nat
  | .w64 => 2
  | .w128 => 4
  | _ => 1

/-- The value of loaded bytes in its registers: extended to 32 bits, or 64 bits (R244). -/
def loadValue (sz : MSize) (bs : List Byte) : DWord :=
  let v := ofBytes bs
  match sz with
  | .s8 => zext ((BitVec.ofNat 8 v).signExtend 32)
  | .s16 => zext ((BitVec.ofNat 16 v).signExtend 32)
  | _ => ofN64 v

/-- Loaded bytes in four registers (R244 SIZE 6). -/
def setQuad (f : Fibre) (i : Nat) (bs : List Byte) : Fibre :=
  (List.range 4).foldl (fun f j => setX f (i + j) (BitVec.ofNat 32 (ofBytes ((bs.drop (4 * j)).take 4)))) f

/-- Write loaded bytes into an x destination. -/
def setLoaded (f : Fibre) (i : Nat) (sz : MSize) (bs : List Byte) : Fibre :=
  match sz with
  | .w128 => setQuad f i bs
  | .w64 => setX64 f i (loadValue sz bs)
  | _ => setX f i (lo32 (loadValue sz bs))

/-- The bytes a store writes: of one register, a pair, or four (R244). -/
def storeBytes (f : Fibre) (sz : MSize) (data : Src) (v : DWord) : List Byte :=
  match sz, data with
  | .w128, .x i => (List.range 4).flatMap (fun j => leBytes 4 (getX f (i.toNat + j)).toNat)
  | .w128, _ => []
  | _, _ => leBytes (sizeBytes sz) v.toNat

/-- The DATA source of a store (R244, R388). -/
def sData (sz : MSize) (d : Src) : SrcU := sNoChan (sizeWords sz) 5 d

/-- The DATA destination of a load; `xOnly` for LD, ATOM and LDGE (R244). -/
def dData (sz : MSize) (xOnly : Bool) (d : Dst) : DstU := { field := 5, dst := d, words := sizeWords sz, chan := false, xOnly }

/-! ## The unified store -/

/-- What a byte of the unified store is. -/
inductive NearAt where
  | scratch (off : Nat)
  | reg (fid i byte : Nat)
  deriving DecidableEq, Repr

/-- Offsets of the footprint that hold channel queues (R60). -/
def queueOff (k : Kernel) (off : Nat) : Bool :=
  decide (k.scratch ≤ off) &&
    decide (off < k.scratch + sumBy (fun h => if k.chMask.getLsbD h then 132 * chanDepth k h else 0) (List.range 16))

/-- A unified-store address that lies in the stripes of a cushion: the offset in its footprint (R60), of which what rounds it up to 128 B is a
part. DESIGN CHOICE (log entry 24): the bytes that hold its channel queues are no legal target of a .w access, since channel operands alone reach
them. -/
def scratchAt (ex : Ex) (u : Nat) : Option Nat :=
  let bank := u / 0x8000
  let o := u % 0x8000
  if ex.cush.stripe ≤ o then
    let r := o - ex.cush.stripe
    let off := r / 4 * 128 + bank * 4 + r % 4
    if r < footprint ex.car.ker / 32 ∧ queueOff ex.car.ker off = false then some off else none
  else none

/-- The byte of the unified store that a near address names for this cushion, if any (R61, R197). -/
def nearByte (s : State) (ex : Ex) (win : Bool) (a : Nat) : Option NearAt :=
  if !win then (if a < ex.car.ker.scratch then some (.scratch a) else none)
  else if 2 ^ 20 ≤ a then none
  else
    match s.fibres.find? (fun f => f.cush == ex.cush.cid && f.core == ex.core && f.status == .resident && !f.away &&
        f.lane == a / 0x8000 && decide (f.winOff ≤ a % 0x8000) && decide (a % 0x8000 < f.winOff + 64 * f.winSize)) with
    | some f => some (.reg f.fid ((a % 0x8000 - f.winOff) / 4) (a % 4))
    | none => (scratchAt ex a).map .scratch

def nearGet (s : State) (ex : Ex) (p : NearAt) : Byte :=
  match p with
  | .scratch off => memRead (((getCush s ex.cush.cid).map (·.scratch)).getD []) off
  | .reg fid i b => match getFibre s fid with | some f => (getX f i).extractLsb' (8 * b) 8 | none => 0

/-- Write one byte. A part of a word leaves its poison (R418). -/
def nearPut (ex : Ex) (s : State) (c : NearAt × Byte) : State :=
  match c.1 with
  | .scratch off => updCush s ex.cush.cid (fun k => { k with scratch := memWrite k.scratch off c.2 })
  | .reg fid i b => updFibre s fid (fun f =>
      let m : Word := 0xFF#32 <<< (8 * b)
      { f with x := setAt 0 f.x i ((getX f i &&& ~~~m) ||| (c.2.setWidth 32 <<< (8 * b))) })

/-- A byte lies in a poisoned word (R418). -/
def nearBad (s : State) (ex : Ex) (p : NearAt) : Bool :=
  match p with
  | .scratch off => ((getCush s ex.cush.cid).map (·.bad)).any (fun l => l.contains (off / 4))
  | .reg fid i _ => (getFibre s fid).any (fun f => f.bad.contains i)

/-- The poison of the words that a write covers whole clears (R418). -/
def nearClear (ex : Ex) (s : State) (ps : List NearAt) : State :=
  ps.foldl (fun s p =>
    match p with
    | .scratch off =>
      if (List.range 4).all (fun j => ps.contains (.scratch (off / 4 * 4 + j))) then
        updCush s ex.cush.cid (fun k => { k with bad := k.bad.filter (fun w => w != off / 4) })
      else s
    | .reg fid i _ =>
      if (List.range 4).all (fun j => ps.contains (.reg fid i j)) then updFibre s fid (fun f => { f with bad := f.bad.filter (fun w => w != i) })
      else s) s

/-- Write the bytes of a near access. -/
def nearWrite (ex : Ex) (s : State) (ps : List NearAt) (bs : List Byte) : State :=
  nearClear ex ((ps.zip bs).foldl (nearPut ex) s) ps

/-- The near address of an operand (R243). -/
def nearAddr (base : DWord) (off : Int) : Nat := (((base.toNat % 2 ^ 32 : Nat) + off) % 2 ^ 32).toNat

/-- All the bytes of a near access, if every one is legal. -/
def nearBytes (s : State) (ex : Ex) (win : Bool) (a n : Nat) : Option (List NearAt) :=
  (List.range n).foldr (fun i acc => match nearByte s ex win (a + i), acc with
    | some p, some l => some (p :: l)
    | _, _ => none) (some [])

/-- The range check of near accesses (R390, 0x0110). -/
def nearViols (s : State) (ex : Ex) (win : Bool) (a n : Nat) : List Viol :=
  if (nearBytes s ex win a n).isSome then [] else [viol 0x110 0 (ofN64 a) win.toNat]

/-- Loaded bytes in four g registers (R79, R244 SIZE 6; log entry 12). -/
def setQuadG (c : Cushion) (i : Nat) (bs : List Byte) : Cushion :=
  { c with g := (List.range 4).foldl (fun g j => setAt 0 g (i + j) (BitVec.ofNat 32 (ofBytes ((bs.drop (4 * j)).take 4)))) c.g }

/-- Write the results of a load form: registers and the latch for 32 and 64 bits; four registers for 128, which is no result of
R83 (R83, R165, R244). -/
def writeLoaded (s : State) (ex : Ex) (h : Hdr) (d : Dst) (sz : MSize) (res : List (Fibre × List Byte)) : State :=
  match sz with
  | .w128 =>
    match d with
    | .x i => res.foldl (fun s r => updFibre s r.1.fid (fun f => setQuad f i.toNat r.2)) s
    | .g i =>
      match res.getLast? with
      | some r => updCush s ex.cush.cid (fun c => setQuadG c i.toNat r.2)
      | none => s
    | _ => s
  | _ => writeResult s ex h d (decide (sz = .w64)) (res.map (fun r => (r.1, loadValue sz r.2)))

/-- The header of a load: at SIZE 6 there is no result of R83, and WS is ignored (R81; log entry 12). -/
def loadHdr (h : Hdr) (sz : MSize) : Hdr := if sz = .w128 then { h with ws := false } else h

/-- LDS (R248). A poisoned word refuses the read (R418). -/
def execLds (h : Hdr) (sz : MSize) (win : Bool) (d : Dst) (base : Src) (imm : BitVec 24) (s : State) :
    Host.Outcome State Fault Refusal :=
  let n := sizeBytes sz
  let k := loadHdr h sz
  .next (frondExec (.lds h sz win d base imm) k { shape [sBase 1 6 base] (some (dData sz false d)) with held := true }
    (fun ex _ vs => nearViols s ex win (nearAddr (opv vs 0) imm.toInt) n)
    (fun ex lanes s =>
      let at_ (l : LaneIn) : List NearAt := (nearBytes s ex win (nearAddr (opv l.vals 0) imm.toInt) n).getD []
      let bad (l : LaneIn) : Bool := (at_ l).any (nearBad s ex)
      let acts := lanes.filter (·.act)
      let s' := (acts.filter bad).foldl (fun s _ => storePoison s ex.core 0 ex.car.id) s
      (writeLoaded s' ex k d sz ((acts.filter (fun l => !bad l)).map (fun l => (l.f, (at_ l).map (nearGet s ex)))), false)) s)

/-- STS (R248): slots in ascending order. -/
def execSts (h : Hdr) (sz : MSize) (win : Bool) (data base : Src) (imm : BitVec 24) (s : State) :
    Host.Outcome State Fault Refusal :=
  let n := sizeBytes sz
  .next (frondExec (.sts h sz win data base imm) h { shape [sData sz data, sBase 1 6 base] none with held := true }
    (fun ex _ vs => nearViols s ex win (nearAddr (opv vs 1) imm.toInt) n)
    (fun ex lanes s =>
      ((lanes.filter (·.act)).foldl (fun s l =>
        let ps := (nearBytes s ex win (nearAddr (opv l.vals 1) imm.toInt) n).getD []
        nearWrite ex s ps (storeBytes l.f sz data (opv l.vals 0))) s, false)) s)

/-- An atomic access must be aligned (R243, R390). -/
def alignViols (a : DWord) (n : Nat) : List Viol := if a.toNat % n = 0 then [] else [viol 0x10F 0 a n.log2]

/-- The compare value of CAS: DATA on entry (R253). -/
def casValue (ex : Ex) (f : Fibre) (sz : MSize) (d : Dst) : DWord :=
  match d with
  | .x i => if sizeWords sz = 2 then getX64 f i.toNat else zext (getX f i.toNat)
  | .g i => if sizeWords sz = 2 then pair64 (getD ex.cush.g i.toNat 0) (getD ex.cush.g (i.toNat + 1) 0) else zext (getD ex.cush.g i.toNat 0)
  | _ => 0

/-- The register that CAS compares with, beside its operand fields. -/
def casReads (op : Aop) (sz : MSize) (d : Dst) : List SrcU :=
  match op, d with
  | .cas, .x i => [sNoChan (sizeWords sz) 5 (.x i)]
  | _, _ => []

/-- A destination names a register. -/
def regDst : Dst → Bool
  | .x _ | .g _ => true
  | _ => false

/-- ATOMS (R249): each true slot's read-modify-write, in ascending order. The compare value of a CAS whose DATA names no register (class 11)
is in no rule: a free value (DESIGN CHOICE, log entry 37). -/
def execAtoms (h : Hdr) (op : Aop) (sz : MSize) (win : Bool) (d : Dst) (base : Src) (off : BitVec 10) (b : Src) (s : State) :
    Host.Outcome State Fault Refusal :=
  let n := sizeBytes sz
  .next (frondExec (.atoms h op sz win d base off b) h
    { shape [sNoChan (sizeWords sz) 2 b, sBase 1 6 base] (some (dData sz false d)) with held := true, more := casReads op sz d }
    (fun ex _ vs =>
      let a := nearAddr (opv vs 1) off.toInt
      alignViols (ofN64 a) n ++ nearViols s ex win a n)
    (fun ex lanes s =>
      let r := (lanes.filter (·.act)).foldl (fun (st : State × List (Fibre × DWord)) l =>
        let ps := (nearBytes st.1 ex win (nearAddr (opv l.vals 1) off.toInt) n).getD []
        if ps.any (nearBad st.1 ex) then (storePoison st.1 ex.core 0 ex.car.id, st.2)
        else
          let old := ofN64 (ofBytes (ps.map (nearGet st.1 ex)))
          let q := aopNew op n old (opv l.vals 0) (if regDst d then casValue ex l.f sz d else Config.freeValue st.1.oracle)
          let s : State := { st.1 with oracle := st.1.oracle + (if op = .cas ∧ !regDst d then 1 else 0) }
          (raiseFlags (nearWrite ex s ps (leBytes n q.1.toNat)) l.f q.2, st.2 ++ [(l.f, old)])) (s, [])
      (writeResult r.1 ex h d (decide (sz = .w64)) r.2, false)) s)

/-! ## The near-vault window -/

/-- The global address of an operand (R243). -/
def globalAddr (base : DWord) (off : Int) : DWord := addrAdd base off

/-- LDN and STN stay inside the program-visible part of the slice (R199, R390). -/
def vaultViols (s : State) (ex : Ex) (a : DWord) (n : Nat) : List Viol :=
  let nb := (nearBase s ex.car.asid).toNat
  if nb ≤ a.toNat ∧ a.toNat + n ≤ nb + 2 ^ 22 - recBytes s ex.core then [] else [viol 0x111 0 a 0]

def vaultPlace (s : State) (ex : Ex) (a : DWord) : Nat := vaultAddr ex.core (a.toNat - (nearBase s ex.car.asid).toNat)

/-- An LDN or STN of the frond would pass an access of its core or cushion to the same lines that has not reached the slice: the
instruction stands still until that one has (R226, R228). R38 lets no instruction wait with its window for an event outside the core, and gives
these two no park: that it stands still all the same, with its window, is the model's choice (log entry 38). -/
def vaultWaits (s : State) (h : Hdr) (base : Src) (off : Int) (n : Nat) : Bool :=
  match focusEx s with
  | none => false
  | some ex =>
    (ex.lanes.filter (guardOf h)).any (fun f =>
      let a := globalAddr (srcVal ex f [] (sBase 2 6 base)) off
      let lines := [vaultPlace s ex a / 64, (vaultPlace s ex a + n - 1) / 64]
      (vaultViols s ex a n).isEmpty &&
        (s.reqs.any (fun r => decide (r.src < 384) && (r.src == ex.core || r.fibre == f.fid || ownWrite f.fid ex.cush.cid r) && (opAddrs r.op).any (fun b => lines.contains (b / 64))) ||
          s.held.any (fun k => k.cush == ex.cush.cid && k.lines.any (fun l => lines.contains l))))

/-- LDN (R252). A poisoned unit refuses the read and touches the carpet (R418). -/
def execLdn (h : Hdr) (sz : MSize) (d : Dst) (base : Src) (imm : BitVec 24) (s : State) : Host.Outcome State Fault Refusal :=
  let n := sizeBytes sz
  let k := loadHdr h sz
  if vaultWaits s h base imm.toInt n then .next s
  else .next (frondExec (.ldn h sz d base imm) k (shape [sBase 2 6 base] (some (dData sz false d)))
    (fun ex _ vs => vaultViols s ex (globalAddr (opv vs 0) imm.toInt) n)
    (fun ex lanes s =>
      let at_ (l : LaneIn) : Nat := vaultPlace s ex (globalAddr (opv l.vals 0) imm.toInt)
      let bad (l : LaneIn) : Option (Nat × Nat) := poisonedAt s ((List.range n).map (fun i => at_ l + i))
      let acts := lanes.filter (·.act)
      let s' := (acts.filterMap bad).foldl (fun s p => poisonRead s p 0 (some ex.car.id) (some ex.core)) s
      (writeLoaded s' ex k d sz ((acts.filter (fun l => (bad l).isNone)).map (fun l => (l.f, physBytes s (at_ l) n))), false)) s)

/-- STN (R252). -/
def execStn (h : Hdr) (sz : MSize) (data base : Src) (imm : BitVec 24) (s : State) : Host.Outcome State Fault Refusal :=
  let n := sizeBytes sz
  if vaultWaits s h base imm.toInt n then .next s
  else .next (frondExec (.stn h sz data base imm) h (shape [sData sz data, sBase 2 6 base] none)
    (fun ex _ vs => vaultViols s ex (globalAddr (opv vs 1) imm.toInt) n)
    (fun ex lanes s =>
      ((lanes.filter (·.act)).foldl (fun s l =>
        homeWrite s ex.core (cellsAt (vaultPlace s ex (globalAddr (opv l.vals 1) imm.toInt)) (storeBytes l.f sz data (opv l.vals 0)))) s,
        false)) s)

end Sys2Proof.Machine
end

