-- ==== Sys2Proof/Machine/Global.lean ====
section
/-! DEFINITION. Global memory instructions: LD, ST, ATOM, RED, the crust instructions, FENCE, PREF, CLINE, MIGRATE (R250 to
R263), and JOIN and SPAWN, which name an address (R179, R181). -/

namespace Sys2Proof.Machine

/-! ## The frame of a translated access (R245, R397) -/

abbrev Xs := List (DWord × Nat × Xlat)

/-- Each true slot's access in ascending order: a miss parks the fibre at the instruction, a failed check ends the carpet,
and the rest perform. The run ends when a member has left its frond. -/
def accessLanes (ex : Ex) (lanes : List LaneIn) (acc : LaneIn → Access) (perform : LaneIn → Xs → State → State) (s : State) : Body :=
  let acts := lanes.filter (·.act)
  let s := acts.foldl (fun s l =>
    match xlate s ex.core ex.car.asid (acc l) with
    | (s, .miss va) => parkMiss s ex l.f (acc l) va
    | (s, .fail e) => failFibre s l.f ex.pc e
    | (s, .ok xs) => perform l xs s) s
  (pump s, acts.any (fun l => ((getFrond s ex.frond.fr).map (fun f => !f.members.contains l.f.fid)).getD true))

def access (k : AccKind) (va : DWord) (n : Nat) (r w : Bool) : Access := { kind := k, va, n, r, w, x := false, crust := none }

/-- Park for room in the store counter; the instruction resumes at itself (R39). -/
def parkStoreRoom (s : State) (ex : Ex) (f : Fibre) : State :=
  parkFibre s ex.frond.fr f { at_ := some ex.pc, resume := ex.pc, wait := .storeRoom, join := 1, dstG := 0, dstK := 0 } id

/-- Park for one reply and resume at the next instruction. -/
def parkReply (s : State) (ex : Ex) (f : Fibre) (dstG : BitVec 16) (after : State → State) : State :=
  parkFibre s ex.frond.fr f { at_ := some ex.pc, resume := ex.pc + 8#64, wait := .reply, join := 1, dstG, dstK := 0 } after

/-- Granules of an x destination, none when only the latch is written. -/
def dstGran (ws : Bool) (d : Dst) (n : Nat) : BitVec 16 :=
  match d, ws with
  | .x i, false => granulesOf i.toNat n
  | _, _ => 0

def addLoad (s : State) (k : LoadKind) (f : Fibre) (core : Nat) (ws : Bool) (d : Dst) (sz : MSize) (acq : Option Scope)
    (places : List Place) : State × Nat :=
  let p := fresh s
  ({ p.1 with loads := p.1.loads ++ [{ id := p.2, kind := k, fid := f.fid, core, d := if ws then .none else d, size := sz, acq, places,
                                        bytes := List.replicate places.length none, fills := [] }] }, p.2)

/-- The scope at which the work of a fibre's release or fence is done. Once a fibre of its cushion has gone away, the acquires made there meet what
it releases at cushion and core scope, which takes the work of package scope (R225, R229, R233; DEDUCED, log entry 42). -/
def workScope (s : State) (f : Fibre) (sc : Scope) : Scope := effScope (f.away || roamedOf s f.cush) sc

/-- A scope that makes a marked write a held release (R246). -/
def relScope (s : State) (rel : Bool) (f : Fibre) (sc : Scope) : Option Scope :=
  if rel then (match workScope s f sc with | .cushion => none | s => some s) else none

/-- LD (R250). -/
def execLd (h : Hdr) (sz : MSize) (acq : Bool) (sc : Scope) (d : Dst) (base : Src) (imm : BitVec 24) (s : State) :
    Host.Outcome State Fault Refusal :=
  let h' := loadHdr h sz
  .next (frondExec (.ld h sz acq sc d base imm) h' (shape [sBase 2 6 base] (some (dData sz true d))) (fun _ _ _ => [])
    (fun ex lanes => accessLanes ex lanes
      (fun l => access .load (globalAddr (opv l.vals 0) imm.toInt) (sizeBytes sz) true false)
      (fun l xs s =>
        let ps := placesOf s xs
        let w := whoOf ex l.f (globalAddr (opv l.vals 0) imm.toInt)
        parkReply s ex l.f (dstGran h'.ws d (sizeWords sz)) (fun s =>
          let q := addLoad s .ld l.f ex.core h'.ws d sz (if acq then some (effScope l.f.away sc) else none) ps
          if mustHold q.1 w (placeLines ps) true then holdAccess q.1 w none 0 (placeLines ps) (.load q.2)
          else startLoad q.1 w q.2))) s)

/-- Perform or hold a counted write (R246, R251). -/
def storeOrHold (s : State) (w : Who) (rel : Option Scope) (ps : List Place) (bytes : List Byte) : State :=
  let lines := placeLines ps
  let s := metaDrop s w.core ps
  if rel.isSome || mustHold s w lines false then holdAccess (countUp s w.fid w.cush 1) w rel 1 lines (.store ps bytes)
  else
    let p := fresh s
    let r := performStore p.1 w p.2 false ps bytes
    if r.2 then countUp r.1 w.fid w.cush 1 else r.1

/-- ST (R251). -/
def execSt (h : Hdr) (sz : MSize) (rel : Bool) (sc : Scope) (data base : Src) (imm : BitVec 24) (s : State) :
    Host.Outcome State Fault Refusal :=
  .next (frondExec (.st h sz rel sc data base imm) h (shape [sData sz data, sBase 2 6 base] none) (fun _ _ _ => [])
    (fun ex lanes => accessLanes ex lanes
      (fun l => access .store (globalAddr (opv l.vals 1) imm.toInt) (sizeBytes sz) false true)
      (fun l xs s =>
        let va := globalAddr (opv l.vals 1) imm.toInt
        if 0xFFFF ≤ l.f.stcnt then parkStoreRoom s ex l.f
        else storeOrHold s (whoOf ex l.f va) (relScope s rel l.f sc) (placesOf s xs) (storeBytes l.f sz data (opv l.vals 0)))) s)

def ordAcq : Ord3 → Bool
  | .plain => false
  | _ => true

/-- Send an atomic or JOIN to where its word lives, or hold it (R246, R254). A JOIN too has the core's own dirty
words of the line written back first, as R254 says of ATOM and R181 of nothing, since it reads at the home what the core has written (R228; DEDUCED,
log entry 34). -/
def sendAtHome (s : State) (w : Who) (rel : Option Scope) (ps : List Place) (op : OpTo → Nat → HomeOp) (lop : LinkOp) (id : Nat) : State :=
  match ps with
  | .mem _ a :: _ =>
    let r := reqOf s w (homeDie a) (op (.load id) a)
    let isRmw := match r.op with | .rmw .. => true | _ => false
    let s := if isRmw then metaDrop s w.core ps else s
    if rel.isSome || mustHold s w (placeLines ps) (!isRmw) then holdAccess s w rel 0 (placeLines ps) (.send r)
    else
      let s := l1Flush s w.core (a / 64)
      pushReq s (reqOf s w (homeDie a) (op (.load id) a))
  | .remote pkg kind pa :: _ =>
    let r := reqOf s w 0 (op (.load id) pa)
    let isRmw := match r.op with | .rmw .. => true | _ => false
    if rel.isSome || mustHold s w (placeLines ps) (!isRmw) then holdAccess s w rel 0 (placeLines ps) (.far r pkg kind pa lop)
    else sendRemote s r pkg kind pa lop
  | _ => s

/-- The common part of ATOM and RED (R254, R255). -/
def atomExec (i : Instr) (h : Hdr) (k : LoadKind) (op : Aop) (sz : MSize) (acq rel : Bool) (sc : Scope) (d : Option Dst) (base : Src)
    (off : BitVec 10) (b : Src) (s : State) : State :=
  let n := sizeBytes sz
  let dst := d.map (dData sz true)
  frondExec i h { shape [sNoChan (sizeWords sz) 2 b, sBase 2 6 base] dst with more := casReads op sz (d.getD .none) }
    (fun _ _ vs => alignViols (globalAddr (opv vs 1) off.toInt) n)
    (fun ex lanes => accessLanes ex lanes
      (fun l => access .atomic (globalAddr (opv l.vals 1) off.toInt) n true true)
      (fun l xs s =>
        let ps := placesOf s xs
        let w := whoOf ex l.f (globalAddr (opv l.vals 1) off.toInt)
        let dd := d.getD .none
        parkReply s ex l.f (dstGran h.ws dd (sizeWords sz)) (fun s =>
          let q := addLoad s k l.f ex.core h.ws dd sz (if acq then some (effScope l.f.away sc) else none) ps
          let bv := opv l.vals 0
          let cmp := casValue ex l.f sz dd
          sendAtHome q.1 w (relScope q.1 rel l.f sc) ps (fun t a => .rmw t op a n bv cmp) (.rmw op n bv cmp) q.2))) s

/-- ATOM (R254). -/
def execAtom (h : Hdr) (op : Aop) (sz : MSize) (o : Ord3) (sc : Scope) (d : Dst) (base : Src) (off : BitVec 10) (b : Src) (s : State) :
    Host.Outcome State Fault Refusal :=
  .next (atomExec (.atom h op sz o sc d base off b) h .atom op sz (ordAcq o) (ordAcq o) sc (some d) base off b s)

/-- RED (R255). -/
def execRed (h : Hdr) (op : Aop) (sz : MSize) (rel : Bool) (sc : Scope) (base : Src) (off : BitVec 10) (b : Src) (s : State) :
    Host.Outcome State Fault Refusal :=
  .next (atomExec (.red h op sz rel sc base off b) h .red op sz false rel sc none base off b s)

/-! ## Crust instructions -/

def crustAccess (sz : MSize) (ldge : Bool) (va : DWord) : Access :=
  { kind := .crust, va, n := sizeBytes sz, r := ldge, w := !ldge, x := false, crust := some (sizeCode sz, ldge) }

/-- The cell type of a translated crust access. -/
def xsCtype (xs : Xs) : Nat := ((xs.head?).map (fun p => leafCtype p.2.2.leaf)).getD 0

/-- LJOIN (R257). -/
def execLjoin (h : Hdr) (sz : MSize) (rel : Bool) (sc : Scope) (base : Src) (off : BitVec 10) (b : Src) (s : State) :
    Host.Outcome State Fault Refusal :=
  .next (frondExec (.ljoin h sz rel sc base off b) h (shape [sNoChan (sizeWords sz) 2 b, sBase 2 6 base] none)
    (fun _ _ vs => alignViols (globalAddr (opv vs 1) off.toInt) (sizeBytes sz))
    (fun ex lanes => accessLanes ex lanes (fun l => crustAccess sz false (globalAddr (opv l.vals 1) off.toInt))
      (fun l xs s =>
        if 0xFFFF ≤ l.f.stcnt then parkStoreRoom s ex l.f
        else
          let va := globalAddr (opv l.vals 1) off.toInt
          let w := whoOf ex l.f va
          let lines := placeLines (placesOf s xs)
          let p := fresh (countUp s l.f.fid ex.cush.cid 1)
          let s := p.1
          let r := reqOf s w (dieOf ex.core) (.ljoin (.store l.f.fid ex.cush.cid p.2) ex.car.asid va (xsCtype xs) (opv l.vals 0))
          let rs := relScope s rel l.f sc
          if rs.isSome || mustHold s w lines false then holdAccess s w rs 1 lines (.send r) else pushReq s r)) s)

/-- LDGE (R258): it parks in every case. It gives no result of R83, so that WS says nothing (R81, R244). -/
def execLdge (h : Hdr) (sz : MSize) (sc : Scope) (d : Dst) (base : Src) (off : BitVec 10) (b : Src) (s : State) :
    Host.Outcome State Fault Refusal :=
  .next (frondExec (.ldge h sz sc d base off b) { h with ws := false } (shape [sNoChan (sizeWords sz) 2 b, sBase 2 6 base] (some (dData sz true d)))
    (fun _ _ vs => alignViols (globalAddr (opv vs 1) off.toInt) (sizeBytes sz))
    (fun ex lanes => accessLanes ex lanes (fun l => crustAccess sz true (globalAddr (opv l.vals 1) off.toInt))
      (fun l xs s =>
        let va := globalAddr (opv l.vals 1) off.toInt
        let w := whoOf ex l.f va
        let ps := placesOf s xs
        parkReply s ex l.f (dstGran false d (sizeWords sz)) (fun s =>
          let q := addLoad s .ldge l.f ex.core false d sz (some (effScope l.f.away sc)) ps
          let r := reqOf q.1 w (dieOf ex.core) (.ldge q.2 ex.car.asid va (xsCtype xs) (opv l.vals 0))
          if mustHold q.1 w (placeLines ps) true then holdAccess q.1 w none 0 (placeLines ps) (.send r) else pushReq q.1 r))) s)

/-- LSYNC (R241, R259): at cushion and core scope it completes at once. That of an away fibre, whose events of these scopes R233 performs at package
scope, is one of package scope and parks, where R39 names no such park (DESIGN CHOICE, log entry 42). -/
def execLsync (h : Hdr) (sc : Scope) (s : State) : Host.Outcome State Fault Refusal :=
  .next (frondExec (.lsync h sc) h (shape [] none) (fun _ _ _ => [])
    (fun ex lanes s =>
      let acts := (lanes.filter (·.act)).filter (fun l => scopeWide (effScope l.f.away sc))
      let s := acts.foldl (fun s l => parkFibre s ex.frond.fr l.f
        { at_ := some ex.pc, resume := ex.pc + 8#64, wait := .lsyncDrain (effScope l.f.away sc), join := 1, dstG := 0, dstK := 0 } id) s
      (pump s, !acts.isEmpty)) s)

/-! ## Fences and lines -/

/-- FENCE of one fibre (R230, R260): the work it can do at once, else a park. In a cushion of which a fibre has gone away it does at cushion and core
scope the work of package scope, where R260 asks for none at cushion scope (R230, R233; DEDUCED, log entry 42). -/
def fenceOne (ex : Ex) (o : Ord3) (sc : Scope) (s : State) (l : LaneIn) : State :=
  let sc := workScope s l.f sc
  if !ordAcq o then s
  else if sc = .cushion then acquireWork s ex.core l.f.fid sc
  else
    let clear := l.f.stcnt = 0 ∧ retiredOf s ex.cush.cid = 0 ∧ ¬ storesBefore s ex.cush.cid s.nextId
    let park (s : State) (b : Option Nat) : State := parkFibre s ex.frond.fr l.f
      { at_ := some ex.pc, resume := ex.pc + 8#64, wait := .fence sc b s.nextId, join := 1, dstG := 0, dstK := 0 } id
    if ¬ clear then park s none
    else if !scopeWide sc then acquireWork s ex.core l.f.fid sc
    else
      let s := l1WriteBackAll s ex.core
      let b := s.nextId
      if wbDone s ex.core b then l1Invalidate s ex.core else park s (some b)

/-- FENCE (R260). -/
def execFence (h : Hdr) (o : Ord3) (sc : Scope) (s : State) : Host.Outcome State Fault Refusal :=
  .next (frondExec (.fence h o sc) h (shape [] none) (fun _ _ _ => [])
    (fun ex lanes s =>
      let acts := lanes.filter (·.act)
      let s := acts.foldl (fenceOne ex o sc) s
      (s, acts.any (fun l => ((getFrond s ex.frond.fr).map (fun f => !f.members.contains l.f.fid)).getD true))) s)

/-- PREF of one fibre (R261): any failure makes it do nothing, and so does an access to the line that a load would wait behind (R246, R233): a
fill asked for now would bring what that load must not return. -/
def prefOne (ex : Ex) (l2 : Bool) (off : BitVec 10) (s : State) (l : LaneIn) : State :=
  let va := globalAddr (opv l.vals 0) off.toInt
  match xlate s ex.core ex.car.asid (access .joinMigrate va 1 false false) with
  | (s', .ok xs) =>
    match placesOf s' xs with
    | .mem cpol a :: _ =>
      let w := whoOf ex l.f va
      if bypasses cpol || mustHold s' w [a / 64] true then s'
      else if l2 then (if isVault a then s' else pushReq s' (reqOf s' w (homeDie a) (.prefL2 a)))
      else
        let line := a / 64
        let mask := ~~~(match l1Get s' ex.core line with | some x => x.valid | none => 0)
        if mask = 0 then s'
        else
          let q := addLoad s' .pref { l.f with fid := 0 } ex.core true .none .w32 none []
          let s := updLoad q.1 q.2 (fun k => { k with fills := [(line, mask, decide (cpol = 2))], stamp := q.2 })
          let bytes := ((List.range 64).filter (fun i => mask.getLsbD (i / 4))).map (fun i => (64 * line + i, 64 * line + i))
          pushReq s (reqOf s w (homeDie a) (.read (.load q.2) bytes))
    | _ => s'
  | (s', _) => s'

/-- PREF (R261). -/
def execPref (h : Hdr) (l2 : Bool) (base : Src) (off : BitVec 10) (s : State) : Host.Outcome State Fault Refusal :=
  .next (frondExec (.pref h l2 base off) h (shape [sBase 2 6 base] none) (fun _ _ _ => [])
    (fun ex lanes s => ((lanes.filter (·.act)).foldl (prefOne ex l2 off) s, false)) s)

/-- CLINE on the line of an address (R262). Fills of the line still due bring nothing into it. -/
def clineAt (ex : Ex) (f : Fibre) (op : ClineOp) (a : Nat) (va : DWord) (s : State) : State :=
  let s := if op = .wb then s else excludeFills s ex.core (lineWords (a / 64))
  match l1Get s ex.core (a / 64) with
  | none => s
  | some x =>
    let send (s : State) : State :=
      let id := s.nextId
      let s := pushReq (countUp s f.fid ex.cush.cid 1)
        { reqOf s (whoOf ex f va) (homeDie a) (.write (.store f.fid ex.cush.cid s.nextId) (dirtyCells x)) with bad := x.bad &&& x.dirty != 0 }
      { s with wbs := s.wbs ++ [(ex.core, id)] }
    let put (s : State) (v : BitVec 16) : State :=
      if v = 0 then l1Drop s ex.core (a / 64)
      else { s with l1 := updIf (fun (l : Line) => l.core == ex.core && l.line == a / 64) (fun l => { l with valid := v, dirty := l.dirty &&& v }) s.l1 }
    let clean (s : State) : State :=
      { s with l1 := updIf (fun (l : Line) => l.core == ex.core && l.line == a / 64) (cleanedAt s.nextId) s.l1 }
    match op with
    | .inv => put s x.dirty
    | .wb => if x.dirty = 0 then s else if 0xFFFF ≤ f.stcnt then parkStoreRoom s ex f else clean (send s)
    | .wbinv =>
      if x.dirty = 0 then put s 0 else if 0xFFFF ≤ f.stcnt then parkStoreRoom s ex f else put (send s) 0

/-- CLINE (R262): at cushion and core scope it does nothing. -/
def execCline (h : Hdr) (op : ClineOp) (sc : Scope) (base : Src) (off : BitVec 10) (s : State) : Host.Outcome State Fault Refusal :=
  .next (frondExec (.cline h op sc base off) h (shape [sBase 2 6 base] none) (fun _ _ _ => [])
    (fun ex lanes => accessLanes ex (lanes.filter (fun l => scopeWide (effScope l.f.away sc)))
      (fun l => access .store (globalAddr (opv l.vals 0) off.toInt) 1 true false)
      (fun l xs s =>
        match placesOf s xs with
        | .mem cpol a :: _ => if bypasses cpol then s else clineAt ex l.f op a (globalAddr (opv l.vals 0) off.toInt) s
        | _ => s)) s)

/-! ## Addresses that name a die: MIGRATE, SPAWN; JOIN -/

/-- The die that homes a byte, for a core (R203). -/
def dieOfPlace (s : State) (core : Nat) : Place → Option Nat
  | .mem _ a => some (homeDie a)
  | .crust _ => some (dieOf core)
  | .remote pkg _ _ => (routePort s core pkg).map (· / 2)

/-- A fibre that has parked at MIGRATE goes home, or it is away and asks for a landing slot (R49, R263). A barrier does not wait for a fibre
that is away (R182). -/
def sendMigrant (ex : Ex) (target : Nat) (fid : Nat) (s : State) : State :=
  match getFibre s fid with
  | none => s
  | some f =>
    if target = dieOf ex.cush.core then
      let s := if f.away then flagsHome s f else s
      updFibre s fid (fun f => { f with affinity := 0, away := false, awFlags := 0, awFctl := 0 })
    else
      let s := updFibre s fid (fun f => { f with affinity := 3, tgtDie := target, away := true })
      let s := updCush s ex.cush.cid (fun c => { c with roamed := true })
      checkBars { s with landing := s.landing ++ [{ fid, die := target }] } ex.cush.cid

/-- MIGRATE (R263). -/
def execMigrate (h : Hdr) (base : Src) (off : BitVec 10) (s : State) : Host.Outcome State Fault Refusal :=
  .next (frondExec (.migrate h base off) h (shape [sBase 2 6 base] none) (fun _ _ _ => [])
    (fun ex lanes => accessLanes ex lanes
      (fun l => access .joinMigrate (globalAddr (opv l.vals 0) off.toInt) 1 false false)
      (fun l xs s =>
        match (placesOf s xs).head? with
        | none => s
        | some p =>
          match dieOfPlace s ex.core p with
          | none => fatalFibre s { l.f with expItem := none } 0x306 ex.pc (globalAddr (opv l.vals 0) off.toInt)
              (match p with | .remote pkg _ _ => ofN64 pkg | _ => 0) false
          | some d => parkFibre s ex.frond.fr l.f
              { at_ := some ex.pc, resume := ex.pc + 8#64, wait := .none, join := 0, dstG := 0, dstK := 0 }
              (sendMigrant ex d l.f.fid))) s)

/-- JOIN (R181, R389): an acquire at package scope follows the release. -/
def execJoin (h : Hdr) (a : Src) (s : State) : Host.Outcome State Fault Refusal :=
  .next (frondExec (.join h a) h (shape [s64 1 a] none)
    (fun _ _ vs => if getF (opv vs 0) 0 2 = 0 then [] else [viol 0x10F 0 (opv vs 0) 2])
    (fun ex lanes => accessLanes ex lanes (fun l => access .joinMigrate (opv l.vals 0) 4 true false)
      (fun l xs s =>
        let ps := placesOf s xs
        let w := whoOf ex l.f (opv l.vals 0)
        parkReply s ex l.f 0 (fun s =>
          let q := addLoad s .join l.f ex.core true .none .w32 (some .package) ps
          sendAtHome q.1 w none ps (fun t a => .join t a) .joinZero q.2))) s)

/-- The die of a place, where the spec leaves none open. -/
def spawnDieOf (s : State) (ex : Ex) (va : DWord) (xs : Xs) : Nat :=
  ((placesOf s xs).head?.bind (dieOfPlace s ex.core)).getD (Config.spawnDie va % 8)

/-- The target die of SPAWN.home (R179, R203): SPAWN never parks, so the walk is made at once, also where the die's walker is busy. Where the
address has no translation the die is left open (log entry 3), as it is where the translated target is refused (R202), and where the walk reads a
poisoned entry, which touches the carpet (R418). -/
def spawnTarget (s : State) (ex : Ex) (va : DWord) : State × Nat :=
  let acc := access .joinMigrate va 1 false false
  let open_ := Config.spawnDie va % 8
  let touch (s : State) (p : Nat × Nat) : State := poisonRead s p 0 (some ex.car.id) (some ex.core)
  match xlateWalk s (dieOf ex.core) ex.car.asid acc with
  | (s, .ok xs) => (s, spawnDieOf s ex va xs)
  | (s, .poisoned p) => (touch s p, open_)
  | (s, .busy _) =>
    match walkTable s ex.car.asid va with
    | .ok x => (s, if (leavesCheck s acc [(va, 1, x, x.level)]).isNone then spawnDieOf s ex va [(va, 1, x)] else open_)
    | .poisoned p => (touch s p, open_)
    | _ => (s, open_)
  | (s, _) => (s, open_)

/-- One slot's SPAWN (R179): a task record, or E false when there is no room. -/
def spawnOne (ex : Ex) (e : BitVec 3) (home : Bool) (target : DWord) (s : State) (l : LaneIn) : State :=
  let arg := opv l.vals 0
  let win := (fbudget ex.car target).getD 1
  if sporeRoom s ex.core ex.car.asid 64 then
    let t := if home then spawnTarget s ex arg else (s, dieOf ex.core)
    let p := fresh t.1
    let q := (makeRoom p.1 ex.core ex.car.asid 64 p.2).getD p.1
    let r := newFibre p.2 ex.cush 0 win target s.clock ex.car.pkt.prio
    let r := { r with task := true, frame := arg, lane := 0, core := ex.core, affinity := if home then 2 else 1, tgtDie := t.2 }
    updFibre { q with fibres := q.fibres ++ [r] } l.f.fid (fun f => setP f e.toNat true)
  else updFibre s l.f.fid (fun f => setP f e.toNat false)

/-- SPAWN (R179, R389): the target must be in the function table. -/
def execSpawn (h : Hdr) (disp : BitVec 24) (a : Src) (e : BitVec 3) (home : Bool) (s : State) : Host.Outcome State Fault Refusal :=
  .next (frondExec (.spawn h disp a e home) h (shape [s64 1 a] none)
    (fun ex _ _ => if (fbudget ex.car (relTarget ex.pc disp)).isSome then [] else [viol 0x10D 0 (relTarget ex.pc disp) 0])
    (fun ex lanes s => ((lanes.filter (·.act)).foldl (spawnOne ex e home (relTarget ex.pc disp)) s, false)) s)

end Sys2Proof.Machine
end

