-- ==== Sys2Proof/Machine/Home.lean ====
section
/-! DEFINITION. Requests at their homes (R26, R208, R347), replies and acknowledgements (R44, R45, R207), and the end of
translation walks (R215, R216, R372). -/

namespace Sys2Proof.Machine

/-! ## Rhizoid reachability (R26, R420, R421) -/

/-- STATE of a connection-table entry; the circuits stand open once reset is released (R24). -/
def connState (s : State) (i : Nat) : Nat := if s.running then ctlF s (offCONN i) 62 2 else 0
def connSDie (s : State) (i : Nat) : Nat := ctlF s (offCONN i) 1 3
def connDDie (s : State) (i : Nat) : Nat := ctlF s (offCONN i) 7 3

/-- An open circuit leads from die a to die b. -/
def circuitOpen (s : State) (a b : Nat) : Bool :=
  (List.range 256).any (fun i => connState s i == 2 && connSDie s i == a && connDDie s i == b)

/-- The relay die by which traffic from a to b travels when no circuit is open between them (R420). -/
def relayDie (s : State) (a b : Nat) : Option Nat :=
  (List.range 8).find? (fun c => c != a && c != b && circuitOpen s a c && circuitOpen s c b)

/-- Die b can be reached from die a. -/
def diesConnected (s : State) (a b : Nat) : Bool := a == b || circuitOpen s a b || (relayDie s a b).isSome

/-- Requests between dies a and b are made: their traffic has a way there and back (R421). -/
def diesTalk (s : State) (a b : Nat) : Bool := diesConnected s a b && diesConnected s b a

/-! ## Who an answer is for -/

def getEng (s : State) (id : Nat) : Option EngOp := s.engines.find? (fun o => o.id == id)

/-- The cushion with a matrix operation. -/
def matCush (s : State) (op : Nat) : Option (Cushion × MatOp) :=
  s.cushions.findSome? (fun c => (c.mq.find? (fun o => o.id == op)).map (fun o => (c, o)))

/-- Core and carpet of a pending load. -/
def loadOwner (s : State) (op : Nat) : Option (Nat × Nat) :=
  (s.loads.find? (fun l => l.id == op)).bind (fun l => (getFibre s l.fid).map (fun f => (l.core, f.carpet)))

def engOwner (s : State) (op : Nat) : Option (Nat × Nat) := (getEng s op).map (fun o => (o.core, o.carpet))
def matOwner (s : State) (op : Nat) : Option (Nat × Nat) := (matCush s op).map (fun p => (p.1.core, p.1.carpet))
def fibreOwner (s : State) (fid : Nat) : Option (Nat × Nat) := (getFibre s fid).map (fun f => (f.core, f.carpet))

/-- Who a reply is for. -/
def replyOwner (s : State) (w : Payload) : Option (Nat × Nat) :=
  match w with
  | .bytes (.load op) _ | .old op _ _ | .done op | .value op _ => loadOwner s op
  | .bytes (.engine op _) _ => engOwner s op
  | .bytes (.matrix op _) _ => matOwner s op
  | .bytes (.walker fid) _ => fibreOwner s fid
  | .bytes (.link ..) _ => none
  | .absorbed y _ => (s.syncs.find? (fun z => z.id == y)).bind (fun z => fibreOwner s z.fid)

/-- Who an acknowledgement is for; write-backs belong to no carpet. -/
def ackOwner (s : State) (t : AckTo) : Option (Nat × Nat) :=
  match t with
  | .store fid cush _ | .tokenUp _ fid cush =>
    match fibreOwner s fid with
    | some o => some o
    | none => (getCush s cush).map (fun c => (c.core, c.carpet))
  | .engine op _ => engOwner s op
  | .matrix op => matOwner s op
  | _ => none

/-- An answer of a die reaches the core it is for; between disconnected dies it waits (R421). -/
def wayBack (s : State) (die : Nat) (owner : Option (Nat × Nat)) : Bool :=
  decide (8 ≤ die) || (match owner with | some p => diesConnected s die (dieOf p.1) | none => true)

def replyWay (s : State) (r : Reply) : Bool := wayBack s r.die (replyOwner s r.what)

def ackWay (s : State) (a : Ack) : Bool :=
  match a.tgt with
  | .writeBack c => diesConnected s a.die (dieOf c)
  | t => wayBack s a.die (ackOwner s t)

/-! ## The tracker of a home (R347) -/

/-- Accepted requests of a die that have no reply yet, LSYNC requests among them; a reply that the L1 or another package gives is none of them. -/
def trackerUse (s : State) (die : Nat) : Nat :=
  (s.replies.filter (fun r => r.die == die)).length + (s.acks.filter (fun a => a.die == die)).length +
    (s.joins.filter (fun j => j.die == die)).length + (s.ldges.filter (fun l => l.die == die)).length +
    (s.reqs.filter (fun r => r.die == die && r.taken)).length + (s.syncs.filter (fun y => y.asked.any (fun a => a.1 == die))).length

/-- Tickets outstanding at a die, lowest first. -/
def ticketsAt (s : State) (die : Nat) : List Nat :=
  sortBy (fun a b => decide (a < b)) ((s.reqs.filter (fun r => r.die == die)).filterMap (·.ticket))

/-- A request finds room: a ticket's turn counts the tickets below it, a request without one counts them all. -/
def trackerRoom (s : State) (r : Req) : Bool :=
  let ahead := match r.ticket with
    | some t => ((ticketsAt s r.die).filter (fun u => decide (u < t))).length
    | none => (ticketsAt s r.die).length
  decide (trackerUse s r.die + ahead < 1024)

/-- A refused request: it is retried after 64 cycles, and a second refusal gives it a ticket (R347). -/
def refuseReq (s : State) (r : Req) : State :=
  let ticket := match r.ticket with
    | some t => some t
    | none => if r.refused = 0 then none else some s.nextTicket
  let rs := updIf (fun (q : Req) => q.id == r.id)
    (fun q => { q with refused := q.refused + 1, ticket := ticket, retryAt := s.clock + 64 }) s.reqs
  { s with reqs := rs, nextTicket := if r.ticket = none ∧ ticket ≠ none then s.nextTicket + 1 else s.nextTicket }

/-! ## What a home does with a request -/

/-- A fault that a home finds in a request of a carpet (R399, R403). -/
def failReq (s : State) (r : Req) (syn : Nat) (w4 : DWord) : State :=
  fatalReq s r syn w4 true

def isLinkSrc (tgt : ReadTo) : Option (Nat × Nat) := match tgt with | .link p t => some (p, t) | _ => none

/-- Consumer code of 0x0341: 0 fibre or walker, 1 engine, 3 remote package (R418). -/
def consumerOf : ReadTo → Nat
  | .load _ | .walker _ => 0
  | .engine _ _ | .matrix _ _ => 1
  | .link _ _ => 3

def opConsumer : OpTo → Nat
  | .load _ => 0
  | .link _ _ => 3

/-- A read or read-modify-write met poison: the record, the carpet touched, and a refusal to another package (R418). -/
def refusePoison (s : State) (r : Req) (p : Nat × Nat) (consumer : Nat) (link : Option (Nat × Nat)) : State :=
  let s := poisonRead s p consumer (if r.carpet = 0 then none else some r.carpet) (if r.carpet = 0 then none else some (r.src % 384))
  match link with
  | some (pkg, tag) => linkSend s pkg (.refusal tag)
  | none => s

/-- The reply is due to a PREF (R261). -/
def isPref (s : State) : ReadTo → Bool
  | .load op => s.loads.any (fun l => l.id == op && l.kind == .pref)
  | _ => false

/-- The unit that a write-back with a poisoned word has written at its home is poisoned there (R418). DESIGN CHOICE (log entry 40): the spec does not
say what becomes of the poison of a word that is written back. -/
def spreadPoison (s : State) (r : Req) : State :=
  match r.bad, r.op with
  | true, .write _ ((a, _) :: _) => { s with poison := addNew (a / 64, if isVault a then 1 else 2) s.poison }
  | _, _ => s

/-- The cores to which fibres of the cushion of a store have gone since it was sent (R233). -/
def movedCores (s : State) (r : Req) : List Nat :=
  match opStore r.op with
  | some (cush, _) => ((s.fibres.filter (fun f => f.cush == cush)).map (·.core)).dedup.filter (fun c => c != r.src)
  | none => []

/-- The core whose engine has read at the homes, past its L1 (R236). -/
def readPast (tgt : ReadTo) (r : Req) : List Nat :=
  match tgt with
  | .engine _ _ | .matrix _ _ => [r.src % 384]
  | _ => []

/-- Apply an accepted request (R208, R210, R226, R253, R254, R257, R258, R403). -/
def applyReq (s : State) (r : Req) : State :=
  let touch (w : Bool) (s : State) (as : List Nat) := l2TouchAll (srcDie r.src) (srcSlice r.src) w s as
  match r.op with
  | .read tgt bytes =>
    let as := bytes.map (·.1)
    match poisonedAt s as with
    | some p =>
      if isPref s tgt then { s with loads := s.loads.filter (fun l => tgt != .load l.id) }
      else refusePoison s r p (consumerOf tgt) (isLinkSrc tgt)
    | none =>
      let s := touch false ((readPast tgt r).foldl (l1Forget as) s) as
      match tgt with
      | .link pkg tag => linkReply s pkg tag (as.map (physRead s))
      | _ => addReply s r.die (.bytes tgt (bytes.map (fun b => (b.2, physRead s b.1)))) r.sent
  | .write tgt cells =>
    let s := (movedCores s r).foldl (l1Forget (cells.map (·.1))) (spreadPoison (homeWrite s r.src cells) r)
    match tgt with
    | .link pkg tag => linkReply s pkg tag []
    | _ => { s with acks := s.acks ++ [{ id := r.id, die := r.die, tgt, sent := r.sent }] }
  | .rmw tgt aop a n b cmp =>
    let as := (List.range n).map (fun i => a + i)
    match poisonedAt s as with
    | some p => refusePoison s r p (opConsumer tgt) (match tgt with | .link pkg tag => some (pkg, tag) | _ => none)
    | none =>
      let old := ofN64 (physWord s a n)
      let v := aopNew aop n old b cmp
      let s := homeWrite s r.src (cellsAt a (leBytes n v.1.toNat))
      match tgt with
      | .load op => addReply s r.die (.old op old v.2) r.sent
      | .link pkg tag => linkReply s pkg tag (leBytes n old.toNat)
  | .join tgt a =>
    match poisonedAt s ((List.range 4).map (fun i => a + i)) with
    | some p => refusePoison s r p (opConsumer tgt) (match tgt with | .link pkg tag => some (pkg, tag) | _ => none)
    | none =>
      let s := touch false s [a, a + 3]
      joinCheck { s with joins := s.joins ++ [{ tgt, addr := a, die := r.die, sent := r.sent }] }
  | .crustRead tgt asid bytes =>
    match bytes.find? (fun b => (regionOf s asid b.2).isNone) with
    | some b => failReq s { r with va := b.2 } 0x208 (ofN64 (regionNear s asid b.2))
    | none =>
      addReply s r.die (.bytes tgt (bytes.map (fun b =>
        (b.1, match cellOf s asid b.2 with
          | some c => memRead (replicaOf s r.die asid c.1) c.2.1
          | none => 0)))) r.sent
  | .ljoin tgt asid va ct b =>
    match cellOf s asid va with
    | none => failReq s r 0x208 (ofN64 (regionNear s asid va))
    | some c =>
      let s := crustJoin s r.die asid c.1 c.2.1 ct b.toNat
      { s with acks := s.acks ++ [{ id := r.id, die := r.die, tgt, sent := r.sent }] }
  | .ldge op asid va ct thr =>
    match cellOf s asid va with
    | none => failReq s r 0x208 (ofN64 (regionNear s asid va))
    | some _ =>
      ldgeCheck { s with ldges := s.ldges ++ [{ op, die := r.die, asid, va, ctype := ct, thr, carpet := r.carpet, sent := r.sent }] } r.die
  | .sync _ => s
  | .prefL2 a => if (poisonedAt s [a]).isSome then s else touch false s [a]

/-- Whether a request is the next of its sender at its home (R26). -/
def headOfLine (s : State) (r : Req) : Bool :=
  match s.reqs.find? (fun q => q.src == r.src && q.die == r.die && !q.taken) with
  | some q => q.id == r.id
  | none => false

def isSync (op : HomeOp) : Bool := match op with | .sync _ => true | _ => false

/-- The core, or the port, that a requester's tickets belong to: an engine's are those of the core it works for (R347). -/
def ticketOwner (src : Nat) : Nat := if src < 1152 then src % 384 else src

/-- Another request of the sender holds a ticket at the home: this one waits in the core until that ticket is used (R347). -/
def ticketHeld (s : State) (r : Req) : Bool :=
  s.reqs.any (fun q => q.id != r.id && q.die == r.die && q.ticket.isSome && ticketOwner q.src == ticketOwner r.src)

/-- An earlier request of the sender that its home has accepted and not yet applied. -/
def takenBefore (s : State) (r : Req) : Bool :=
  (s.reqs.takeWhile (fun q => q.id != r.id)).any (fun q => q.taken && q.src == r.src && q.die == r.die)

/-- A home takes the request at the head of its sender's line, or refuses it when the tracker is full or the die resets (R347, R376); between dies
that do not reach each other both ways it waits (R421). A halted die accepts requests until its tracker is full, and applies them once it goes on
(R427). Answers the state, and whether the request may be applied now. -/
def takeReq (s : State) (r : Req) : State × Bool :=
  let early := takenBefore s r
  if r.taken then (s, !(dieHalt s r.die || dieInReset s r.die || early))
  else if !headOfLine s r || ticketHeld s r || !diesTalk s (srcDie r.src) r.die then (s, false)
  else if dieInReset s r.die || !trackerRoom s r then (refuseReq s r, false)
  else if dieHalt s r.die || early then
    ({ s with reqs := updIf (fun (q : Req) => q.id == r.id) (fun q => { q with taken := true, ticket := none }) s.reqs }, false)
  else (s, true)

/-- Take a request, and apply it where it may be (R26, R347). -/
def serveReq (s : State) (r : Req) : State :=
  if isSync r.op then s
  else match takeReq s r with
    | (t, true) => applyReq { t with reqs := t.reqs.filter (fun q => q.id != r.id) } r
    | (t, false) => t

/-- HOME_REQUEST: the k-th request in flight arrives for the first time, or one that a halted die has accepted is applied (R208, R427). -/
def execHomeRequest (k : Nat) (s : State) : Host.Outcome State Fault Refusal :=
  match s.reqs[k]? with
  | some r => .next (if r.refused = 0 ∨ r.taken = true then serveReq s r else s)
  | none => .next s

/-- REQUEST_RETRY: a refused request is tried again after 64 cycles (R347). -/
def execRequestRetry (k : Nat) (s : State) : Host.Outcome State Fault Refusal :=
  match s.reqs[k]? with
  | some r => .next (if 0 < r.refused ∧ r.taken = false ∧ r.retryAt ≤ s.clock then serveReq s r else s)
  | none => .next s

/-! ## Replies -/

def getLoad (s : State) (op : Nat) : Option LoadOp := s.loads.find? (fun l => l.id == op)
def dropLoad (s : State) (op : Nat) : State := { s with loads := s.loads.filter (fun l => l.id != op) }

/-- The words of a fill that the reply of the read numbered `stamp` brings, merged into the invalid words of the line (R206); a fill clears the
poison of a word (R418). -/
def fillLine (core stamp : Nat) (bs : List (Nat × Byte)) (s : State) (f : Nat × BitVec 16 × Bool) : State :=
  let old := l1Get s core f.1
  let got (w : Nat) : Bool := (List.range 4).all (fun j => bs.any (fun b => b.1 == 64 * f.1 + 4 * w + j))
  let ws := (List.range 16).filter (fun w => f.2.1.getLsbD w && got w &&
    !(match old with | some l => l.valid.getLsbD w | none => false))
  if ws.isEmpty then s
  else
    let p := l1Alloc s core f.1
    let data := (List.range 64).map (fun i =>
      if ws.contains (i / 4) then ((bs.find? (fun b => b.1 == 64 * f.1 + i)).map (·.2)).getD 0 else getD p.2.data i 0)
    let m := ws.foldl (fun m w => m ||| wordBit w) 0
    l1Put p.1 { setStamps p.2 m (2 * stamp + 1) with data := data, valid := p.2.valid ||| m, bad := p.2.bad &&& ~~~m } f.2.2

/-- Merge what a reply brings into the lines that a pending load still fills (R206). -/
def mergeFills (s : State) (l : LoadOp) (bs : List (Nat × Byte)) : State :=
  (l.fills.map (·.1)).foldl (fun s line =>
    match (getLoad s l.id).bind (fun k => k.fills.find? (fun f => f.1 == line)) with
    | some f => fillLine l.core l.stamp bs s f
    | none => s) s

/-- The clean words of a line that an aligned load has read at the home beside others, and that are older there than its read, are dropped and
filled with what it read: a later load must not go back behind it (R227, R234; log entry 34). -/
def refreshLine (core stamp : Nat) (bs : List (Nat × Byte)) (s : State) (line : Nat) (ws : List Nat) : State :=
  match l1Get s core line with
  | none => s
  | some l =>
    let old := ws.filter (fun w => cleanWord l w && decide (stampOf l w < 2 * stamp + 1) &&
      (List.range 4).all (fun j => bs.any (fun b => b.1 == 64 * line + 4 * w + j)))
    let m := old.foldl (fun m w => m ||| wordBit w) 0
    let data := (List.range 64).map (fun i =>
      if old.contains (i / 4) then ((bs.find? (fun b => b.1 == 64 * line + i)).map (·.2)).getD 0 else getD l.data i 0)
    let l' := { setStamps l m (2 * stamp + 1) with data := data, bad := l.bad &&& ~~~m }
    { s with l1 := updIf (fun (k : Line) => k.core == core && k.line == line) (fun _ => l') s.l1 }

/-- After the fill, the L1 serves an aligned load: every byte still due is in a word that its own fill may bring, and no word is younger than
another (R206, R234). -/
def filledWhole (s : State) (l : LoadOp) (filled : Place → Bool) : Bool :=
  ((l.places.zip l.bytes).all (fun p => p.2.isSome || filled p.1)) &&
    ((l.places.map (fun p => memAddr p / 64)).dedup).all (fun line =>
      match l1Get s l.core line with | some k => !mixedWords k (wordsAt l.places line) | none => true)

/-- Land bytes in a pending load: the line fills, and the load is served after the fill: a word that a fill may touch takes the value the L1 now
has, which another fill may have brought; the others take the reply's (R206, R227). An aligned load takes all that is still due from the L1, or
all from the reply, which one read of the home gave (R234; log entry 34). -/
def landBytes (s : State) (l : LoadOp) (bs : List (Nat × Byte)) : State × LoadOp :=
  let s := mergeFills s l bs
  let filled (p : Place) : Bool := cachedPlace p &&
    ((getLoad s l.id).getD l).fills.any (fun f => f.1 == memAddr p / 64 && f.2.1.getLsbD (memAddr p / 4 % 16))
  let whole := placesMis l.places || filledWhole s l filled
  let s := if whole then s
    else (((l.places.filter cachedPlace).map (fun p => memAddr p / 64)).dedup).foldl (fun s line =>
      refreshLine l.core l.stamp bs s line (wordsAt l.places line)) s
  let vals := ((List.range l.places.length).zip (l.places.zip l.bytes)).map (fun p =>
    match p.2.2 with
    | some b => some b
    | none =>
      match bs.find? (fun b => b.1 == loadKey p.1 p.2.1) with
      | none => none
      | some b => some (if whole && filled p.2.1 then (l1Byte s l.core p.2.1).getD b.2 else b.2))
  (s, { l with bytes := vals })

/-- A completed load, atomic, LDGE or JOIN: its result stands in the spore, the acquire work follows, and the join counter
goes down (R44, R247). -/
def finishLoad (s : State) (l : LoadOp) (upd : Fibre → Fibre) : State :=
  let s := updFibre (dropLoad s l.id) l.fid upd
  let s := match l.acq with | some sc => acquireWork s l.core l.fid sc | none => s
  joinDown s l.fid

/-- The result of an operation written to its x destination. -/
def putResult (l : LoadOp) (bs : List Byte) (f : Fibre) : Fibre :=
  match l.d with
  | .x i => setLoaded f i.toNat l.size bs
  | _ => f

/-- The old value of an atomic is zero-extended, whatever the SIZE (R253). -/
def unsignedSize : MSize → MSize
  | .s8 => .n8
  | .s16 => .n16
  | sz => sz

/-- A reply for a fibre lands (R44). -/
def landReply (s : State) (w : Payload) : State :=
  match w with
  | .bytes (.load op) bs =>
    match getLoad s op with
    | none => s
    | some l =>
      let r := landBytes s l bs
      if l.kind != .pref && (l.places.zip l.bytes).any (fun p => p.2.isNone && l1Poison s l.core p.1) then
        storePoison s l.core 0 (((getFibre s l.fid).map (·.carpet)).getD 0)
      else if l.kind = .pref then dropLoad r.1 op
      else if r.2.bytes.all (·.isSome) then finishLoad r.1 l (putResult l (r.2.bytes.map (·.getD 0)))
      else updLoad r.1 op (fun k => { k with bytes := r.2.bytes })
  | .bytes (.walker fid) bs =>
    { s with jobs := updIf (fun j => j.fid == fid) (fun j => { j with fetched := j.fetched ++ bs }) s.jobs }
  | .bytes _ _ => s
  | .old op v fl =>
    match getLoad s op with
    | none => s
    | some l =>
      let s := match getFibre s l.fid with | some f => raiseFlags s f fl | none => s
      finishLoad s l (putResult { l with size := unsignedSize l.size } (leBytes (sizeBytes l.size) v.toNat))
  | .done op =>
    match getLoad s op with
    | none => s
    | some l => finishLoad s l id
  | .value op v =>
    match getLoad s op with
    | none => s
    | some l => finishLoad s l (putResult l (leBytes (sizeBytes l.size) v.toNat))
  | .absorbed sync _ =>
    match s.syncs.find? (fun y => y.id == sync) with
    | none => s
    | some y => joinDown { s with syncs := s.syncs.filter (fun z => z.id != sync) } y.fid

/-- Whether a reply lands in a spore; the others belong to engines. -/
def forFibre : Payload → Bool
  | .bytes (.load _) _ | .bytes (.walker _) _ => true
  | .bytes _ _ => false
  | _ => true

/-- The reply is due to a spore that is saved: a condition met meanwhile is found at the resume (R349). -/
def replySaved (s : State) (w : Payload) : Bool :=
  let saved (fid : Nat) : Bool := ((getFibre s fid).map (·.saved)).getD false
  let load (op : Nat) : Bool := match getLoad s op with | some l => saved l.fid | none => false
  match w with
  | .bytes (.load op) _ | .old op _ _ | .done op | .value op _ => load op
  | .bytes (.walker fid) _ => saved fid
  | .absorbed y _ => match s.syncs.find? (fun z => z.id == y) with | some z => saved z.fid | none => false
  | .bytes _ _ => false

/-- REPLY_LAND: the k-th reply in flight lands (R44), once there is a way from its die (R421). -/
def execReplyLand (k : Nat) (s : State) : Host.Outcome State Fault Refusal :=
  match s.replies[k]? with
  | some r => .next (if forFibre r.what && !replySaved s r.what && replyWay s r then landReply { s with replies := s.replies.filter (fun q => q.id != r.id) } r.what else s)
  | none => .next s

/-! ## Walks (R215, R216, R217, R372, R398) -/

/-- The walks of a die that run: the first 128; the others wait for the pool (R216). -/
def walkRuns (s : State) (w : Walk) : Bool :=
  ((s.walks.filter (fun v => v.die == w.die)).take 128).any (fun v => v.id == w.id)

/-- One waiter of a walk that found its leaf: once every page of its access has its leaf the checks are made; then it goes on (R216, R397,
R442). -/
def walkFound (x : Xlat) (s : State) (w : Waiter) : State :=
  match w with
  | .fibre fid va acc pc =>
    match getFibre s fid with
    | none => s
    | some f =>
      match lookupParts (fillCore s f.core x) f.core x.asid (accParts acc.va acc.n) with
      | (t, _, some _) => wake t fid
      | (t, xs, none) =>
        match leavesCheck t acc (xs.map (fun p => (p.1, p.2.1, p.2.2, if p.1 = va then x.level else 7))) with
        | some e => failFibre t f pc e
        | none => wake t fid
  | .engine _ | .matrix _ _ => s

/-- One waiter of a walk that met an invalid entry is held by the page's record, which names the access whose miss started the walk (R372, R398). -/
def walkFaulted (k : Walk) (level : Nat) (s : State) (w : Waiter) : State :=
  match w with
  | .fibre fid va acc pc =>
    match getFibre s fid with
    | none => s
    | some f =>
      let s := updFibre s fid (fun f => { f with wait := .replay })
      let r := match k.first with
        | some m => missedRec s k.asid m k.va level
        | none => replayRec s f acc.kind pc va level
      holdReplay s k.die k.asid va w r
  | _ => s

/-- One waiter of a walk that met a malformed entry: its carpet ends with 0x0202 (R395). -/
def walkMalformed (level reason : Nat) (s : State) (w : Waiter) : State :=
  match w with
  | .fibre fid va acc pc =>
    match getFibre s fid with
    | none => s
    | some f => failFibre s f pc (accFail 0x202 va (accDetail acc.kind level reason))
  | _ => s

/-- A walk read a poisoned entry: 0x0341, and the carpets of its waiters are touched; a unit that walks in its own steps finds it itself (R418). -/
def walkPoisoned (s : State) (ws : List Waiter) (p : Nat × Nat) : State :=
  let cs := (ws.filterMap (fun w => match w with | .fibre fid _ _ _ => (getFibre s fid).map (·.carpet) | _ => none)).dedup
  if cs.isEmpty then s else cs.foldl (fun t c => touchCarpet t c (some s.nextId)) (poisonRead s p 0 none none)

/-- The fibres of the waiters go on without a translation and look it up again. -/
def walkDropped (s : State) (ws : List Waiter) : State :=
  ws.foldl (fun s w => match w with | .fibre fid _ _ _ => wake s fid | _ => s) s

/-- The slice of the core that the first waiter of a walk runs on. -/
def walkSlice (s : State) (w : Walk) : Nat :=
  match w.waiters with
  | .fibre fid _ _ _ :: _ => srcSlice (((getFibre s fid).map (·.core)).getD 0)
  | _ => 0

/-- TRANSLATION_WALK_COMPLETE: the k-th walk ends (R215). -/
def execTranslationWalkComplete (k : Nat) (s : State) : Host.Outcome State Fault Refusal :=
  match s.walks[k]? with
  | none => .next s
  | some w =>
    if !walkRuns s w || dieHalt s w.die || dieInReset s w.die then .next s
    else
      let t := walkTouch { s with walks := s.walks.filter (fun v => v.id != w.id) } w.die (walkSlice s w) w.asid w.va
      if w.dropped then .next (walkDropped t w.waiters)
      else match walkTable t w.asid w.va with
        | .ok x => .next (w.waiters.foldl (walkFound x) (fillDie t w.die x))
        | .pageFault level => .next (w.waiters.foldl (walkFaulted w level) t)
        | .poisoned p => .next (walkPoisoned t w.waiters p)
        | .bad level reason => .next (w.waiters.foldl (walkMalformed level reason) t)

end Sys2Proof.Machine
end

