-- ==== Sys2Proof/Machine/Cursor.lean ====
section
/-! DEFINITION. Cursors and walkers (R264 to R289, R384, R391, R407): descriptors, the positions of each level kind, the
metadata cache, the cursor instructions, and the walker that completes one for a parked fibre. -/

namespace Sys2Proof.Machine

/-! ## Cursor words (R269) -/

def curKind (c : Cursor) : Nat := getF c.w0 57 3
def curDone (c : Cursor) : Bool := getB c.w0 60
def curAppend (c : Cursor) : Bool := getB c.w0 61
/-- DESC, sign-extended from bit 56. -/
def curDesc (c : Cursor) : DWord := (c.w0 <<< 7).sshiftRight 7
def mkW0 (desc : DWord) (kind : Nat) (done app : Bool) : DWord :=
  setB (setB (setF (setF 0 0 57 (getF desc 0 57)) 57 3 kind) 60 done) 61 app

/-! ## The metadata cache (R273, R274) -/

def metaFind (s : State) (core line : Nat) : Option Line := s.meta_.find? (fun l => l.core == core && l.line == line)

/-- Use a line: it stands first; a new line evicts the least recently used of a full set of 16. -/
def metaPut (s : State) (l : Line) : State :=
  let rest := s.meta_.filter (fun k => !(k.core == l.core && k.line == l.line))
  let here := rest.filter (fun k => k.core == l.core)
  let set := if here.length < 16 then [] else here.filter (fun k => Config.cacheSet k.line 256 == Config.cacheSet l.line 256)
  let rest := if set.length < 16 then rest
    else match set.getLast? with
      | some v => rest.erase v
      | none => rest
  { s with meta_ := l :: rest }

/-- A line read: used, or filled from the home. Of the prefetch ahead of R273 nothing is modelled (DESIGN CHOICE, log entry 25). -/
def metaUse (core : Nat) (s : State) (line : Nat) : State :=
  match metaFind s core line with
  | some l => metaPut s l
  | none => metaPut (l2Touch (srcDie core) (srcSlice core) false s (64 * line)) { core, line, valid := BitVec.allOnes 16, dirty := 0, data := physBytes s (64 * line) 64 }

/-! ## Walks as computations -/

/-- Why a walk does not complete. -/
inductive WkStop where
  /-- a walker miss at issue (R272), or no room in the store counter -/
  | miss
  /-- the walk of a page waits for the pool (R216): the page address -/
  | walk (va : DWord)
  /-- a precise trap: syndrome, W3, detail (R384) -/
  | trap (syn : Nat) (w3 : DWord) (det : Nat)
  | fail (e : AccFail)
  | pageFault (va : DWord) (acc : Access) (level : Nat)
  | fatal (syn : Nat) (w3 w4 : DWord)
  /-- the line must first be written back, or a write to it is on its way (R274) -/
  | flush (line : Nat)
  /-- a remote line must first be fetched: the address that needs it, its package, kind, first byte -/
  | ask (va : DWord) (pkg kind pa : Nat)
  | poison (p : Nat × Nat)
  deriving DecidableEq, Repr

/-- The executing fibre, and whether the walk runs at issue, on hits only. -/
structure WkEnv where
  who : Who
  issue : Bool
  stcnt : Nat
  fetched : List (Nat × Byte)
  deriving DecidableEq, Repr

/-- A walker write due: its address, places and bytes. It counts once in the store counter. -/
structure WkWrite where
  va : DWord
  places : List Place
  bytes : List Byte
  deriving DecidableEq, Repr

structure WkSt where
  s : State
  steps : Nat
  lines : List Nat
  writes : List WkWrite
  deriving DecidableEq, Repr

abbrev Wk := ReaderT WkEnv (StateT WkSt (Except WkStop))

/-- Steps of the walk: at issue at most 64 (R272). A step is counted with its advance: to the next entry of a scan, to the next half of a search;
a comparison that ends the walk where it stands is no step of its own (log entry 25). -/
def wkStep (n : Nat) : Wk Unit := do
  let e ← read
  let st ← get
  if e.issue && decide (64 < st.steps + n) then throw .miss
  set { st with steps := st.steps + n }

/-- Translate a walker access (R216, R274, R397). -/
def wkPlaces (va : DWord) (n : Nat) (w : Bool) : Wk (List Place) := do
  let e ← read
  let st ← get
  let acc := access .walker va n (!w) w
  if e.issue then
    match xlate st.s e.who.core e.who.asid acc with
    | (s, .ok xs) => set { st with s := s }; return placesOf s xs
    | (_, .miss _) => throw .miss
    | (_, .fail f) => throw (.fail f)
  else
    match xlateWalk st.s (dieOf e.who.core) e.who.asid acc with
    | (s, .ok xs) => set { st with s := s }; return placesOf s xs
    | (_, .pageFault a l) => throw (.pageFault a acc l)
    | (_, .fail f) => throw (.fail f)
    | (_, .busy a) => throw (.walk a)
    | (_, .poisoned p) => throw (.poison p)

/-- A write of the core to a line that has not reached its home, or that is held: no walker of the core fills the line before it (R228, R246,
R274). -/
def lineBusy (s : State) (who : Who) (line : Nat) : Bool :=
  stillFar s who.fid who.cush who.core [line] || s.held.any (fun h => (h.cush == who.cush || h.core == who.core) && h.lines.contains line) ||
  s.reqs.any (fun r => r.src == who.core && (match r.op with
    | .write _ cells => cells.any (fun c => c.1 / 64 == line)
    | .rmw _ _ a _ _ _ => a / 64 == line
    | _ => false))

/-- One byte of a walker read, at an address. -/
def wkByte (va : DWord) (p : Place) : Wk Byte := do
  let e ← read
  let st ← get
  match p with
  | .mem cpol a =>
    let line := a / 64
    -- a remote page that names this package: never cached, always a miss (R272, R273)
    let far := decide (cpol = 3)
    match if far then none else metaFind st.s e.who.core line with
    | some l =>
      set { st with lines := addNew line st.lines }
      return getD l.data (a % 64) 0
    | none =>
      if e.issue then throw .miss
      if lineBusy st.s e.who line then throw (.flush line)
      match l1Get st.s e.who.core line with
      | some l => if l.dirty ≠ 0 then throw (.flush line)
      | none => pure ()
      match poisonedAt st.s [a] with
      | some p => throw (.poison p)
      | none => pure ()
      if !far then set { st with lines := addNew line st.lines }
      return physRead st.s a
  | .remote pkg kind pa =>
    if e.issue || lineBusy st.s e.who (placeLine p) then throw .miss
    match e.fetched.find? (fun b => b.1 == placeLine p * 64 + pa % 64) with
    | some b => return b.2
    | none => throw (.ask va pkg kind (pa / 64 * 64))
  | .crust _ => return 0

/-- The n bytes at an address as a number. -/
def wkRead (va : DWord) (n : Nat) : Wk Nat := do
  let ps ← wkPlaces va n false
  let bs ← ((List.range n).zip ps).mapM (fun p => wkByte (va + ofN64 p.1) p.2)
  return ofBytes bs

/-- A walker write: translated now, made when the instruction completes; with the store counter full it waits (R274). -/
def wkWrite (va : DWord) (bs : List Byte) : Wk Unit := do
  let e ← read
  let ps ← wkPlaces va bs.length true
  let st ← get
  if 0xFFFF ≤ e.stcnt + st.writes.length then throw .miss
  let x : WkWrite := { va, places := ps, bytes := bs }
  set { st with writes := st.writes ++ [x] }

/-! ## Level descriptors (R264, R391) -/

structure Lvl where
  addr : DWord
  kind : Nat
  /-- w in bits; pw in bytes -/
  w : Nat
  pw : Nat
  vt : Fmt
  hasval : Bool
  bsz : Nat
  seg : Bool
  ce : Nat
  extent : Nat
  child : DWord
  pos : DWord
  crd : DWord
  aux : DWord
  val : DWord
  deriving DecidableEq, Repr

/-- The faults of a descriptor that 0x0116 reports. -/
def descBad (v : List DWord) : Bool :=
  let d := getD v 0 0
  let kind := getF d 0 3
  let cw := getF d 3 2
  let w := 16 * 2 ^ cw
  let ext := (getD v 1 0).toNat
  let b := 4 * 2 ^ getF d 12 2
  decide (getF d 20 44 ≠ 0) || decide (getD v 7 0 ≠ 0) || decide (5 < kind) || decide (cw = 3) || decide (15 < getF d 6 5) ||
  (decide (kind ≠ 5) && decide (getF d 12 2 ≠ 0)) ||
  (decide (kind ≠ 1) && decide (getF d 14 6 ≠ 0)) ||
  (decide (kind = 1) && (if getB d 14 then decide (getF d 15 5 < 2 ∨ 20 < getF d 15 5) else decide (getF d 15 5 ≠ 0))) ||
  decide (ext = 0) || decide (2 ^ w - 1 < ext) || (decide (kind = 5) && decide (ext % b ≠ 0)) ||
  decide (getF (getD v 2 0) 0 6 ≠ 0)

/-- Read and check the descriptor at an address, for cursor k. -/
def wkDesc (k : Nat) (addr : DWord) : Wk Lvl := do
  if getF addr 0 6 ≠ 0 then throw (.trap 0x116 addr k)
  let v ← (List.range 8).mapM (fun i => do return ofN64 (← wkRead (addr + ofN64 (8 * i)) 8))
  if descBad v then throw (.trap 0x116 addr k)
  let d := getD v 0 0
  return {
    addr := addr, kind := getF d 0 3, w := 16 * 2 ^ getF d 3 2, pw := if getB d 5 then 8 else 4
    vt := (decFmt (BitVec.ofNat 5 (getF d 6 5))).getD .s8, hasval := getB d 11, bsz := 4 * 2 ^ getF d 12 2, seg := getB d 14
    ce := 2 ^ getF d 15 5, extent := (getD v 1 0).toNat, child := getD v 2 0, pos := getD v 3 0, crd := getD v 4 0
    aux := getD v 5 0, val := getD v 6 0 }

/-- Entry i of an array of n-byte entries. -/
def wkArr (base : DWord) (i n : Nat) : Wk Nat := wkRead (base + ofN64 (i * n)) n

/-- A coordinate entry. -/
def wkCrd (lv : Lvl) (i : Nat) : Wk Nat := wkArr lv.crd i (lv.w / 8)

/-! ## Positions (R265 to R267, R270) -/

/-- A position: the main number, and the offset within a run. -/
abbrev WPos := Nat × Nat

/-- More steps than any walk over 64-bit positions takes. -/
def wkFuel : Nat := 2 ^ 64

/-- log2 of a hashed table's size, as W1 keeps it. -/
def curL (c : Cursor) : Nat := getF c.w1 40 6

def decPos (lv : Lvl) (w1 : DWord) : WPos :=
  if lv.kind = 3 then (getF w1 0 40, 0) else if lv.kind = 4 then (getF w1 0 40, getF w1 40 24) else (w1.toNat, 0)

def encPos (lv : Lvl) (l : Nat) (p : WPos) : DWord :=
  if lv.kind = 3 then ofN64 (p.1 % 2 ^ 40 + l * 2 ^ 40)
  else if lv.kind = 4 then ofN64 (p.1 % 2 ^ 40 + p.2 % 2 ^ 24 * 2 ^ 40) else ofN64 p.1

/-- The bound as a position number. -/
def boundOf (lv : Lvl) (c : Cursor) : Nat := if lv.kind = 3 ∨ lv.kind = 4 then getF c.w2 0 40 else c.w2.toNat

/-- The entry of an empty slot (R266). -/
def emptySlot (lv : Lvl) : Nat := 2 ^ lv.w - 1

/-- The 64-bit word of a bitmap that holds bit b (R264). -/
def wkBits (lv : Lvl) (b : Nat) : Wk Nat := wkRead (lv.crd + ofN64 (b / 64 * 8)) 8

/-- The first set bit at or after b below the bound. -/
def wkScan (lv : Lvl) (bound : Nat) : Nat → Nat → Wk (Option Nat)
  | 0, _ => pure none
  | fuel + 1, b =>
    if bound ≤ b then pure none
    else do
      let w ← wkBits lv b
      match (List.range 64).find? (fun i => decide (b % 64 ≤ i) && w.testBit i) with
      | some i => return (if b / 64 * 64 + i < bound then some (b / 64 * 64 + i) else none)
      | none =>
        wkStep 1
        wkScan lv bound fuel (b / 64 * 64 + 64)

/-- The first occupied slot at or after s below the bound. -/
def wkSlot (lv : Lvl) (bound : Nat) : Nat → Nat → Wk (Option Nat)
  | 0, _ => pure none
  | fuel + 1, s =>
    if bound ≤ s then pure none
    else do
      let c ← wkCrd lv s
      if c = emptySlot lv then
        wkStep 1
        wkSlot lv bound fuel (s + 1)
      else return some s

/-- The first position at or after run r, offset off. -/
def wkRun (lv : Lvl) (bound : Nat) : Nat → WPos → Wk (Option WPos)
  | 0, _ => pure none
  | fuel + 1, p =>
    if bound ≤ p.1 then pure none
    else do
      let n ← wkArr lv.aux p.1 4
      if p.2 < n then return some p
      else
        wkStep 1
        wkRun lv bound fuel (p.1 + 1, 0)

/-- The first position at or after p. -/
def firstFrom (lv : Lvl) (bound : Nat) (p : WPos) : Wk (Option WPos) := do
  match lv.kind with
  | 2 => return (← wkScan lv bound wkFuel p.1).map (·, 0)
  | 3 => return (← wkSlot lv bound wkFuel p.1).map (·, 0)
  | 4 => wkRun lv bound wkFuel p
  | _ =>
    if lv.seg then return (if p.1 = bound then none else some p)
    else return (if p.1 < bound then some p else none)

/-- The position after p (R265, R267). -/
def nextPos (lv : Lvl) (bound : Nat) (p : WPos) : Wk (Option WPos) := do
  if lv.kind = 4 ∨ lv.kind = 2 then
    -- an advance within the run or the word; those to the next are counted where it is passed
    let q : WPos := if lv.kind = 4 then (p.1, p.2 + 1) else (p.1 + 1, 0)
    let unit (x : WPos) : Nat := if lv.kind = 4 then x.1 else x.1 / 64
    let r ← firstFrom lv bound q
    if r.any (fun x => unit x == unit q) then wkStep 1
    return r
  else
  wkStep 1
  if lv.seg then
    let j := p.1 + 1
    if j = bound then return none
    else if j % lv.ce = lv.ce - 1 then
      let n ← wkArr lv.crd j (lv.w / 8)
      return (if n = bound then none else some (n, 0))
    else return some (j, 0)
  else firstFrom lv bound (p.1 + 1, 0)

/-- The coordinate at a position (R265). -/
def crdAt (lv : Lvl) (bound : Nat) (p : WPos) : Wk Nat := do
  match lv.kind with
  | 0 | 2 => return p.1 + lv.extent - bound
  | 4 => return (← wkArr lv.crd p.1 (lv.w / 8)) + p.2
  | 5 => return (← wkCrd lv (p.1 / lv.bsz)) * lv.bsz + p.1 % lv.bsz
  | _ => wkCrd lv p.1

/-- The child and value index at a position (R265). -/
def childAt (lv : Lvl) (p : WPos) : Wk Nat := do
  if lv.kind = 2 then
    let b := p.1
    let r ← wkArr lv.aux (b / 512) lv.pw
    let ws ← (List.range (b % 512 / 64 + 1)).mapM (fun i => wkRead (lv.crd + ofN64 ((b / 512 * 8 + i) * 8)) 8)
    let below := (List.range (b % 512)).filter (fun i => (getD ws (i / 64) 0).testBit (i % 64))
    return r + below.length
  else return p.1

/-- Bisect [lo, hi) for the first index at which a monotone test holds. -/
def wkBisect (f : Nat → Wk Bool) : Nat → Nat → Nat → Wk Nat
  | 0, lo, _ => pure lo
  | fuel + 1, lo, hi =>
    if hi ≤ lo then pure lo
    else do
      let mid := (lo + hi) / 2
      wkStep 1
      if ← f mid then wkBisect f fuel lo mid else wkBisect f fuel (mid + 1) hi

/-- Scan a chain for the first position with a coordinate of at least c. -/
def wkChain (lv : Lvl) (bound c : Nat) : Nat → Option WPos → Wk (Option WPos)
  | 0, _ => pure none
  | _ + 1, none => pure none
  | fuel + 1, some p => do
    if p.1 = bound then return none
    let x ← wkCrd lv p.1
    if c ≤ x then return some p
    wkChain lv bound c fuel (← nextPos lv bound p)

/-- The first position at or after run p.1, offset p.2, with a coordinate of at least c, run by run. -/
def wkRunGE (lv : Lvl) (bound c : Nat) : Nat → WPos → Wk (Option WPos)
  | 0, _ => pure none
  | fuel + 1, p =>
    if bound ≤ p.1 then pure none
    else do
      let a ← wkArr lv.crd p.1 (lv.w / 8)
      let n ← wkArr lv.aux p.1 4
      let off := max p.2 (c - a)
      if off < n then return some (p.1, off)
      else
        wkStep 1
        wkRunGE lv bound c fuel (p.1 + 1, 0)

/-- The first position at or after p whose coordinate is at least c, of an ordered level (R278, R282). -/
def seekGE (lv : Lvl) (bound : Nat) (p : WPos) (c : Nat) : Wk (Option WPos) := do
  match lv.kind with
  | 0 =>
    wkStep 1
    let q := max p.1 (bound + c - lv.extent)
    return (if q < bound then some (q, 0) else none)
  | 2 => firstFrom lv bound (max p.1 (bound + c - lv.extent), 0)
  | 4 =>
    let r ← wkBisect (fun r => do
      let a ← wkCrd lv r
      let n ← wkArr lv.aux r 4
      return decide (c < a + n)) 65 p.1 bound
    wkRunGE lv bound c wkFuel (r, if r = p.1 then p.2 else 0)
  | 5 =>
    let b ← wkBisect (fun b => do return decide (c < (← wkCrd lv b) * lv.bsz + lv.bsz)) 65 (p.1 / lv.bsz) (bound / lv.bsz)
    if bound / lv.bsz ≤ b then return none
    let a ← wkCrd lv b
    let q := max p.1 (b * lv.bsz + (c - a * lv.bsz))
    return (if q < bound then some (q, 0) else none)
  | _ =>
    if lv.seg then wkChain lv bound c wkFuel (some p)
    else
      let q ← wkBisect (fun q => do return decide (c ≤ (← wkCrd lv q))) 65 p.1 bound
      return (if q < bound then some (q, 0) else none)

/-- Probe a hashed table (R266): i probes left, the table at lo with n slots. -/
def wkProbe (lv : Lvl) (c lo n : Nat) : Nat → Nat → Wk (Option Nat)
  | 0, _ => pure none
  | i + 1, s => do
    let x ← wkCrd lv s
    if x = c then return some s
    if x = emptySlot lv then return none
    wkStep 1
    wkProbe lv c lo n i (lo + (s - lo + 1) % n)

/-- Look a coordinate up in the table of a hashed cursor (R266, R270). -/
def lookupHash (lv : Lvl) (c : Cursor) (x : Nat) : Wk (Option Nat) :=
  let l := curL c
  let n := 2 ^ l
  let lo := boundOf lv c - n
  let h := x * 0x9E3779B97F4A7C15 % 2 ^ 64
  wkProbe lv x lo n n (lo + (if l = 0 then 0 else h / 2 ^ (64 - l)))

/-! ## Moving cursors -/

/-- setdone (R271). -/
def setDone (lv : Lvl) (c : Cursor) : Cursor :=
  { c with w0 := setB c.w0 60 true, w1 := encPos lv (curL c) (boundOf lv c, 0), w3 := BitVec.allOnes 64 }

/-- Stand at a position with its coordinate. -/
def moveTo (lv : Lvl) (c : Cursor) (p : WPos) : Wk Cursor := do
  let x ← crdAt lv (boundOf lv c) p
  return { c with w1 := encPos lv (curL c) p, w3 := ofN64 x }

/-- Stand at a position, or be done. -/
def moveOr (lv : Lvl) (c : Cursor) : Option WPos → Wk Cursor
  | some p => moveTo lv c p
  | none => pure (setDone lv c)

/-- Enter the positions of parent p (R265, R271, R276, R279). -/
def enterLevel (lv : Lvl) (p : Nat) : Wk Cursor := do
  let r : Nat × Nat ← (do
    match lv.kind with
    | 0 | 2 => return (p * lv.extent, (p + 1) * lv.extent)
    | 1 =>
      if lv.seg then return (← wkArr lv.pos (2 * p) lv.pw, ← wkArr lv.pos (2 * p + 1) lv.pw)
      else return (← wkArr lv.pos p lv.pw, ← wkArr lv.pos (p + 1) lv.pw)
    | 5 => return ((← wkArr lv.pos p lv.pw) * lv.bsz, (← wkArr lv.pos (p + 1) lv.pw) * lv.bsz)
    | _ => return (← wkArr lv.pos p lv.pw, ← wkArr lv.pos (p + 1) lv.pw))
  let l := if lv.kind = 3 then (r.2 - r.1).log2 else 0
  let c : Cursor := { w0 := mkW0 lv.addr lv.kind false false, w1 := encPos lv l (r.1, 0), w2 := ofN64 r.2, w3 := 0 }
  moveOr lv c (← firstFrom lv (boundOf lv c) (r.1, 0))

/-! ## Co-iteration (R281, R282) -/

/-- The first index in [lo, bound) with a coordinate of at least c, by galloping: doubling strides, then bisection (R282). -/
def wkGallop (lv : Lvl) (bound c : Nat) : Nat → Nat → Nat → Wk Nat
  | 0, lo, _ => pure lo
  | fuel + 1, lo, stride => do
    let q := lo + stride - 1
    let test (i : Nat) : Wk Bool := do return decide (c ≤ (← wkCrd lv i))
    if bound ≤ q then wkBisect test 65 lo bound
    else
    wkStep 1
    if ← test q then wkBisect test 65 lo q
    else wkGallop lv bound c fuel (q + 1) (2 * stride)

/-- A search from a compressed side: galloping, or along the chain of a segmented one (R282). -/
def seekNear (lv : Lvl) (bound : Nat) (p : WPos) (c : Nat) : Wk (Option WPos) := do
  if lv.kind = 1 ∧ !lv.seg then
    let q ← wkGallop lv bound c 65 p.1 1
    return (if q < bound then some (q, 0) else none)
  else seekGE lv bound p c

/-- Compressed and compressed, alternating: the least coordinate held at or after both cursors' positions, with both positions. -/
def wkMeet (la lb : Lvl) (a b : Cursor) : Nat → WPos → WPos → Nat → Wk (Option (WPos × WPos))
  | 0, _, _, _ => pure none
  | fuel + 1, pa, pb, c => do
    match ← seekNear la (boundOf la a) pa c with
    | none => return none
    | some qa =>
      let ca ← crdAt la (boundOf la a) qa
      match ← seekNear lb (boundOf lb b) pb ca with
      | none => return none
      | some qb =>
        let cb ← crdAt lb (boundOf lb b) qb
        if cb = ca then return some (qa, qb) else wkMeet la lb a b fuel qa qb cb

/-- The coordinates from a position to the end of its run or block: the first, and the one after the last. -/
def spanAt (lv : Lvl) (p : WPos) : Wk (Nat × Nat) := do
  if lv.kind = 4 then
    let a ← wkArr lv.crd p.1 (lv.w / 8)
    return (a + p.2, a + (← wkArr lv.aux p.1 4))
  else
    let a ← wkArr lv.crd (p.1 / lv.bsz) (lv.w / 8)
    return (a * lv.bsz + p.1 % lv.bsz, (a + 1) * lv.bsz)

/-- The position of coordinate x in the span of a position whose coordinate is lo. -/
def spanPos (lv : Lvl) (p : WPos) (lo x : Nat) : WPos := if lv.kind = 4 then (p.1, p.2 + (x - lo)) else (p.1 + (x - lo), 0)

/-- The first position of the next run or block. -/
def spanNext (lv : Lvl) (bound : Nat) (p : WPos) : Wk (Option WPos) := do
  wkStep 1
  if lv.kind = 4 then firstFrom lv bound (p.1 + 1, 0)
  else
    let q := (p.1 / lv.bsz + 1) * lv.bsz
    return (if q < bound then some (q, 0) else none)

/-- Runs and blocks, alternating: the first coordinate from c on that lies in a span of either side (R282). -/
def wkSpans (la lb : Lvl) (a b : Cursor) (c : Nat) : Nat → WPos → WPos → Wk (Option (WPos × WPos))
  | 0, _, _ => pure none
  | fuel + 1, pa, pb => do
    let sa ← spanAt la pa
    let sb ← spanAt lb pb
    let x := max c (max sa.1 sb.1)
    if x < min sa.2 sb.2 then return some (spanPos la pa sa.1 x, spanPos lb pb sb.1 x)
    else if sa.2 ≤ sb.2 then
      match ← spanNext la (boundOf la a) pa with
      | none => return none
      | some q => wkSpans la lb a b c fuel q pb
    else
      match ← spanNext lb (boundOf lb b) pb with
      | none => return none
      | some q => wkSpans la lb a b c fuel pa q

/-- Runs or blocks against a bitmap: a scan of the bits within each span (R282). -/
def wkSpanBits (ld lo : Lvl) (d o : Cursor) (c : Nat) : Nat → WPos → Wk (Option (WPos × WPos))
  | 0, _ => pure none
  | fuel + 1, p => do
    let sp ← spanAt ld p
    let base := boundOf lo o - lo.extent
    match ← wkScan lo (base + min sp.2 lo.extent) wkFuel (max (decPos lo o.w1).1 (base + max c sp.1)) with
    | some b => return some (spanPos ld p sp.1 (b - base), (b, 0))
    | none =>
      match ← spanNext ld (boundOf ld d) p with
      | none => return none
      | some q => wkSpanBits ld lo d o c fuel q

/-- The n bits of a bitmap from an absolute bit index on, as a number. -/
def wkBitsAt (lv : Lvl) (i n : Nat) : Wk Nat := do
  let lo ← wkRead (lv.crd + ofN64 (i / 64 * 8)) 8
  if i % 64 + n ≤ 64 then return lo / 2 ^ (i % 64) % 2 ^ n
  else
    let hi ← wkRead (lv.crd + ofN64 ((i / 64 + 1) * 8)) 8
    return (lo / 2 ^ (i % 64) + hi * 2 ^ (64 - i % 64)) % 2 ^ n

/-- Two bitmaps: the AND of 64-bit words, from coordinate c on (R282). -/
def wkWords (la lb : Lvl) (a b : Cursor) : Nat → Nat → Wk (Option (WPos × WPos))
  | 0, _ => pure none
  | fuel + 1, c =>
    if min la.extent lb.extent ≤ c then pure none
    else do
      let ia := boundOf la a + c - la.extent
      let ib := boundOf lb b + c - lb.extent
      let n := min (64 - ia % 64) (min la.extent lb.extent - c)
      let x ← wkBitsAt la ia n
      let y ← wkBitsAt lb ib n
      match (List.range n).find? (fun i => x.testBit i && y.testBit i) with
      | some i => return some ((ia + i, 0), (ib + i, 0))
      | none =>
        wkStep 1
        wkWords la lb a b fuel (c + n)

/-- Where a coordinate is found in the probed side, at or after its position (R282): by hash, by arithmetic in a dense level, by a bit test,
or by a binary search over run starts or block coordinates. -/
def probeSide (lv : Lvl) (c : Cursor) (x : Nat) : Wk (Option WPos) := do
  let p := decPos lv c.w1
  let bound := boundOf lv c
  match lv.kind with
  | 3 => return (← lookupHash lv c x).map (·, 0)
  | 2 =>
    if lv.extent ≤ x then return none
    let b := bound + x - lv.extent
    return (if (← wkRead (lv.crd + ofN64 (b / 64 * 8)) 8).testBit (b % 64) then some (b, 0) else none)
  | 4 =>
    let r ← wkBisect (fun r => do return decide (x < (← wkCrd lv r))) 65 p.1 bound
    if r ≤ p.1 then return none
    let a ← wkArr lv.crd (r - 1) (lv.w / 8)
    let n ← wkArr lv.aux (r - 1) 4
    return (if x < a + n then some (r - 1, x - a) else none)
  | 5 =>
    let b ← wkBisect (fun b => do return decide (x / lv.bsz ≤ (← wkCrd lv b))) 65 (p.1 / lv.bsz) (bound / lv.bsz)
    if bound / lv.bsz ≤ b then return none
    return (if (← wkArr lv.crd b (lv.w / 8)) = x / lv.bsz then some (b * lv.bsz + x % lv.bsz, 0) else none)
  | _ => return (if x < lv.extent then some (bound + x - lv.extent, 0) else none)

/-- Drive one side through the other, to the first coordinate that is found there and that `ok` admits (R281). -/
def wkDrive (ok : Nat → WPos → Bool) (ld lo : Lvl) (d o : Cursor) : Nat → Option WPos → Wk (Option (WPos × WPos))
  | 0, _ => pure none
  | _ + 1, none => pure none
  | fuel + 1, some p => do
    let x ← crdAt ld (boundOf ld d) p
    match (← probeSide lo o x).filter (ok x) with
    | some q => return some (p, q)
    | none => wkDrive ok ld lo d o fuel (← nextPos ld (boundOf ld d) p)

/-- A position at or after another. -/
def posFrom (p q : WPos) : Bool := decide (p.1 < q.1) || (decide (p.1 = q.1) && decide (p.2 ≤ q.2))

/-- Intersect two sides, neither hashed, from coordinate c on, by the method of R282. -/
def coitMeet (la lb : Lvl) (a b : Cursor) (c : Nat) : Wk (Option (WPos × WPos)) := do
  let pa := decPos la a.w1
  let pb := decPos lb b.w1
  let driveA : Wk (Option (WPos × WPos)) := do
    wkDrive (fun x q => decide (c ≤ x) && posFrom pb q) la lb a b wkFuel (← seekGE la (boundOf la a) pa c)
  let driveB : Wk (Option (WPos × WPos)) := do
    return (← wkDrive (fun x q => decide (c ≤ x) && posFrom pa q) lb la b a wkFuel (← seekGE lb (boundOf lb b) pb c)).map Prod.swap
  match la.kind, lb.kind with
  | _, 0 => driveA
  | 0, _ => driveB
  | 1, 1 => wkMeet la lb a b wkFuel pa pb c
  | 1, _ => driveA
  | _, 1 => driveB
  | 2, 2 => wkWords la lb a b wkFuel (max c (max (pa.1 + la.extent - boundOf la a) (pb.1 + lb.extent - boundOf lb b)))
  | _, 2 => wkSpanBits la lb a b c wkFuel pa
  | 2, _ => return (← wkSpanBits lb la b a c wkFuel pb).map Prod.swap
  | _, _ => wkSpans la lb a b c wkFuel pa pb

/-- Whether side A drives when some side is hashed (R282): a hashed side drives only a dense one, or the other hashed one as A. -/
def aDrives (ka kb : Nat) : Bool := if kb = 3 then ka != 0 else kb == 0

/-! ## The instructions as walks -/

/-- What a cursor instruction writes. -/
structure CursOut where
  ks : List (Nat × Cursor)
  /-- result and whether it takes a pair -/
  d : Option (DWord × Bool)
  fl : BitVec 5
  deriving DecidableEq, Repr

def outK (k : Nat) (c : Cursor) : CursOut := { ks := [(k, c)], d := none, fl := 0 }

/-- The cursor checks of 0x0115 (R391): reason 0 unloaded, 2 append not allowed. -/
def wkLoaded (k : Nat) (c : Cursor) (appendBad : Bool) : Wk Unit := do
  if !cursorLoaded c then throw (.trap 0x115 0 k)
  if appendBad && curAppend c then throw (.trap 0x115 0 (k + 2 * 256))

/-- The level of a cursor: its descriptor, of the kind the cursor names. -/
def wkLevel (k : Nat) (c : Cursor) : Wk Lvl := do
  let lv ← wkDesc k (curDesc c)
  if lv.kind ≠ curKind c then throw (.trap 0x116 (curDesc c) k)
  return lv

/-- A trap of 0x0117 at a level. -/
def lvlTrap {α : Type} (lv : Lvl) (k reason : Nat) : Wk α := throw (.trap 0x117 lv.addr (k + reason * 256))

/-- An operand at the width its level takes (R275). -/
def wkArg (wide : Bool) (a : WArg) : DWord := if wide then a.v64 else a.v32

/-- The violations of pair operands, which come before everything that the walker finds (R379). -/
def wkPairs (word : DWord) (bad : List (Nat × Nat)) : Wk Unit :=
  match firstViol (bad.map (fun b => viol b.1 0 word b.2)) with
  | some v => throw (.trap v.syn v.w3 v.det)
  | none => pure ()

/-- The level of a loaded cursor, as far as its descriptor tells it. -/
def wkTryLevel (k : Nat) (c : Cursor) : Wk (Option Lvl) := do
  if !cursorLoaded c then return none
  try return some (← wkDesc k (curDesc c))
  catch
    | .trap _ _ _ => return none
    | e => throw e

/-- The pair operands whose width the level of a cursor decides: `need` names those that are pairs and are not fit to be one (R275,
R379). -/
def wkPairsAt (word : DWord) (k : Nat) (c : Cursor) (any : Bool) (need : Lvl → List (Option (Nat × Nat))) : Wk Unit := do
  if any then
    match ← wkTryLevel k c with
    | some lv => wkPairs word ((need lv).filterMap id)
    | none => return ()

/-- A level of 64-bit coordinates. -/
def Lvl.wide (lv : Lvl) : Bool := decide (lv.w = 64)

/-- Take a chunk from a heap of the die (R284, R285, R391, R407); the slots of one instruction take them in ascending slot order. -/
def wkChunk (lv : Lvl) (k heap : Nat) : Wk Nat := do
  let e ← read
  if e.issue then throw .miss
  let st ← get
  let ahead := st.s.jobs.takeWhile (fun j => j.fid != e.who.fid)
  if ahead.any (fun j => j.due.isEmpty && st.s.jobs.any (fun k => k.fid == e.who.fid && k.frond == j.frond && k.pc == j.pc)) then throw .miss
  let d := dieOf e.who.core
  let o := offHEAP e.who.asid (heap % 16) d
  if !ctlB st.s o 0 then lvlTrap lv k 5
  let next := ctlF st.s (o + 8) 32 32
  if ctlF st.s o 32 32 ≤ next then throw (.fatal 0x20D (ofN64 o) (ofN64 (heap % 16 + d * 16)))
  set { st with s := ctlSetF st.s (o + 8) 32 32 (next + 1) }
  return (ctlF st.s (o + 8) 0 32 + next) * lv.ce

/-- Entry i of a value array (R121). -/
def wkVal (lv : Lvl) (i : Nat) : Wk Nat := do
  let b := fmtBits lv.vt
  if b = 4 then
    let x ← wkRead (lv.val + ofN64 (i / 2)) 1
    return x / 16 ^ (i % 2) % 16
  else wkRead (lv.val + ofN64 (i * (b / 8))) (b / 8)

/-- Write entry i of a value array. -/
def wkValWrite (lv : Lvl) (i : Nat) (v : DWord) : Wk Unit := do
  let b := fmtBits lv.vt
  if b = 4 then
    let x ← wkRead (lv.val + ofN64 (i / 2)) 1
    let sh := 16 ^ (i % 2)
    wkWrite (lv.val + ofN64 (i / 2)) (leBytes 1 (x - x / sh % 16 * sh + v.toNat % 16 * sh))
  else wkWrite (lv.val + ofN64 (i * (b / 8))) (leBytes (b / 8) v.toNat)

/-- The first element of the chunk that a heap of the die would give next (R284). -/
def wkNextChunk (lv : Lvl) (heap : Nat) : Wk (Option Nat) := do
  let e ← read
  let s := (← get).s
  let o := offHEAP e.who.asid (heap % 16) (dieOf e.who.core)
  let next := ctlF s (o + 8) 32 32
  return (if ctlB s o 0 && decide (next < ctlF s o 32 32) then some ((ctlF s (o + 8) 0 32 + next) * lv.ce) else none)

/-- The translations of an element's writes, which come before a heap request (R407). -/
def wkElem (lv : Lvl) (i : Nat) : Wk Unit := do
  let _ ← wkPlaces (lv.crd + ofN64 (i * (lv.w / 8))) (lv.w / 8) true
  if lv.hasval then
    let b := fmtBits lv.vt
    let _ ← wkPlaces (lv.val + ofN64 (if b = 4 then i / 2 else i * (b / 8))) (if b = 4 then 1 else b / 8) true

/-- CAPP (R286). -/
def wkAppend (word : DWord) (k : Nat) (c : Cursor) (a b : WArg) : Wk CursOut := do
  wkPairsAt word k c (a.bad.isSome || b.bad.isSome)
    (fun lv => [if lv.wide then a.bad else none, if lv.hasval && fmtPair lv.vt then b.bad else none])
  wkLoaded k c false
  if !curAppend c then throw (.trap 0x115 0 (k + 256))
  if curDone c then throw (.trap 0x115 0 (k + 3 * 256))
  let lv ← wkLevel k c
  let x := wkArg lv.wide a
  let v := wkArg (fmtPair lv.vt) b
  let wb := lv.w / 8
  let c ← if c.w1 = c.w2 then do
      let link := lv.crd + ofN64 (c.w2.toNat * wb)
      let _ ← wkPlaces link wb true
      match ← wkNextChunk lv (getF c.w3 40 4) with
      | some nb => wkElem lv nb
      | none => pure ()
      let nb ← wkChunk lv k (getF c.w3 40 4)
      wkWrite link (leBytes wb nb)
      pure { c with w1 := ofN64 nb, w2 := ofN64 (nb + lv.ce - 1) }
    else pure c
  wkWrite (lv.crd + ofN64 (c.w1.toNat * wb)) (leBytes wb x.toNat)
  if lv.hasval then wkValWrite lv c.w1.toNat v
  return outK k { c with w1 := c.w1 + 1#64 }

/-- COIT (R281). -/
def wkCoit (word : DWord) (union : Bool) (f : Fibre) (ka kb : Nat) (dpair : Option (Nat × Nat)) : Wk CursOut := do
  let a := getK f ka
  let b := getK f kb
  if dpair.isSome then
    let as ← wkTryLevel ka a
    let bs ← wkTryLevel kb b
    if as.any Lvl.wide || bs.any Lvl.wide then wkPairs word dpair.toList
  wkLoaded ka a false
  wkLoaded kb b false
  wkLoaded ka a true
  wkLoaded kb b true
  let la ← wkLevel ka a
  let lb ← wkLevel kb b
  if union && decide (la.kind = 3) then lvlTrap la ka 0
  if union && decide (lb.kind = 3) then lvlTrap lb kb 0
  let wide := la.wide || lb.wide
  let ones : DWord := if wide then BitVec.allOnes 64 else 0xFFFFFFFF#64
  if union then
    let va := if curDone a then ones else a.w3
    let vb := if curDone b then ones else b.w3
    return { ks := [(ka, a), (kb, b)], d := some (if va.toNat ≤ vb.toNat then va else vb, wide), fl := 0 }
  else if curDone a || curDone b then
    return { ks := [(ka, setDone la a), (kb, setDone lb b)], d := some (ones, wide), fl := 0 }
  else
    let pa := decPos la a.w1
    let pb := decPos lb b.w1
    let hit : Option (WPos × WPos) ← (do
      if la.kind ≠ 3 ∧ lb.kind ≠ 3 then coitMeet la lb a b (max a.w3.toNat b.w3.toNat)
      else if aDrives la.kind lb.kind then wkDrive (fun _ _ => true) la lb a b wkFuel (← firstFrom la (boundOf la a) pa)
      else return (← wkDrive (fun _ _ => true) lb la b a wkFuel (← firstFrom lb (boundOf lb b) pb)).map Prod.swap)
    match hit with
    | none => return { ks := [(ka, setDone la a), (kb, setDone lb b)], d := some (ones, wide), fl := 0 }
    | some (qa, qb) =>
      let a' ← moveTo la a qa
      let b' ← moveTo lb b qb
      return { ks := [(ka, a'), (kb, b')], d := some (a'.w3, wide), fl := 0 }

/-- CVAL (R280). -/
def wkCval (word : DWord) (t : Fmt) (k : Nat) (c : Cursor) (dpair : Option (Nat × Nat)) : Wk CursOut := do
  if fmtPair t then wkPairs word dpair.toList
  wkLoaded k c true
  let lv ← wkLevel k c
  if !lv.hasval then lvlTrap lv k 3
  if curDone c then return { ks := [], d := some (0, fmtPair t), fl := 0 }
  let i ← childAt lv (decPos lv c.w1)
  let x ← wkVal lv i
  if lv.vt = t then return { ks := [], d := some (placeVal t x, fmtPair t), fl := 0 }
  let r := cvtVal t lv.vt .rne true (ofN64 x)
  return { ks := [], d := some (r.1, fmtPair t), fl := r.2 }

/-- CHEAP (R285). -/
def wkHeapNew (k : Nat) (c : Cursor) (heap : Nat) : Wk CursOut := do
  wkLoaded k c false
  if curDone c then throw (.trap 0x115 0 (k + 3 * 256))
  if curAppend c then throw (.trap 0x115 0 (k + 4 * 256))
  let lv ← wkLevel k c
  if lv.child = 0 then lvlTrap lv k 4
  let ch ← wkDesc k lv.child
  if ch.kind ≠ 1 ∨ !ch.seg then lvlTrap lv k 4
  let p ← childAt lv (decPos lv c.w1)
  let at_ := ch.pos + ofN64 (2 * ch.pw * p)
  let _ ← wkPlaces at_ (2 * ch.pw) true
  let nb ← wkChunk { ch with addr := lv.addr } k heap
  wkWrite at_ (leBytes ch.pw nb ++ leBytes ch.pw nb)
  return outK k { w0 := mkW0 lv.child 1 false true, w1 := ofN64 nb, w2 := ofN64 (nb + ch.ce - 1),
                  w3 := ofN64 (p % 2 ^ 40 + heap % 16 * 2 ^ 40) }

/-- The walk of a cursor instruction of one fibre (R276 to R287). -/
def cursWalk (i : Instr) (f : Fibre) (args : List WArg) (dpair : Option (Nat × Nat)) : Wk CursOut := do
  let word := wordOf i
  let arg (j : Nat) : WArg := getD args j ⟨0, 0, none⟩
  match i with
  | .cload _ d _ =>
    let lv ← wkDesc d.toNat (arg 0).v64
    return outK d.toNat (← enterLevel lv 0)
  | .cnext _ d =>
    let k := d.toNat
    let c := getK f k
    wkLoaded k c true
    let lv ← wkLevel k c
    if curDone c then return outK k c
    return outK k (← moveOr lv c (← nextPos lv (boundOf lv c) (decPos lv c.w1)))
  | .cseek _ ge d _ =>
    let k := d.toNat
    let c := getK f k
    wkPairsAt word k c (arg 0).bad.isSome (fun lv => [if lv.wide then (arg 0).bad else none])
    wkLoaded k c true
    let lv ← wkLevel k c
    if ge && decide (lv.kind = 3) then lvlTrap lv k 1
    let x := wkArg lv.wide (arg 0)
    if curDone c then return outK k c
    if lv.kind = 3 then
      match ← lookupHash lv c x.toNat with
      | some q => return outK k { c with w1 := encPos lv (curL c) (q, 0), w3 := x }
      | none => return outK k (setDone lv c)
    else
      let c' ← moveOr lv c (← seekGE lv (boundOf lv c) (decPos lv c.w1) x.toNat)
      return outK k (if !ge && !curDone c' && decide (c'.w3 ≠ x) then setDone lv c' else c')
  | .cdesc _ d a =>
    let c := getK f a.toNat
    wkLoaded a.toNat c true
    let lv ← wkLevel a.toNat c
    if lv.child = 0 then lvlTrap lv a.toNat 2
    let ch ← wkDesc d.toNat lv.child
    if curDone c then
      return outK d.toNat { w0 := mkW0 lv.child ch.kind true false, w1 := 0, w2 := 0, w3 := BitVec.allOnes 64 }
    return outK d.toNat (← enterLevel ch (← childAt lv (decPos lv c.w1)))
  | .coit _ u _ a b => wkCoit word u f a.toNat b.toNat dpair
  | .ccrd _ _ a =>
    let c := getK f a.toNat
    wkPairsAt word a.toNat c dpair.isSome (fun lv => [if lv.wide then dpair else none])
    wkLoaded a.toNat c true
    let lv ← wkLevel a.toNat c
    return { ks := [], d := some (if lv.wide then c.w3 else zext (lo32 c.w3), lv.wide), fl := 0 }
  | .cval _ t _ a => wkCval word t a.toNat (getK f a.toNat) dpair
  | .capp _ d _ _ => wkAppend word d.toNat (getK f d.toNat) (arg 0) (arg 1)
  | .cfin _ d =>
    let k := d.toNat
    let c := getK f k
    wkLoaded k c false
    if !curAppend c then throw (.trap 0x115 0 (k + 256))
    if curDone c then throw (.trap 0x115 0 (k + 3 * 256))
    let lv ← wkLevel k c
    wkWrite (lv.pos + ofN64 (2 * lv.pw * getF c.w3 0 40 + lv.pw)) (leBytes lv.pw c.w1.toNat)
    return outK k { c with w0 := setB c.w0 60 true, w3 := BitVec.allOnes 64 }
  | .csave _ a _ =>
    let c := getK f a.toNat
    wkLoaded a.toNat c false
    let at_ := (arg 0).v64
    wkWrite at_ (leBytes 8 c.w0.toNat ++ leBytes 8 c.w1.toNat ++ leBytes 8 c.w2.toNat ++ leBytes 8 c.w3.toNat)
    return { ks := [], d := none, fl := 0 }
  | .crest _ d _ =>
    let at_ := (arg 0).v64
    let v ← (List.range 4).mapM (fun j => do return ofN64 (← wkRead (at_ + ofN64 (8 * j)) 8))
    return outK d.toNat { w0 := getD v 0 0, w1 := getD v 1 0, w2 := getD v 2 0, w3 := getD v 3 0 }
  | .cheap _ d _ => wkHeapNew d.toNat (getK f d.toNat) (lo32 (arg 0).v32).toNat
  | _ => return { ks := [], d := none, fl := 0 }

/-- Run a walk from a state. -/
def runWalk (s : State) (e : WkEnv) (w : Wk CursOut) : Except WkStop (CursOut × WkSt) :=
  (w.run e).run { s, steps := 0, lines := [], writes := [] }

/-! ## What a completed walk does -/

/-- Send one unit of a walker write, after the line of the L1 has been written back and dropped (R274), or hold it (R246). With the unit comes
the share of the store counter that it stands for while held. -/
def sendWalkerUnit (num : Nat) (w : Who) (s : State) (u : Nat × List (Place × Byte)) : State :=
  let lines := placeLines (u.2.map (·.1))
  let hold (s : State) (act : HeldAct) : State := holdAccess s w none u.1 lines act
  match u.2 with
  | (.mem _ a, _) :: _ =>
    let cells := u.2.filterMap (fun x => match x.1 with | .mem _ a => some (a, x.2) | _ => none)
    let s := metaWrite (l1Flush s w.core (a / 64)) w.core cells
    if mustHold s w lines false then hold s (.send (reqOf s w (homeDie a) (.write (.store w.fid w.cush num) cells)))
    else sendUnit num w s u.2
  | (.remote pkg kind pa, _) :: _ =>
    if mustHold s w lines false then
      hold s (.far (reqOf s w 0 (.write (.store w.fid w.cush num) [])) pkg kind pa
        (.write ((List.range u.2.length).zip u.2 |>.map (fun p => (pa + p.1, p.2.2)))))
    else sendUnit num w s u.2
  | _ => s

/-- Units of at most 16 B (R234, R283). -/
def halves {α : Type} (xs : List α) : List (List α) := if 16 < xs.length then [xs.take 16, xs.drop 16] else [xs]

/-- A walker write counts once in the store counter, in however many units it goes (R45, R274, R283). -/
def sendWalkerWrite (w : Who) (s : State) (x : WkWrite) : State :=
  let p := fresh (countUp s w.fid w.cush 1)
  let us := (unitsOf p.1 false (x.places.zip ((List.range x.bytes.length).zip x.bytes))).2.flatMap halves
  us.foldl (fun s u =>
    let off := ((u.head?).map (·.2.1)).getD 0
    sendWalkerUnit p.2 { w with va := x.va + ofN64 off } s (if off = 0 then 1 else 0, u.map (fun y => (y.1, y.2.2)))) p.1

/-- The effects of a completed walk: cache lines used, writes sent, cursors and flags of the fibre. -/
def commitWalk (w : Who) (o : CursOut) (st : WkSt) (f : Fibre) : State :=
  let s := st.lines.foldl (metaUse w.core) st.s
  let s := st.writes.foldl (sendWalkerWrite w) s
  let s := updFibre s w.fid (fun f => o.ks.foldl (fun f k => setK f k.1 k.2) f)
  raiseFlags s f o.fl

/-- Write a walk's result to its x destination (R280, R281). -/
def putWide (d : Dst) (v : DWord) (wide : Bool) (f : Fibre) : Fibre :=
  match d with
  | .x i => if wide then setX64 f i.toNat v else setX f i.toNat (lo32 v)
  | _ => f

/-! ## Issue -/

/-- Operands of a cursor instruction as read at issue. -/
def wArg (ex : Ex) (f : Fibre) (word : DWord) (u : SrcU) : WArg :=
  { v32 := srcVal ex f [] { u with words := 1 }
    v64 := match u.src with
      | .x i => if i.toNat % 2 = 0 then getX64 f i.toNat else 0
      | _ => srcVal ex f [] { u with words := 2 }
    bad := (firstViol (srcViols ex f word { u with words := 2 })).map (fun v => (v.syn, v.det)) }

/-- The destination of CCRD, CVAL and COIT: class x, or none with WS (R275). -/
def dWalk (words : Nat) (d : Dst) : DstU := { field := 0, dst := d, words, chan := false, xOnly := true, wsNone := true }

/-- A pair destination's violation. -/
def dPair (ex : Ex) (f : Fibre) (word : DWord) (ws : Bool) (d : Option Dst) : Option (Nat × Nat) :=
  match d with
  | none => none
  | some d => (firstViol (dstViols ex f word ws (dWalk 2 d))).map (fun v => (v.syn, v.det))

/-- A cursor instruction over the focused frond: the fibres whose walk hits complete now; a walker miss parks the fibre and
the walker completes the instruction (R272). `ks`: the cursors written. -/
def cursExec (i : Instr) (h : Hdr) (srcs : List SrcU) (d : Option Dst) (ks : List (BitVec 4)) (aligned : List DWord → List Viol)
    (s : State) : State :=
  let word := wordOf i
  let env (s : State) (ex : Ex) (f : Fibre) : WkEnv :=
    { who := whoOf ex f 0, issue := true, stcnt := stcntOf s f.fid, fetched := [] }
  let run (s : State) (ex : Ex) (f : Fibre) : Except WkStop (CursOut × WkSt) :=
    runWalk s (env s ex f) (cursWalk i f (srcs.map (wArg ex f word)) (dPair ex f word h.ws d))
  -- an operand is read as a pair where the cursor's values are wide: both registers of it (R418; log entry 40)
  frondExec i h { shape srcs (d.map (dWalk 1)) with more := srcs.map (fun u => { u with words := max 2 u.words }) }
    (fun ex f vs => aligned vs ++ (match run s ex f with
      | .error (.trap syn w3 det) => [viol syn 0 w3 det]
      | _ => []))
    (fun ex lanes s =>
      let acts := lanes.filter (·.act)
      let r := acts.foldl (fun (st : State × List (Fibre × DWord × Bool)) l =>
        match run st.1 ex l.f with
        | .ok (o, w) =>
          let s := commitWalk (whoOf ex l.f 0) o w l.f
          match o.d, d with
          | some v, some d => (if h.ws then s else updFibre s l.f.fid (putWide d v.1 v.2), st.2 ++ [(l.f, v.1, v.2)])
          | _, _ => (s, st.2)
        | .error (.fail e) => (failFibre st.1 l.f ex.pc e, st.2)
        | .error (.trap syn w3 det) =>
          let p := fresh st.1
          (takeTrap (splitOff p.1 ex.frond [l.f.fid] p.2 0) l.f.fid syn ex.pc w3 det, st.2)
        | .error _ =>
          let dg := match d, h.ws with | some (.x i), false => granulesOf i.toNat 1 | _, _ => 0
          let dk := ks.foldl (fun m k => m ||| BitVec.ofNat 16 (2 ^ k.toNat)) 0#16
          let n := ks.length + (if dg = 0 then 0 else 1)
          let job : WalkerJob := { fid := l.f.fid, core := ex.core, instr := i, pc := ex.pc, args := srcs.map (wArg ex l.f word)
                                   dpair := dPair ex l.f word h.ws d, asked := [], fetched := [], frond := ex.frond.fr
                                   join := max 1 n, due := [] }
          (parkFibre st.1 ex.frond.fr l.f
            { at_ := some ex.pc, resume := ex.pc + 8#64, wait := .reply, join := max 1 n, dstG := dg, dstK := dk }
            (fun s => { s with jobs := s.jobs ++ [job] }), st.2)) (s, [])
      let s := if d.isSome && !r.2.isEmpty then
          pushLatch r.1 ex (r.2.any (·.2.2)) (r.2.map (fun x => (x.1, x.2.1)))
        else r.1
      (pump s, acts.any (fun l => ((getFrond s ex.frond.fr).map (fun f => !f.members.contains l.f.fid)).getD true))) s

/-- A misaligned handle or address (R391). -/
def handleViols (bits : Nat) (vs : List DWord) : List Viol :=
  if getF (opv vs 0) 0 bits = 0 then [] else [viol 0x10F 0 (opv vs 0) bits]

/-- CLOAD (R276). -/
def execCload (h : Hdr) (d : BitVec 4) (a : Src) (s : State) : Host.Outcome State Fault Refusal :=
  .next (cursExec (.cload h d a) h [sG 1 a] none [d] (handleViols 6) s)

/-- CNEXT (R277). -/
def execCnext (h : Hdr) (d : BitVec 4) (s : State) : Host.Outcome State Fault Refusal :=
  .next (cursExec (.cnext h d) h [] none [d] (fun _ => []) s)

/-- CSEEK (R278). -/
def execCseek (h : Hdr) (ge : Bool) (d : BitVec 4) (a : Src) (s : State) : Host.Outcome State Fault Refusal :=
  .next (cursExec (.cseek h ge d a) h [sNoChan 1 1 a] none [d] (fun _ => []) s)

/-- CDESC (R279). -/
def execCdesc (h : Hdr) (d a : BitVec 4) (s : State) : Host.Outcome State Fault Refusal :=
  .next (cursExec (.cdesc h d a) h [] none [d] (fun _ => []) s)

/-- COIT (R281). -/
def execCoit (h : Hdr) (union : Bool) (d : Dst) (a b : BitVec 4) (s : State) : Host.Outcome State Fault Refusal :=
  .next (cursExec (.coit h union d a b) h [] (some d) [a, b] (fun _ => []) s)

/-- CCRD (R280). -/
def execCcrd (h : Hdr) (d : Dst) (a : BitVec 4) (s : State) : Host.Outcome State Fault Refusal :=
  .next (cursExec (.ccrd h d a) h [] (some d) [] (fun _ => []) s)

/-- CVAL (R280). -/
def execCval (h : Hdr) (t : Fmt) (d : Dst) (a : BitVec 4) (s : State) : Host.Outcome State Fault Refusal :=
  .next (cursExec (.cval h t d a) h [] (some d) [] (fun _ => []) s)

/-- CAPP (R286). -/
def execCapp (h : Hdr) (d : BitVec 4) (a b : Src) (s : State) : Host.Outcome State Fault Refusal :=
  .next (cursExec (.capp h d a b) h [sNoChan 1 1 a, sNoChan 1 2 b] none [d] (fun _ => []) s)

/-- CFIN (R287). -/
def execCfin (h : Hdr) (d : BitVec 4) (s : State) : Host.Outcome State Fault Refusal :=
  .next (cursExec (.cfin h d) h [] none [d] (fun _ => []) s)

/-- CSAVE (R283). -/
def execCsave (h : Hdr) (a : BitVec 4) (b : Src) (s : State) : Host.Outcome State Fault Refusal :=
  .next (cursExec (.csave h a b) h [sBase 2 2 b] none [] (handleViols 5) s)

/-- CREST (R283). -/
def execCrest (h : Hdr) (d : BitVec 4) (a : Src) (s : State) : Host.Outcome State Fault Refusal :=
  .next (cursExec (.crest h d a) h [sBase 2 1 a] none [d] (handleViols 5) s)

/-- CHEAP (R285). -/
def execCheap (h : Hdr) (d : BitVec 4) (a : Src) (s : State) : Host.Outcome State Fault Refusal :=
  .next (cursExec (.cheap h d a) h [sNoChan 1 1 a] none [d] (fun _ => []) s)

/-! ## The walker of a parked fibre (R272) -/

/-- The destination of a cursor instruction's result, if it writes one. -/
def cursDst (i : Instr) : Option Dst :=
  match i with
  | .coit h _ d _ _ | .ccrd h d _ | .cval h _ d _ => if h.ws then none else some d
  | _ => none

def updJob (s : State) (fid : Nat) (g : WalkerJob → WalkerJob) : State := { s with jobs := updIf (fun j => j.fid == fid) g s.jobs }
def dropJob (s : State) (fid : Nat) : State := { s with jobs := s.jobs.filter (fun j => j.fid != fid) }

/-- Write a line's dirty words back; they stay valid and clean. -/
def writeBackClean (s : State) (core line : Nat) : State :=
  match l1Get s core line with
  | none => s
  | some l =>
    let s := writeBackLine s l
    { s with l1 := updIf (fun (k : Line) => k.core == core && k.line == line) (cleanedAt s.nextId) s.l1 }

/-- A walker's fetch of 64 B of a remote page (R272, R273). -/
def askRemote (s : State) (w : Who) (pkg kind pa : Nat) : State :=
  let key := placeLine (.remote pkg kind pa)
  if (s.jobs.find? (fun j => j.fid == w.fid)).any (fun j => j.asked.contains key) then s
  else
    let s := updJob s w.fid (fun j => { j with asked := j.asked ++ [key] })
    sendRemote s (reqOf s w 0 (.read (.walker w.fid) ((List.range 64).map (fun i => (pa + i, key * 64 + i))))) pkg kind pa (.read 64)

/-- What lands in the spore once a walk is done, one reply each (R44, R272); `num`: the number of the first write it has made. -/
def landings (i : Instr) (o : CursOut) (num : Nat) : List WkLand :=
  let ls := o.ks.map (fun k => WkLand.cursor k.1 k.2) ++
    (match o.d, cursDst i with | some v, some d => [WkLand.reg d v.1 v.2] | _, _ => [])
  if ls.isEmpty then [.done num] else ls

def WkLand.put : WkLand → Fibre → Fibre
  | .cursor k c, f => setK f k c
  | .reg d v wide, f => putWide d v wide f
  | .done _, f => f

/-- Granules and cursors that replies are due into. -/
def landG (ls : List WkLand) : BitVec 16 :=
  ls.foldl (fun m l => match l with | .reg (.x i) _ _ => m ||| granulesOf i.toNat 1 | _ => m) 0
def landK (ls : List WkLand) : BitVec 16 :=
  ls.foldl (fun m l => match l with | .cursor k _ => m ||| BitVec.ofNat 16 (2 ^ k) | _ => m) 0

/-- A reply that still waits: part of the write it stands for is held in the core (R246, R283). -/
def WkLand.waits (s : State) (fid : Nat) : WkLand → Bool
  | .done num => s.held.any (fun h => match h.act with
    | .send r | .far r _ _ _ _ => (match r.op with
      | .write (.store g _ m) _ => g == fid && m == num
      | _ => false)
    | _ => false)
  | _ => false

/-- Land the first of the replies that a job owes (R44), once it may land. -/
def landWalk (s : State) (fid : Nat) (ls : List WkLand) : State :=
  match ls with
  | [] => wake (dropJob s fid) fid
  | l :: rest =>
    if l.waits s fid then updJob s fid (fun j => { j with due := ls }) else
    let s := if rest.isEmpty then dropJob s fid else updJob s fid (fun j => { j with due := rest })
    landOne l.put (landG rest) (landK rest) false s fid

/-- The walker stands still for a carpet that a fault has stopped (R373). -/
def carpetDead (s : State) (carpet : Nat) : Bool := ((getCarpet s carpet).map (·.dead)).getD true

/-- WALKER_COMPLETE: the walker of a parked fibre completes its instruction, or lands the next of its replies (R272, R384, R407). -/
def execWalkerComplete (fid : Nat) (s : State) : Host.Outcome State Fault Refusal :=
  match s.jobs.find? (fun j => j.fid == fid), getFibre s fid with
  | some j, some f =>
    if f.status ≠ .parked ∨ f.wait ≠ .reply then .next s
    else if !j.due.isEmpty then .next (landWalk s fid j.due)
    else if carpetDead s f.carpet then .next s
    else
      let asid := asidOf s f.carpet
      let w : Who := { core := j.core, carpet := f.carpet, asid, fid, cush := f.cush, pc := j.pc, va := 0, w2 := fibreW2 s f }
      let env : WkEnv := { who := w, issue := false, stcnt := f.stcnt, fetched := j.fetched }
      match runWalk s env (cursWalk j.instr f j.args j.dpair) with
      | .ok (o, st) =>
        let s := st.lines.foldl (metaUse w.core) st.s
        let num := s.nextId
        let s := st.writes.foldl (sendWalkerWrite w) s
        .next (landWalk (raiseFlags s f o.fl) fid (landings j.instr o num))
      | .error (.trap syn w3 det) =>
        let s := dropJob s fid
        .next (takeTrap (updFibre s fid (wakeFibre s)) fid syn j.pc w3 det)
      | .error (.fail e) => .next (failFibre s f j.pc e)
      | .error (.fatal syn w3 w4) => .next (fatalFibre s f syn j.pc w3 w4 false)
      | .error (.pageFault va acc level) =>
        let s := updFibre s fid (fun f => { f with wait := .replay, joinCnt := 1 })
        .next (holdReplay s (dieOf j.core) asid va (.fibre fid va acc j.pc) (replayRec s f .walker j.pc va level))
      | .error (.flush line) => .next (writeBackClean s j.core line)
      | .error (.ask va pkg kind pa) => .next (askRemote s { w with va } pkg kind pa)
      | .error (.poison p) => .next (poisonRead s p 0 (some f.carpet) (some j.core))
      | .error (.walk va) => .next (queueWalk s (dieOf j.core) asid va [] (some (missedBy s f .walker j.pc)))
      | .error .miss => .next s
  | _, _ => .next s

end Sys2Proof.Machine
end

