-- ==== Sys2Proof/Machine/Tile.lean ====
section
/-! DEFINITION. Tiles (R294 to R297): fields, element places, rows of codes and values, state changes; conversion and block
quantisation of exact values (R129 to R134); and the TILE instructions (R311, R392). -/

namespace Sys2Proof.Machine

/-! ## Fields (R294) -/

def tlBase (t : Tile) : Nat := getF t.w0 0 19
def tlPitch (t : Tile) : Nat := getF t.w0 19 16
def tlSeq (t : Tile) : Nat := getF t.w0 35 19
def tlRows (t : Tile) : Nat := getF t.w1 0 11
def tlCols (t : Tile) : Nat := getF t.w1 11 11
def tlCode (t : Tile) : Nat := getF t.w1 22 5
def tlFmt (t : Tile) : Fmt := (decFmt (BitVec.ofNat 5 (tlCode t))).getD .n8
def tlRot (t : Tile) : Nat := getF t.w1 27 3
def tlXact (t : Tile) : Bool := getB t.w1 30
def tlSide (t : Tile) : Nat := getF t.w1 31 6
def tlBlock (t : Tile) : Bool := decide (16 ≤ tlCode t)

def emptyTile : Tile := { w0 := 0, w1 := 0, st := .empty, relpend := false, wclaim := false, readers := 0, live := 0 }
def getTile (c : Cushion) (i : Nat) : Tile := getD c.tiles i emptyTile

/-- Elements of a block (R132, R133) and side bytes of one (R296). -/
def blkSize (f : Fmt) : Nat := match f with | .ds8 | .ds4 => 48 | _ => 32
def blkSide (f : Fmt) : Nat := match f with | .ds8 | .ds4 => 2 | _ => 1

/-- The unrotated row span, and the span (R295). -/
def rawSpan (t : Tile) : Nat := divUp (tlCols t * fmtBits (tlFmt t)) 8
def tlSpan (t : Tile) : Nat := if tlRot t = 0 then rawSpan t else roundUp (rawSpan t) 128

/-- One past the last byte of tile i of the sequence (R295). -/
def tlEnd (t : Tile) (i : Nat) : Nat := tlBase t + i * tlSeq t + (tlRows t - 1) * tlPitch t + tlSpan t

/-- The scratch offset of row byte b of row r of tile i of the sequence (R295). -/
def tlOff (t : Tile) (i r b : Nat) : Nat :=
  let rs := if tlRot t = 0 then 0 else 2 ^ (tlRot t - 1)
  tlBase t + i * tlSeq t + r * tlPitch t + 128 * (b / 128) + (b + 4 * (r * rs % 32)) % 128

/-! ## Rows of bytes and codes -/

/-- The unrotated bytes of a row. -/
def rowBytes (c : Cushion) (t : Tile) (i r : Nat) : List Byte := (List.range (rawSpan t)).map (fun b => memRead c.scratch (tlOff t i r b))

/-- The codes of n elements packed in bytes (R121). -/
def unpackCodes (eb n : Nat) (bs : List Byte) : List Nat :=
  (List.range n).map (fun j =>
    if eb = 4 then (getD bs (j / 2) 0).toNat / 16 ^ (j % 2) % 16
    else ofBytes ((bs.drop (j * (eb / 8))).take (eb / 8)))

/-- Codes packed into bytes (R121); an odd last 4-bit element leaves the upper half 0. -/
def packCodes (eb : Nat) (cs : List Nat) : List Byte :=
  if eb = 4 then (List.range (divUp cs.length 2)).map (fun b => BitVec.ofNat 8 (getD cs (2 * b) 0 % 16 + 16 * (getD cs (2 * b + 1) 0 % 16)))
  else cs.flatMap (fun c => leBytes (eb / 8) c)

/-- The codes of the first n columns of a row. -/
def rowCodes (c : Cushion) (t : Tile) (i r n : Nat) : List Nat := unpackCodes (fmtBits (tlFmt t)) n (rowBytes c t i r)

/-- The scratch cells of a row's bytes from row byte b0. -/
def rowCells (t : Tile) (i r b0 : Nat) (bs : List Byte) : List (Nat × Byte) :=
  (List.range bs.length).zip bs |>.map (fun p => (tlOff t i r (b0 + p.1), p.2))

/-- Write bytes in scratch; the poison of the words they cover whole clears (R418). -/
def scratchWrite (c : Cushion) (cells : List (Nat × Byte)) : Cushion :=
  { c with
    scratch := memWriteAll c.scratch cells
    bad := if c.bad.isEmpty then [] else c.bad.filter (fun w => !(List.range 4).all (fun j => cells.any (fun b => b.1 == 4 * w + j))) }

/-- Some bytes of scratch lie in a poisoned word (R418). -/
def scratchBad (c : Cushion) (offs : List Nat) : Bool := !c.bad.isEmpty && offs.any (fun o => c.bad.contains (o / 4))

/-- The side tile of a block tile (R296). -/
def sideOf (c : Cushion) (t : Tile) : Option Tile := if tlBlock t then some (getTile c (tlSide t)) else none

/-- A byte of a row or of its side row lies in a poisoned word (R418). -/
def rowBad (c : Cushion) (t : Tile) (i r : Nat) : Bool :=
  let bad (t : Tile) : Bool := scratchBad c ((List.range (rawSpan t)).map (tlOff t i r))
  bad t || (match sideOf c t with | some sd => bad sd | none => false)

/-- The side bytes of a row. -/
def sideBytes (c : Cushion) (t : Tile) (i r : Nat) : List Nat :=
  match sideOf c t with
  | some sd => (rowBytes c sd i r).map (·.toNat)
  | none => []

/-! ## Values (R120, R132, R133) -/

/-- A finite value times 2^k. -/
def fvShift (v : FV) (k : Int) : FV :=
  match v with
  | .fin n m e => .fin n m (e + k)
  | v => v

/-- The value of an element by its code, its column, and the row's side bytes. -/
def elemVal (f : Fmt) (side : List Nat) (col code : Nat) : FV :=
  let ds (mb off : Nat) : FV :=
    let e := getD side (2 * (col / 48) + code / 2 ^ (mb + 1) % 2) 0
    if e = 255 then .nan false else .fin (decide (code / 2 ^ mb % 2 = 1)) (code % 2 ^ mb) ((e : Int) - off)
  let mx (g : Fmt) : FV :=
    let x := getD side (col / 32) 0
    if x = 255 then .nan false else fvShift (decFloat (fInfo g) code) ((x : Int) - 127)
  match f with
  | .mx8 => mx .e4m3
  | .mx4 => mx .e2m1
  | .ds8 => ds 6 132
  | .ds4 => ds 2 128
  | _ => decVal f code

def codesVals (f : Fmt) (side codes : List Nat) : List FV :=
  (List.range codes.length).zip codes |>.map (fun p => elemVal f side p.1 p.2)

/-! ## Conversion of exact values (R129 to R131) -/

/-- One element with SAT 1, in a mode; an integer source saturates without a flag (R131). -/
def toElem (f : Fmt) (mode : Rnd) (fromInt : Bool) (v : FV) : Nat × BitVec 5 :=
  if f.isFloat then
    let r := roundTo (fInfo f) mode true false v
    (r.1, r.2 ||| (if v.isSig then flNV else 0))
  else if fromInt then
    match v with
    | .fin neg m e => (intToInt f true (if neg then -(m * 2 ^ e.toNat : Nat) else (m * 2 ^ e.toNat : Nat)), 0)
    | _ => (0, 0)
  else roundInt f mode v

/-! ## Block quantisation (R132, R134) -/

def fvSpecial (v : FV) : Bool := match v with | .fin _ _ _ => false | _ => true

/-- floor (log2 |v|) of a nonzero finite value. -/
def fvTop (v : FV) : Int := match v with | .fin _ m e => (m.log2 : Int) + e | _ => 0

def fvZero (v : FV) : Bool := match v with | .fin _ m _ => m == 0 | _ => false

def fvAbs (v : FV) : FV := match v with | .fin _ m e => .fin false m e | v => v

/-- The largest magnitude of a list of finite values. -/
def fvMax (vs : List FV) : FV := vs.foldl (fun a v => if fvLt a (fvAbs v) then fvAbs v else a) (.fin false 0 0)

/-- An MX block: codes, side byte, flags (R132). Of the rounding of an element R132 names inexact alone: the model raises neither the overflow of
R130 nor the underflow of R125 there (DESIGN CHOICE, log entry 39). -/
def quantMX (g : Fmt) (vs : List FV) : List Nat × List Nat × BitVec 5 :=
  if vs.any fvSpecial then (vs.map (fun _ => 0), [255], flNV)
  else
    let amax := fvMax vs
    let emax : Int := if g = .e4m3 then 8 else 2
    let x : Int := if fvZero amax then 0 else max 0 (min 254 (fvTop amax - emax + 127))
    let r := vs.map (fun v => roundTo (fInfo g) .rne true false (fvShift v (127 - x)))
    (r.map (·.1), [x.toNat], if r.any (fun p => p.2 &&& flNX != 0) then flNX else 0)

/-- rint (|v| 2^k). -/
def rintAbs (v : FV) (k : Int) : Nat := match v with | .fin _ m e => (roundMag .rne false m (e + k) 0).1 | _ => 0

/-- | |v| - n 2^k |. -/
def absErr (v : FV) (n : Nat) (k : Int) : FV :=
  match v with
  | .fin _ m e => let d := finSum false m e true n k; .fin false d.1.natAbs d.2
  | v => v

/-- A DS block: codes, the exponent pair, flags (R134). -/
def quantDS (mb off : Nat) (vs : List FV) : List Nat × List Nat × BitVec 5 :=
  if vs.any fvSpecial then (vs.map (fun _ => 0), [255, 255], flNV)
  else
    let q := 2 ^ mb - 1
    let amax := fvMax vs
    let fits (e : Nat) : Bool := decide (rintAbs amax ((off : Int) - e) ≤ q)
    let e0 := if fvZero amax then 0 else ((List.range 255).find? fits).getD 254
    let e1 := e0 - 4
    let r := vs.map (fun v =>
      let m0 := min (rintAbs v ((off : Int) - e0)) q
      let m1 := min (rintAbs v ((off : Int) - e1)) q
      let d0 := absErr v m0 ((e0 : Int) - off)
      let d1 := absErr v m1 ((e1 : Int) - off)
      let sgn := if v.isNeg then 2 ^ mb else 0
      if fvLt d1 d0 then (2 ^ (mb + 1) + sgn + m1, fvZero d1) else (sgn + m0, fvZero d0))
    (r.map (·.1), [e0, e1], if r.any (fun p => !p.2) then flNX else 0)

/-- Quantise one block into a block format. -/
def quantBlock (f : Fmt) (vs : List FV) : List Nat × List Nat × BitVec 5 :=
  match f with
  | .mx8 => quantMX .e4m3 vs
  | .mx4 => quantMX .e2m1 vs
  | .ds8 => quantDS 6 132 vs
  | _ => quantDS 2 128 vs

/-- Quantise a row block by block: codes, side bytes, flags. -/
def quantRow (f : Fmt) (vs : List FV) : List Nat × List Nat × BitVec 5 :=
  let n := blkSize f
  (List.range (divUp vs.length n)).foldl (fun (a : List Nat × List Nat × BitVec 5) b =>
    let q := quantBlock f ((vs.drop (n * b)).take n)
    (a.1 ++ q.1, a.2.1 ++ q.2.1, a.2.2 ||| q.2.2)) ([], [], 0)

/-- A row of exact values in a format: codes, side bytes, flags. -/
def convRow (f : Fmt) (mode : Rnd) (fromInt : Bool) (vs : List FV) : List Nat × List Nat × BitVec 5 :=
  if f.isBlock then quantRow f vs
  else
    let r := vs.map (toElem f mode fromInt)
    (r.map (·.1), [], r.foldl (fun a p => a ||| p.2) 0)

/-- Write a row of codes with its side bytes into tile i of a sequence. -/
def writeRow (c : Cushion) (t : Tile) (i r : Nat) (codes side : List Nat) : Cushion :=
  let c := scratchWrite c (rowCells t i r 0 (packCodes (fmtBits (tlFmt t)) codes))
  match sideOf c t with
  | some sd => scratchWrite c (rowCells sd i r 0 (side.map (fun x => BitVec.ofNat 8 x)))
  | none => c

/-! ## State changes (R297) -/

/-- A state change of a tile and of its side tile (R296). -/
def updTile (c : Cushion) (i : Nat) (g : Tile → Tile) : Cushion :=
  let t := getTile c i
  let c := { c with tiles := setAt emptyTile c.tiles i (g t) }
  if tlBlock t then { c with tiles := setAt emptyTile c.tiles (tlSide t) (g (getTile c (tlSide t))) } else c

def updTileS (s : State) (cid i : Nat) (g : Tile → Tile) : State := updCush s cid (fun c => updTile c i g)

/-- The last reader of a RELPEND tile has finished. -/
def tlUnread (t : Tile) : Tile :=
  let n := t.readers - 1
  if n = 0 ∧ t.relpend then { t with readers := n, st := .empty, relpend := false } else { t with readers := n }

/-- A tile can be claimed by a writer. -/
def tlClaimable (t : Tile) : Bool := !t.wclaim && t.st != .filling && t.st != .draining

def stCode : TState → Nat
  | .empty => 0 | .filling => 1 | .ready => 2 | .draining => 3

/-- The 0x011C detail (R386). -/
def tileStateDet (i : Nat) (t : Tile) : Nat :=
  i + stCode t.st * 2 ^ 8 + t.wclaim.toNat * 2 ^ 10 + (if t.readers = 0 then 0 else 2 ^ 11)

/-! ## TILE instructions (R311, R392) -/

/-- The lowest field row of R294 that TLDEF's words break (0x011B). -/
def tileDefBad (scratch : Nat) (w0 w1 : DWord) : Option Nat :=
  let t : Tile := { emptyTile with w0, w1 }
  let fmtOk := decide (tlCode t ≤ 19)
  let blk := tlBlock t
  let bad : Nat → Bool
    | 0 => decide (tlBase t % 4 ≠ 0) || (fmtOk && decide (scratch < tlEnd t 0))
    | 1 => decide (tlPitch t % 4 ≠ 0) || (fmtOk && decide (tlPitch t < tlSpan t))
    | 2 => decide (tlSeq t % 4 ≠ 0)
    | 3 => decide (getF w0 54 10 ≠ 0)
    | 4 => decide (tlRows t = 0) || decide (1024 < tlRows t)
    | 5 => decide (tlCols t = 0) || decide (1024 < tlCols t) || (blk && fmtOk && decide (tlCols t % blkSize (tlFmt t) ≠ 0))
    | 6 => !fmtOk
    | 7 => decide (5 < tlRot t)
    | 8 => tlXact t && decide (tlCode t ≠ 11)
    | 9 => !blk && decide (tlSide t ≠ 0)
    | _ => decide (getF w1 37 27 ≠ 0)
  (List.range 11).find? bad

/-- TLDEF (R297, R311). -/
def execTldef (h : Hdr) (d : BitVec 6) (a b : Src) (s : State) : Host.Outcome State Fault Refusal :=
  let i := d.toNat
  .next (frondExec (.tldef h d a b) h
    { shape [sG 1 a, sG 2 b] none with res := [{ field := 0, kind := 0, idx := i }], held := true, whole := true }
    (fun ex _ vs =>
      let t := getTile ex.cush i
      (match tileDefBad ex.car.ker.scratch (opv vs 0) (opv vs 1) with
        | some r => [viol 0x11B 0 0 (i + r * 2 ^ 8)]
        | none => []) ++
      (if tlClaimable t && t.readers == 0 then [] else [viol 0x11C 0 0 (tileStateDet i t)]))
    (fun ex lanes s =>
      match lanes.find? (·.act) with
      | none => (s, false)
      | some l =>
        let w1 := opv l.vals 1
        let t : Tile := { getTile ex.cush i with w0 := opv l.vals 0, w1 := w1, live := getF w1 11 11 }
        let s := updCush s ex.cush.cid (fun c => { c with tiles := setAt emptyTile c.tiles i t })
        (updTileS s ex.cush.cid i (fun t => { t with st := .ready, relpend := false }), false)) s)

/-- TLSTAT's value (R311). -/
def tlStatVal (t : Tile) : DWord :=
  ofN64 (stCode t.st + t.relpend.toNat * 4 + t.wclaim.toNat * 8 + (if t.readers = 0 then 0 else 16) + t.live * 2 ^ 16)

/-- TLSTAT (R311); an acquire at core scope needs no L1 action (R207, R237). -/
def execTlstat (h : Hdr) (d : Dst) (a : BitVec 6) (s : State) : Host.Outcome State Fault Refusal :=
  let i := a.toNat
  .next (frondExec (.tlstat h d a) h
    { shape [] (some (dNoChan d)) with res := [{ field := 1, kind := 0, idx := i }], held := true, whole := true }
    (fun _ _ _ => [])
    (fun ex lanes s =>
      (writeResult s ex h d false ((lanes.filter (·.act)).map (fun l => (l.f, tlStatVal (getTile ex.cush i)))), false)) s)

/-- TLREL (R297, R311). -/
def execTlrel (h : Hdr) (a : BitVec 6) (s : State) : Host.Outcome State Fault Refusal :=
  let i := a.toNat
  .next (frondExec (.tlrel h a) h
    { shape [] none with res := [{ field := 1, kind := 0, idx := i }], held := true, whole := true }
    (fun ex _ _ =>
      let t := getTile ex.cush i
      if t.st = .filling ∨ t.st = .draining then [viol 0x11C 0 0 (tileStateDet i t)] else [])
    (fun ex _ s =>
      (updTileS s ex.cush.cid i (fun t => if t.readers = 0 then { t with st := .empty } else { t with relpend := true }), false)) s)

/-- CVSET (R298, R311, R392): one value in every true slot; a slot whose operand is not allowed has none (R379, R382). -/
def execCvset (h : Hdr) (d : BitVec 4) (a : Src) (s : State) : Host.Outcome State Fault Refusal :=
  let i := d.toNat
  let op : Instr := .cvset h d a
  let u := sNoChan 1 1 a
  let sh : Shape := { shape [u] none with res := [{ field := 0, kind := 1, idx := i }], held := true, whole := true }
  let vals (ex : Ex) : List DWord :=
    (ex.lanes.filter (fun f => guardOf h f && (shapeViols ex f (wordOf op) h.ws sh).isEmpty)).map (fun f => srcVal ex f [] u)
  .next (frondExec op h sh
    (fun ex _ vs =>
      let n := (opv vs 0).toNat
      (if (vals ex).all (fun v => v == opv vs 0) then [] else [viol 0x108 1 (wordOf op) 1]) ++
      (if 1 ≤ n ∧ n ≤ 1024 then [] else [{ key := 17 * 64, syn := 0x112, w3 := 0, det := i + 2 * 2 ^ 8 }]) ++
      (if (getD ex.cush.cvs i ⟨0, 0, 0⟩).count = 0 then [] else [viol 0x112 0 0 (i + 2 ^ 8)]))
    (fun ex lanes s =>
      match lanes.find? (·.act) with
      | none => (s, false)
      | some l => (updCush s ex.cush.cid (fun c => { c with cvs := setAt ⟨0, 0, 0⟩ c.cvs i { expected := (opv l.vals 0).toNat, count := 0, word := 0 } }), false)) s)

end Sys2Proof.Machine
end

