-- ==== Sys2Proof/Machine/Matrix.lean ====
section
/-! DEFINITION. The matrix engine (R290 to R310, R312, R392, R415): classes, convergence-signed issue and the queue, power
grants, the arithmetic of the operations, and the steps of a running operation. -/

namespace Sys2Proof.Machine

/-! ## Tokens (R237, R316, R325) -/

def getTk (c : Cushion) (t : Nat) : Nat := getD c.tks t 0

/-- WAITs whose tokens are all zero complete: an acquire at package scope, then they go on (R237, R325). -/
def waitCheck (s : State) (cid : Nat) : State :=
  match getCush s cid with
  | none => s
  | some c =>
    (s.fibres.filter (fun f => f.cush == cid && f.status == .parked)).foldl (fun s f =>
      match f.wait with
      | .tokens m =>
        if (List.range 8).all (fun t => !m.getLsbD t || getTk c t == 0) then wake (acquireWork s f.core f.fid .package) f.fid else s
      | _ => s) s

def tokenUp (s : State) (cid t n : Nat) : State := updCush s cid (fun c => { c with tks := setAt 0 c.tks t (getTk c t + n) })

def tokenDown (s : State) (cid t n : Nat) : State :=
  waitCheck (updCush s cid (fun c => { c with tks := setAt 0 c.tks t (getTk c t - n) })) cid

/-! ## Classes (R290, R291) -/

/-- Rank of a format, the widest first. -/
def fmtRank (f : Fmt) : Nat :=
  match fmtBits f with
  | 64 => 0 | 32 => 1 | 16 => 2 | 8 => 3 | _ => 4

def rankKp (r : Nat) : Nat := getD [8, 24, 48, 96, 192] r 8
def rankLimit (r : Nat) : Nat := getD [32, 96, 192, 384, 768] r 32
def rankCost (r : Nat) : Nat := getD [4, 3, 2, 2, 3] r 4

/-- Pass depth, panel limit and cost of a product. -/
def prodKp (a w : Fmt) (xact : Bool) : Nat := if xact then 8 else rankKp (min (fmtRank a) (fmtRank w))
def prodLimit (a w : Fmt) (xact : Bool) : Nat := if xact then 32 else rankLimit (min (fmtRank a) (fmtRank w))
def prodCost (a w : Fmt) (xact : Bool) : Nat := if xact then 4 else rankCost (min (fmtRank a) (fmtRank w))

def fmtInt (f : Fmt) : Bool := match f with | .s8 | .n8 | .i4 => true | _ => false

/-- The accumulator kind of a product (R291). -/
def prodKind (a w : Fmt) (xact : Bool) : AccTag :=
  if xact then .x
  else if fmtInt a && fmtInt w then .i32
  else if a = .f64 ∨ w = .f64 then .f64 else .f32

def pairKind (k : AccTag) : Bool := k == .f64 || k == .x

/-! ## Accumulators (R292) -/

def emptyAcc : Acc := { tag := .z, elems := [], longs := [] }
def getAcc (c : Cushion) (i : Nat) : Acc := getD c.accs i emptyAcc
def accElem (a : Acc) (i : Nat) : Nat := ((a.elems.find? (fun e => e.1 == i)).map (·.2)).getD 0
def zeroLong : LongAcc := { l := 0, nan := false, pinf := false, ninf := false, wrap := 0 }
def accLong (a : Acc) (j : Nat) : LongAcc := ((a.longs.find? (fun e => e.1 == j)).map (·.2)).getD zeroLong

/-- The tiles an operation of a kind works on, by the index it names. -/
def accTiles (k : AccTag) (d : Nat) : List Nat := if pairKind k then [d, d + 1] else [d]

/-- The pair, by its even index, to which a tile belongs when both its tiles carry F64 or X. -/
def accPair (c : Cushion) (d : Nat) : Option Nat :=
  let e := d / 2 * 2
  let t := (getAcc c e).tag
  if pairKind t && (getAcc c (e + 1)).tag == t then some e else none

def setTags (c : Cushion) (is : List Nat) (t : AccTag) : Cushion :=
  { c with accs := is.foldl (fun l i => setAt emptyAcc l i { getD l i emptyAcc with tag := t }) c.accs }

/-- The part of a long accumulator in the first 200 bytes of its image, and the rest: image 59 of a pair lies across its two tiles (R292). -/
def loPart (a : LongAcc) : LongAcc := { zeroLong with l := a.l % 2 ^ 1600 }
def hiPart (a : LongAcc) : LongAcc := { a with l := a.l - a.l % 2 ^ 1600 }

/-- Contents of one tile. -/
def putAcc (l : List Acc) (i : Nat) (elems : List (Nat × Nat)) (longs : List (Nat × LongAcc)) : List Acc :=
  setAt emptyAcc l i { getD l i emptyAcc with elems := elems.filter (fun e => e.2 != 0), longs := longs.filter (fun e => e.2 != zeroLong) }

/-- Replace the contents of a tile, or of a pair, keeping the tags. Of a pair each tile takes its own half: the elements of 8 bytes from
4,096 on, and the images whose bytes lie above 32 KiB, are the odd tile's (R292). -/
def setAccData (c : Cushion) (is : List Nat) (elems : List (Nat × Nat)) (longs : List (Nat × LongAcc)) : Cushion :=
  match is with
  | [e, o] =>
    let mid := longs.filter (fun x => x.1 == 59)
    let l := putAcc c.accs e (elems.filter (fun x => decide (x.1 < 4096)))
      (longs.filter (fun x => decide (x.1 < 59)) ++ mid.map (fun x => (x.1, loPart x.2)))
    let l := putAcc l o (elems.filter (fun x => decide (4096 ≤ x.1)))
      (mid.map (fun x => (x.1, hiPart x.2)) ++ longs.filter (fun x => decide (59 < x.1)))
    { c with accs := l }
  | _ => { c with accs := is.foldl (fun l i => putAcc l i elems longs) c.accs }

/-- The elements of a tile, or of the pair at an even tile. -/
def accElems (c : Cushion) (k : AccTag) (d : Nat) : List (Nat × Nat) :=
  if pairKind k then ((getAcc c d).elems.filter (fun x => decide (x.1 < 4096))) ++ (getAcc c (d + 1)).elems.filter (fun x => decide (4096 ≤ x.1))
  else (getAcc c d).elems

def elemAt (c : Cushion) (k : AccTag) (d i : Nat) : Nat := if k = .f64 ∧ 4096 ≤ i then accElem (getAcc c (d + 1)) i else accElem (getAcc c d) i

/-- Long accumulator j of the pair at an even tile. -/
def pairLong (c : Cushion) (d j : Nat) : LongAcc :=
  let x := accLong (getAcc c d) j
  let y := accLong (getAcc c (d + 1)) j
  if j < 59 then x else if j = 59 then { y with l := x.l + y.l } else y

/-! ## Long accumulators (R138 to R140) -/

/-- WRAP with d added, held at its limits once reached. -/
def wrapAdd (w d : Int) : Int := if w = 32767 ∨ w = -32767 then w else max (-32767) (min 32767 (w + d))

/-- L with an integer added, and the wrap it takes. -/
def longSum (l t : Int) : Int × Int :=
  let s := l + t
  if 2 ^ 4351 ≤ s then (s - 2 ^ 4352, 1) else if s < -(2 ^ 4351) then (s + 2 ^ 4352, -1) else (s, 0)

/-- Add an exact product (R139). -/
def longAdd (a : LongAcc) (v : FV) : LongAcc :=
  match v with
  | .nan _ => { a with nan := true }
  | .inf neg => if neg then { a with ninf := true } else { a with pinf := true }
  | .fin neg m e =>
    let t : Int := (m * 2 ^ (e + 2176).toNat : Nat)
    let r := longSum a.l (if neg then -t else t)
    { a with l := r.1, wrap := wrapAdd a.wrap r.2 }

/-- Add an imported image (R139). WRAP counts the wrap of this addition and then W', and holds at its limits after each; R139 names no order (DESIGN
CHOICE, log entry 39). -/
def longImport (a b : LongAcc) : LongAcc :=
  let r := longSum a.l b.l
  { l := r.1, nan := a.nan || b.nan, pinf := a.pinf || b.pinf, ninf := a.ninf || b.ninf, wrap := wrapAdd (wrapAdd a.wrap r.2) b.wrap }

/-- The 552-byte image (R138). -/
def longImage (a : LongAcc) : List Byte :=
  let l : Int := a.l % ((2 ^ 4352 : Nat) : Int)
  let w : Int := a.wrap % ((2 ^ 16 : Nat) : Int)
  leBytes 544 l.toNat ++ leBytes 8 (a.nan.toNat + a.pinf.toNat * 2 + a.ninf.toNat * 4 + w.toNat * 2 ^ 16)

/-- An image read back; none when a reserved status bit is set. -/
def longOfImage (bs : List Byte) : Option LongAcc :=
  let n : Nat := ofBytes (bs.take 544)
  let st : Nat := ofBytes ((bs.drop 544).take 8)
  if st / 2 ^ 3 % 2 ^ 13 ≠ 0 ∨ st / 2 ^ 32 ≠ 0 then none
  else
    let w : Nat := st / 2 ^ 16 % 2 ^ 16
    some { l := if 2 ^ 4351 ≤ n then (n : Int) - 2 ^ 4352 else n, nan := Nat.testBit st 0, pinf := Nat.testBit st 1, ninf := Nat.testBit st 2
           wrap := if 2 ^ 15 ≤ w then (w : Int) - 2 ^ 16 else w }

/-- Read-out to binary64 (R140). Whether the infinity of WRAP raises overflow and inexact, and whether NAN set beside PINF and NINF raises
invalid, the spec does not say: the model raises no flag in either case (DESIGN CHOICE, log entry 39). -/
def longRead (mode : Rnd) (a : LongAcc) : Nat × BitVec 5 :=
  let i := fInfo .f64
  if a.nan then (encNan i, 0)
  else if a.pinf && a.ninf then (encNan i, flNV)
  else if a.pinf || (!a.ninf && decide (0 < a.wrap)) then (encInf i, 0)
  else if a.ninf || decide (a.wrap < 0) then (encInf i + signBit i true, 0)
  else roundTo i mode false false (.fin (decide (a.l < 0)) a.l.natAbs (-2176))

/-! ## Exact sums (R135, R136) -/

/-- A sum of exact terms. -/
structure XSum where
  nan : Bool
  nv : Bool
  pinf : Bool
  ninf : Bool
  m : Int
  e : Int
  deriving DecidableEq, Repr

def xsZero : XSum := { nan := false, nv := false, pinf := false, ninf := false, m := 0, e := 0 }

def xsAdd (s : XSum) (v : FV × BitVec 5) : XSum :=
  let s := if v.2 &&& flNV != 0 then { s with nv := true } else s
  match v.1 with
  | .nan _ => { s with nan := true }
  | .inf neg => if neg then { s with ninf := true } else { s with pinf := true }
  | .fin neg m e =>
    let r := finSum (decide (s.m < 0)) s.m.natAbs s.e neg m e
    { s with m := r.1, e := r.2 }

/-- The value of a sum, and invalid (R136). Whether both infinities raise invalid where a term is NaN besides, the spec does not say: the model
raises none then (DESIGN CHOICE, log entry 39). -/
def xsVal (s : XSum) : FV × BitVec 5 :=
  let nv := if s.nv || (s.pinf && s.ninf && !s.nan) then flNV else 0
  if s.nan || (s.pinf && s.ninf) then (.nan false, nv)
  else if s.pinf then (.inf false, nv)
  else if s.ninf then (.inf true, nv)
  else (.fin (decide (s.m < 0)) s.m.natAbs s.e, nv)

/-- Cut a list into runs of n. -/
def passesOf {α : Type} (n : Nat) (l : List α) : List (List α) :=
  (List.range (divUp l.length n)).map (fun p => (l.drop (p * n)).take n)

/-- The value of an integer accumulator element or operand. -/
def asInt (v : FV) : Int :=
  match v with
  | .fin neg m e => let z : Int := (m * 2 ^ e.toNat : Nat); if neg then -z else z
  | _ => 0

def satS32 (z : Int) : Int := max (-(2 ^ 31)) (min (2 ^ 31 - 1) z)

/-- One element through the passes of an F32, F64 or I32 operation (R304, R136, R137). -/
def mmaElem (kind : AccTag) (kp : Nat) (inc : Nat) (prods : List (FV × FV)) : Nat × BitVec 5 :=
  (passesOf kp prods).foldl (fun (st : Nat × BitVec 5) ps =>
    match kind with
    | .i32 =>
      let a : Int := if 2 ^ 31 ≤ st.1 then (st.1 : Int) - 2 ^ 32 else st.1
      let z := ps.foldl (fun (z : Int) p => z + asInt p.1 * asInt p.2) a
      ((satS32 z % 2 ^ 32).toNat, st.2)
    | _ =>
      let i := fInfo (if kind = .f64 then .f64 else .f32)
      let x := ps.foldl (fun x p => xsAdd x (fvMul p.1 p.2)) (xsAdd xsZero (decFloat i st.1, 0))
      let v := xsVal x
      let r := roundTo i .rne false false (match v.1 with | .fin neg m e => .fin (neg && m != 0) m e | w => w)
      (r.1, st.2 ||| v.2 ||| r.2)) (inc, 0)

/-! ## Groups of MMAG (R306) -/

def mmagSearch (o : List Nat) (x : Nat) : Nat → Nat → Nat → Nat
  | 0, lo, _ => lo
  | fuel + 1, lo, hi =>
    if 1 < hi - lo then
      let mid := (lo + hi) / 2
      if getD o mid 0 ≤ x then mmagSearch o x fuel mid hi else mmagSearch o x fuel lo mid
    else lo

/-- The group of a row, or none when it is skipped. -/
def mmagGroup (o : List Nat) (g row0 r : Nat) : Option Nat :=
  let x := r + row0
  if x < getD o 0 0 then none
  else
    let k := mmagSearch o x 11 0 g
    if getD o (k + 1) 0 ≤ x then none else some k

/-- The offsets read at the start of MMAG. -/
def opOffs (op : MatOp) : List Nat := getD (getD op.data 0 []) 0 []

def opRow0 (op : MatOp) : Nat := getF op.gpair 36 12
def opGroups (op : MatOp) : Nat := getF op.gpair 19 11

/-- The offset vector of a group descriptor as scratch holds it. -/
def scratchOffs (c : Cushion) (op : MatOp) : List Nat :=
  (List.range (opGroups op + 1)).map (fun i => ofBytes (memBytes c.scratch (getF op.gpair 0 19 + 4 * i) 4))

/-- The groups of the rows that are not skipped, by ascending row. -/
def rowGroups (offs : List Nat) (op : MatOp) (rows : Nat) : List Nat :=
  (List.range rows).filterMap (fun r => mmagGroup offs (opGroups op) (opRow0 op) r)

/-- The groups that some row of MMAG is placed in. -/
def usedGroups (op : MatOp) (rows : Nat) : List Nat := (rowGroups (opOffs op) op rows).dedup

/-! ## Queue views (R299, R392) -/

/-- LIVE of a source as the running operation has read it, once it has. -/
def readLive (op : MatOp) : Option Nat :=
  if 1 < op.data.length then some ((((getD op.data 1 []).head?).map (·.length)).getD 0) else none

/-- LIVE as the earlier operations leave it: a number, or the operation that will decide it. -/
structure LiveV where
  known : Bool
  n : Nat
  deriving DecidableEq, Repr

/-- LIVE of a tile after queued operations, the last first. A tile that a copy has claimed or fills will hold its COLS columns; a READY tile is
read before a copy that waits for it starts (R297). -/
def liveAfter (c : Cushion) : List MatOp → Nat → LiveV
  | [], i =>
    let t := getTile c i
    { known := true, n := if t.st == .ready then t.live else if t.wclaim || t.st == .filling then tlCols t else t.live }
  | op :: rest, i =>
    if op.dsts.any (fun d => d.1 == i) then
      match op.op with
      | .mhad _ _ _ a _ | .mqnt _ _ _ a _ _ =>
        match readLive op with
        | some n => { known := true, n := n }
        | none => liveAfter c rest a.toNat
      | .mcond .. => { known := false, n := op.id }
      | _ => { known := true, n := tlCols (getTile c i) }
    else liveAfter c rest i

/-- The panel that queued operations leave: format, N, K, XACT. -/
structure PanelV where
  fmt : Fmt
  n : Nat
  k : LiveV
  xact : Bool
  deriving DecidableEq, Repr

/-- The panel after queued operations, the last first. An operation that has read its panel leaves that one. An MMAG that skips every row leaves the
panel as it was (R306); before it starts, what the offset vector now holds tells which rows it skips (DESIGN CHOICE, log entry 41). -/
def panelAfter (c : Cushion) : List MatOp → Option PanelV
  | [] => c.panel.map (fun p => { fmt := p.fmt, n := p.n, k := { known := true, n := p.k }, xact := p.xact })
  | op :: rest =>
    let of (i : Nat) (t : Tile) : Option PanelV := some { fmt := tlFmt t, n := tlRows t, k := liveAfter c rest i, xact := tlXact t }
    match op.op, op.srcs with
    | .mwld .., (i, t) :: _ =>
      match readLive op with
      | some n => some { fmt := tlFmt t, n := tlRows t, k := { known := true, n := n }, xact := tlXact t }
      | none => of i t
    | .mmag .., (_, a) :: (i, t) :: _ =>
      match (rowGroups (if op.phase = .queued then scratchOffs c op else opOffs op) op (tlRows a)).getLast? with
      | none => panelAfter c rest
      | some g =>
        match op.panels[g]? with
        | some p => some { fmt := p.fmt, n := p.n, k := { known := true, n := p.k }, xact := p.xact }
        | none => of i t
    | _, _ => panelAfter c rest

/-- Two LIVEs may be equal: one that a queued MCOND decides is judged again when the operation starts. -/
def liveEq (a b : LiveV) : Bool := if a.known && b.known then a.n == b.n else true
def liveOver (a : LiveV) (n : Nat) : Bool := a.known && decide (n < a.n)

/-! ## Entry checks (R392) -/

/-- What entry of an operation establishes. -/
structure Entry where
  cost : Nat
  tag : AccTag
  clear : Bool
  srcs : List Nat
  dsts : List Nat
  /-- accumulator tiles and the tag they take -/
  accs : List Nat
  newTag : AccTag
  /-- reasons found, with the index each names -/
  bad : List (Nat × Nat)
  deriving DecidableEq, Repr

def entry0 : Entry := { cost := 1, tag := .z, clear := false, srcs := [], dsts := [], accs := [], newTag := .z, bad := [] }

def chk (b : Bool) (reason idx : Nat) : List (Nat × Nat) := if b then [(reason, idx)] else []

/-- A block tile whose side tile breaks R296. -/
def sideBad (c : Cushion) (t : Tile) : Bool :=
  tlBlock t && (
    let sd := getTile c (tlSide t)
    decide (c.tiles.length ≤ tlSide t) || decide (tlCode sd ≠ 4) || decide (tlRows sd ≠ tlRows t) ||
    decide (tlCols sd ≠ tlCols t / blkSize (tlFmt t) * blkSide (tlFmt t)))

/-- A destination that cannot be claimed (R297). -/
def claimBad (c : Cushion) (i : Nat) : Bool :=
  let t := getTile c i
  !tlClaimable t || (tlBlock t && !tlClaimable (getTile c (tlSide t)))

/-- Kind, tag and index checks of a product's destination (reasons 4 and 5): an odd index names no pair, and only its own tag. -/
def kindBad (c : Cushion) (kind : AccTag) (ovw : Bool) (d : Nat) : List (Nat × Nat) :=
  chk (!ovw && (if d % 2 = 1 then [d] else accTiles kind d).any (fun i => (getAcc c i).tag != .z && (getAcc c i).tag != kind)) 4 d ++
  chk (pairKind kind && decide (d % 2 = 1)) 5 d

def kindClear (c : Cushion) (kind : AccTag) (ovw : Bool) (d : Nat) : Bool :=
  ovw && (accTiles kind d).any (fun i => (getAcc c i).tag != .z && (getAcc c i).tag != kind)

/-- The checks of a product of tile a with weights (R304). -/
def prodEntry (c : Cushion) (q : List MatOp) (t : Fmt) (ovw : Bool) (d a : Nat) (p : Option PanelV) : Entry :=
  let ta := getTile c a
  let base := { entry0 with srcs := [a], bad := chk (tlFmt ta != t) 1 a ++ chk (sideBad c ta) 9 a }
  match p with
  | none => { base with bad := base.bad ++ [(2, a)] }
  | some p =>
    let kind := prodKind t p.fmt p.xact
    { base with
      cost := prodCost t p.fmt p.xact, tag := kind, newTag := kind, accs := accTiles kind d, clear := kindClear c kind ovw d
      bad := base.bad ++ chk (!liveEq (liveAfter c q a) p.k) 2 a ++
        chk (decide ((if p.xact then 8 else 128) < tlRows ta) || decide ((if p.xact then 8 else 64) < p.n) || !p.fmt.matrix || liveOver p.k (prodLimit t p.fmt p.xact)) 3 a ++
        kindBad c kind ovw d }

/-- The group descriptor's checks (reason 8). -/
def mmagBad (c : Cushion) (k : Kernel) (g : DWord) : Bool :=
  let offs := getF g 0 19
  let n := getF g 19 11
  let wtl := getF g 30 6
  let t := getTile c wtl
  decide (getF g 48 16 ≠ 0) || decide (n = 0) || decide (1024 < n) || decide (offs % 4 ≠ 0) ||
  decide (k.scratch < offs + 4 * (n + 1)) || decide (k.tiles ≤ wtl) || decide (k.scratch < tlEnd t (n - 1)) ||
  (tlBlock t && decide (k.scratch < tlEnd (getTile c (tlSide t)) (n - 1)))

/-- The entry of an operation, with every reason for refusal (R299, R392). `q`: the queue, last first. -/
def entryOf (c : Cushion) (k : Kernel) (q : List MatOp) (i : Instr) (g : DWord) : Entry :=
  match i with
  | .mwld _ t a _ =>
    let a := a.toNat
    let ta := getTile c a
    let lim := if tlXact ta then 32 else rankLimit (fmtRank t)
    { entry0 with
      srcs := [a]
      bad := chk (tlFmt ta != t) 1 a ++ chk (decide ((if tlXact ta then 8 else 64) < tlRows ta) || liveOver (liveAfter c q a) lim) 3 a ++
        chk (sideBad c ta) 9 a }
  | .mma _ t ovw d a _ => prodEntry c q t ovw d.toNat a.toNat (panelAfter c q)
  | .mmag _ t ovw d a _ _ =>
    let w := getF g 30 6
    let tw := getTile c w
    let e := prodEntry c q t ovw d.toNat a.toNat (some { fmt := tlFmt tw, n := tlRows tw, k := liveAfter c q w, xact := tlXact tw })
    { e with srcs := [a.toNat, w], bad := e.bad ++ chk (mmagBad c k g) 8 w ++ chk (sideBad c tw) 9 w }
  | .mhad _ n d a _ =>
    let d := d.toNat
    let a := a.toNat
    let ta := getTile c a
    let td := getTile c d
    let sz := match n with | .h16 => 16 | .h32 => 32 | .h64 => 64
    let lv := liveAfter c q a
    let okA := decide (8 ≤ tlCode ta) && decide (tlCode ta ≤ 14)
    let okD := decide (tlCode td = 8) || decide (tlCode td = 9) || (decide (12 ≤ tlCode td) && decide (tlCode td ≤ 14))
    { entry0 with
      srcs := [a], dsts := [d]
      bad := chk (decide (tlRows ta ≠ tlRows td) || liveOver lv (tlCols td)) 3 d ++
        chk (!okA || !okD || decide (rankKp (fmtRank (tlFmt td)) % sz ≠ 0) || (lv.known && decide (lv.n % sz ≠ 0))) 6 a ++
        chk (claimBad c d) 11 d }
  | .mcond _ t d a b _ =>
    let d := d.toNat
    let a := a.toNat
    let b := b.toNat
    let ta := getTile c a
    let tb := getTile c b
    let td := getTile c d
    let te := getTile c (d + 1)
    let la := liveAfter c q a
    let lb := liveAfter c q b
    let two := decide (d ≠ 63)
    { entry0 with
      srcs := [a, b], dsts := [d, d + 1]
      bad := chk (tlFmt ta != t) 1 a ++ chk (tlFmt td != t) 1 d ++
        chk (decide (128 < tlRows ta) || decide (64 < tlRows tb) || !liveEq la lb ||
          liveOver la (prodLimit (tlFmt ta) (tlFmt tb) (tlXact tb)) || decide (tlRows td < tlRows ta) || (two && decide (tlRows te < tlRows tb))) 3 a ++
        chk (tlBlock ta || tlBlock tb || !(tlFmt ta).matrix || !(tlFmt tb).matrix || (two && tlFmt te != tlFmt tb)) 6 b ++
        chk (decide (d = 63) || decide (k.tiles ≤ d + 1) || decide (a = d) || decide (a = d + 1) || decide (b = d) || decide (b = d + 1)) 7 d ++
        chk (claimBad c d || (two && claimBad c (d + 1))) 11 d }
  | .mzero _ d _ =>
    let d := d.toNat
    match accPair c d with
    | some e => { entry0 with accs := [e, e + 1], tag := (getAcc c e).tag, newTag := .z }
    | none => { entry0 with accs := [d], newTag := .z }
  | .mrd _ t d a _ _ =>
    let d := d.toNat
    let a := a.toNat
    let td := getTile c d
    let tag := (getAcc c a).tag
    let lim := if tag = .x then (8, 8) else (128, 64)
    { entry0 with
      tag := tag, dsts := [d]
      bad := chk (tlFmt td != t) 1 d ++ chk (decide (lim.1 < tlRows td) || decide (lim.2 < tlCols td)) 3 d ++
        chk ((tag == .x && t != .f64) ||
          (pairKind tag && decide (a % 2 = 0) && (getAcc c (a + 1)).tag != tag && (getAcc c (a + 1)).tag != .z)) 4 a ++
        chk (pairKind tag && decide (a % 2 = 1)) 5 a ++ chk (sideBad c td) 9 d ++ chk (claimBad c d) 11 d }
  | .mqnt _ t d a b _ =>
    let d := d.toNat
    let a := a.toNat
    let ta := getTile c a
    let td := getTile c d
    let lv := liveAfter c q a
    { entry0 with
      srcs := [a], dsts := [d]
      bad := chk (tlFmt td != t) 1 d ++
        chk (decide (tlRows ta ≠ tlRows td) || liveOver lv (tlCols td) || (t.isBlock && lv.known && decide (lv.n % blkSize t ≠ 0))) 3 d ++
        chk (decide (tlCode ta < 8) || decide (11 < tlCode ta) || !t.isBlock) 6 a ++
        chk (sideBad c td || decide (tlSide td ≠ b.toNat)) 9 d ++ chk (claimBad c d) 11 d }
  | .mxrd _ a _ _ =>
    let a := a.toNat
    let ok (t : AccTag) := t == .x || t == .z
    { entry0 with
      tag := .x
      bad := chk (decide (a % 2 = 1)) 5 a ++
        chk (decide (getF g 0 3 ≠ 0) || !ok (getAcc c a).tag || !ok (getAcc c (a + 1)).tag) 10 a }
  | .mxadd _ d _ _ =>
    let d := d.toNat
    let ok (t : AccTag) := t == .x || t == .z
    { entry0 with
      tag := .x, newTag := .x, accs := [d, d + 1]
      bad := chk (decide (d % 2 = 1)) 5 d ++
        chk (decide (getF g 0 3 ≠ 0) || !ok (getAcc c d).tag || !ok (getAcc c (d + 1)).tag) 10 d }
  | _ => entry0

/-! ## Power (R13, R14, R301) -/

def cushDie (c : Cushion) : Nat := dieOf c.core

/-- A queue head that costs more than the grant asks for the difference. -/
def powerAsk (s : State) (cid : Nat) : State :=
  match getCush s cid with
  | none => s
  | some c =>
    match c.mq with
    | op :: _ =>
      if c.grant < op.cost ∧ !s.power.any (fun p => p.cush == cid) then
        { s with power := s.power ++ [{ cush := cid, amount := op.cost - c.grant, cycle := s.clock }] }
      else s
    | [] => s

/-- The oldest request of the package: by cycle, then die, then core. -/
def powerOldest (s : State) : Option PowerReq :=
  let core (p : PowerReq) : Nat := ((getCush s p.cush).map (·.core)).getD 0
  bestBy (fun a b => decide (a.cycle < b.cycle) || (decide (a.cycle = b.cycle) && decide (core a < core b))) s.power

/-- Row steps that the running head has taken: the clock of one that waits for its grant stands still (R310, R312). -/
def opElapsed (s : State) (c : Cushion) (op : MatOp) : Nat := op.steps + (if op.cost ≤ c.grant then s.clock - op.began else 0)

/-- Units go from the pool to a cushion; a head that was stopped goes on. -/
def giveGrant (s : State) (cid n : Nat) : State :=
  updCush (ctlSetF s offPWPOOL 16 16 (ctlF s offPWPOOL 16 16 + n)) cid (fun c =>
    { c with grant := c.grant + n, mq := updIf (fun o => o.phase != .queued) (fun o => { o with began := s.clock, steps := opElapsed s c o }) c.mq })

/-- A cushion's grant goes back to the pool; a running head keeps the place it has come to (R312). -/
def returnGrant (s : State) (cid : Nat) : State :=
  match getCush s cid with
  | none => s
  | some c =>
    let mq := updIf (fun (o : MatOp) => o.phase != .queued) (fun o => { o with began := s.clock, steps := opElapsed s c o }) c.mq
    updCush (ctlSetF s offPWPOOL 16 16 (ctlF s offPWPOOL 16 16 - c.grant)) cid (fun c => { c with grant := 0, mq := mq })

/-- SIZE as a grant decision of this cycle uses it: a write takes effect from the next cycle on (R14). -/
def poolSize (s : State) : Nat := ((cycNow s).pool).getD (ctlF s offPWPOOL 0 16)

/-- POWER_GRANT (R14, R301). -/
def execPowerGrant (s : State) : Host.Outcome State Fault Refusal :=
  match powerOldest s with
  | none => .next s
  | some p =>
    if ctlF s offPWPOOL 16 16 + p.amount ≤ poolSize s then
      .next (giveGrant { s with power := s.power.erase p } p.cush p.amount)
    else .next s

/-- POWER_GRANT_RETURN (R301). -/
def execPowerGrantReturn (cushion : Nat) (s : State) : Host.Outcome State Fault Refusal :=
  match getCush s cushion with
  | some c => .next (if c.mq.isEmpty ∧ 0 < c.grant ∧ c.mlast + 256 ≤ s.clock then returnGrant s cushion else s)
  | none => .next s

/-! ## Entry into the queue (R299) -/

/-- Bytes an MRD counts on its token, by row (R309). -/
def mrdRowBytes (c : Cushion) (t : Tile) : Nat := rawSpan t + (match sideOf c t with | some sd => rawSpan sd | none => 0)

/-- Enter an operation, or end the carpet with 0x011E or 0x0304, or with 0x020A where neither area has room for what the queue spills (R299,
R385, R392, R404, R415). -/
def enterOp (i : Instr) (ex : Ex) (l : LaneIn) (g word : DWord) (s : State) : State :=
  match getCush s ex.cush.cid with
  | none => s
  | some c =>
    let e := entryOf c ex.car.ker c.mq.reverse i g
    match bestBy (fun a b => decide (a.1 < b.1)) e.bad with
    | some r => fatalFibre s l.f 0x11E ex.pc word (trapW4 0x11E (r.1 + r.2 * 256)) false
    | none =>
      let cnt : Option (Nat × Nat) := match i with
        | .mrd _ _ d _ tk _ => let t := getTile c d.toNat; some (tk.toNat, tlRows t * mrdRowBytes c t)
        | _ => none
      if (match cnt with | some (tk, n) => decide (0xFFFFFFFF < getTk c tk + n) | none => false) then
        fatalFibre s l.f 0x304 ex.pc 0 (ofN64 ((cnt.map (·.1)).getD 0)) false
      else if 32 ≤ c.mq.length && !sporeRoom s ex.core ex.car.asid Config.mopBytes then
        fatalFibre s l.f 0x20A ex.pc 0 (spaceW4 s ex.car.asid 4) false
      else
        let glob := match i with | .mxrd .. | .mxadd .. => true | _ => false
        let s := if glob then l1WriteBackAll s ex.core else s
        let p := fresh s
        let s := if 32 ≤ c.mq.length then (makeRoom p.1 ex.core ex.car.asid Config.mopBytes p.2).getD p.1 else p.1
        let op : MatOp := {
          id := p.2, op := i, word := word, gpair := g, rm := (c.fctlIn s.clock).extractLsb' 0 3
          srcs := e.srcs.map (fun j => (j, getTile c j)), dsts := e.dsts.map (fun j => (j, getTile c j))
          pc := ex.pc, lastFibre := l.f.idx, cost := e.cost, tag := e.tag, clear := e.clear
          barrier := if glob then some p.2 else none, phase := .queued, data := [], panels := []
          counted := (cnt.map (·.2)).getD 0, outstanding := 0, image := [], prog := 0, began := 0, steps := 0 }
        let s := updCush s c.cid (fun c =>
          let c := e.srcs.foldl (fun c j => updTile c j (fun t => { t with readers := t.readers + 1 })) c
          let c := e.dsts.foldl (fun c j => updTile c j (fun t => { t with wclaim := true })) c
          let c := setTags c e.accs e.newTag
          { c with mq := c.mq ++ [op], mqueued := c.mqueued + 1#32 })
        let s := match cnt with | some (tk, n) => tokenUp s c.cid tk n | none => s
        powerAsk s c.cid

/-- An instruction word with GNEG, GPRED, WS and ER cleared (R298). -/
def signWord (w : DWord) : DWord := setF w 52 6 0

/-- A signed matrix instruction: each true slot signs in ascending order; the last signer of a round enters the operation
(R298). -/
def signExec (i : Instr) (cv : Nat) (g : Option SrcU) (res : List ResU) (h : Hdr) (s : State) : State :=
  let word := wordOf i
  frondExec i h { shape g.toList none with res := res ++ [{ field := 3, kind := 1, idx := cv }], held := true }
    (fun ex _ _ =>
      let v := getD ex.cush.cvs cv ⟨0, 0, 0⟩
      if v.expected = 0 then [viol 0x112 0 0 cv]
      else if v.count ≠ 0 ∧ v.word ≠ signWord word then [viol 0x113 0 v.word cv] else [])
    (fun ex lanes s =>
      ((lanes.filter (·.act)).foldl (fun s l =>
        match getCush s ex.cush.cid with
        | none => s
        | some c =>
          let v := getD c.cvs cv ⟨0, 0, 0⟩
          let full := v.count + 1 = v.expected
          let v' : Conv := { v with count := if full then 0 else v.count + 1, word := if v.count = 0 then signWord word else v.word }
          let s := updCush s c.cid (fun c => { c with cvs := setAt ⟨0, 0, 0⟩ c.cvs cv v' })
          if full then enterOp i ex l (opv l.vals 0) word s else s) s, false)) s

def resTl (field i : Nat) : ResU := { field, kind := 0, idx := i }

/-- MWLD (R303). -/
def execMwld (h : Hdr) (t : Fmt) (a : BitVec 6) (c : BitVec 4) (s : State) : Host.Outcome State Fault Refusal :=
  .next (signExec (.mwld h t a c) c.toNat none [resTl 1 a.toNat] h s)
/-- MMA (R304). -/
def execMma (h : Hdr) (t : Fmt) (ovw : Bool) (d : BitVec 3) (a : BitVec 6) (c : BitVec 4) (s : State) : Host.Outcome State Fault Refusal :=
  .next (signExec (.mma h t ovw d a c) c.toNat none [resTl 1 a.toNat] h s)
/-- MMAG (R306). -/
def execMmag (h : Hdr) (t : Fmt) (ovw : Bool) (d : BitVec 3) (a : BitVec 6) (b : Src) (c : BitVec 4) (s : State) :
    Host.Outcome State Fault Refusal :=
  .next (signExec (.mmag h t ovw d a b c) c.toNat (some (sG 2 b)) [resTl 1 a.toNat] h s)
/-- MHAD (R307). -/
def execMhad (h : Hdr) (n : HadSize) (d a : BitVec 6) (c : BitVec 4) (s : State) : Host.Outcome State Fault Refusal :=
  .next (signExec (.mhad h n d a c) c.toNat none [resTl 0 d.toNat, resTl 1 a.toNat] h s)
/-- MCOND (R308). -/
def execMcond (h : Hdr) (t : Fmt) (d a b : BitVec 6) (c : BitVec 4) (s : State) : Host.Outcome State Fault Refusal :=
  .next (signExec (.mcond h t d a b c) c.toNat none [resTl 0 d.toNat, resTl 1 a.toNat, resTl 2 b.toNat] h s)
/-- MZERO (R292, R309). -/
def execMzero (h : Hdr) (d : BitVec 3) (c : BitVec 4) (s : State) : Host.Outcome State Fault Refusal :=
  .next (signExec (.mzero h d c) c.toNat none [] h s)
/-- MRD (R309). -/
def execMrd (h : Hdr) (t : Fmt) (d : BitVec 6) (a b : BitVec 3) (c : BitVec 4) (s : State) : Host.Outcome State Fault Refusal :=
  .next (signExec (.mrd h t d a b c) c.toNat none [resTl 0 d.toNat, { field := 2, kind := 2, idx := b.toNat }] h s)
/-- MQNT (R309). -/
def execMqnt (h : Hdr) (t : Fmt) (d a b : BitVec 6) (c : BitVec 4) (s : State) : Host.Outcome State Fault Refusal :=
  .next (signExec (.mqnt h t d a b c) c.toNat none [resTl 0 d.toNat, resTl 1 a.toNat, resTl 2 b.toNat] h s)
/-- MXRD (R309). -/
def execMxrd (h : Hdr) (a : BitVec 3) (b : Src) (c : BitVec 4) (s : State) : Host.Outcome State Fault Refusal :=
  .next (signExec (.mxrd h a b c) c.toNat (some (sG 2 b)) [] h s)
/-- MXADD (R309). -/
def execMxadd (h : Hdr) (d : BitVec 3) (a : Src) (c : BitVec 4) (s : State) : Host.Outcome State Fault Refusal :=
  .next (signExec (.mxadd h d a c) c.toNat (some (sG 1 a)) [] h s)

/-! ## Progress registers (R310) -/

def matMinor (i : Instr) : Nat :=
  match i with
  | .mwld .. => 0 | .mma .. => 1 | .mmag .. => 2 | .mhad .. => 3 | .mcond .. => 4 | .mzero .. => 5 | .mrd .. => 6 | .mqnt .. => 7
  | .mxrd .. => 8 | .mxadd .. => 9 | _ => 0

/-- A tile, and its side tile, in a state. -/
def tileIn (c : Cushion) (st : TState) (i : Nat) : Bool :=
  (getTile c i).st == st && (!tlBlock (getTile c i) || (getTile c (tlSide (getTile c i))).st == st)

/-- The head waits for its grant; and, until it has started, for a tile (R300, R310). -/
def headWaits (c : Cushion) : Bool × Bool :=
  match c.mq with
  | op :: _ =>
    (decide (c.grant < op.cost),
     op.phase == .queued && !(op.srcs.all (fun p => tileIn c .ready p.1) && op.dsts.all (fun p => tileIn c .empty p.1)))
  | [] => (false, false)

/-- Rows that an operation goes through in each pass, and its passes: of a product the activation rows and ceil (K / kp), of MCOND the rows
of both sources (R304, R306, R308, R309). -/
def opRows (op : MatOp) : Nat :=
  match op.op with
  | .mrd .. => ((op.dsts.head?).map (fun p => tlRows p.2)).getD 0
  | .mcond .. => sumBy (fun p => tlRows p.2) op.srcs
  | _ => ((op.srcs.head?).map (fun p => tlRows p.2)).getD 0

def opPasses (c : Cushion) (op : MatOp) : Nat :=
  match op.op, op.srcs with
  | .mma _ t .., _ => match c.panel with | some p => max 1 (divUp p.k (prodKp t p.fmt p.xact)) | none => 1
  | .mmag _ t .., [_, (i, w)] => max 1 (divUp (getTile c i).live (prodKp t (tlFmt w) (tlXact w)))
  | _, _ => 1

/-- Cycles of a row step (R304). -/
def opRate (op : MatOp) : Nat := match op.op with | .mma .. | .mmag .. => if op.tag = .x then 8 else 1 | _ => 1

/-- ROW and PASS once an operation has gone through its last row. DEDUCED (log entry 27). -/
def opEnd (c : Cushion) (op : MatOp) : Nat × Nat := (opRows op, opPasses c op - 1)

/-- ROW and PASS of the running operation: one row a step; of MRD the rows that have landed. DEDUCED (log entry 27). -/
def opPlace (s : State) (c : Cushion) (op : MatOp) : Nat × Nat :=
  let n := match op.op with | .mrd .. => op.prog | _ => opElapsed s c op / opRate op
  if opRows op * opPasses c op ≤ n then opEnd c op else (n % opRows op, n / opRows op)

def mp0Word (place : Nat × Nat) (minor : Nat) (active : Bool) : Word :=
  BitVec.ofNat 32 (place.1 % 2 ^ 11 + place.2 % 8 * 2 ^ 11 + minor * 2 ^ 14 + active.toNat * 2 ^ 20)

/-- MP0: of the running operation, else of the last one (R310). -/
def mp0Val (s : State) (c : Cushion) : Word :=
  match c.mq with
  | op :: _ => if op.phase = .queued then c.mp0 else mp0Word (opPlace s c op) (matMinor op.op) true
  | [] => c.mp0

/-- MPROG (R310): one value for every true slot. DESIGN CHOICE (log entry 26): a cushion that is no matrix cushion reads its own progress
registers, which stay zero, whatever matrix cushion is on the core. -/
def execMprog (h : Hdr) (n : BitVec 2) (d : Dst) (s : State) : Host.Outcome State Fault Refusal :=
  .next (frondExec (.mprog h n d) h { shape [] (some (dNoChan d)) with held := true } (fun _ _ _ => [])
    (fun ex lanes s =>
      let c := ex.cush
      let w := headWaits c
      let v : DWord := match n.toNat with
        | 0 => zext (mp0Val s c)
        | 1 => zext c.mdone
        | 2 => zext c.mqueued
        | _ => ofN64 (w.1.toNat + w.2.toNat * 2 + c.mresumed.toNat * 4 + c.grant * 8)
      (writeResult s ex h d false ((lanes.filter (·.act)).map (fun l => (l.f, v))), false)) s)

/-! ## Running operations (R300) -/

def updOp (s : State) (cid id : Nat) (g : MatOp → MatOp) : State :=
  updCush s cid (fun c => { c with mq := updIf (fun o => o.id == id) g c.mq })

/-- A cushion whose engines may act: its carpet lives, its die is not in reset; then also its context runs and its die is not
halted (R349, R427). -/
def cushLive (s : State) (c : Cushion) : Bool :=
  match getCarpet s c.carpet with
  | some k => !k.dead && !c.saved && !dieInReset s (cushDie c)
  | none => false

def cushRuns (s : State) (c : Cushion) : Bool :=
  cushLive s c && decide (ctxState s (asidOf s c.carpet) = 0) && !dieHalt s (cushDie c)

/-- Operations that pre-emption stops in the middle; any other running operation completes first (R312). -/
def opPauses (i : Instr) : Bool := match i with | .mma .. | .mmag .. | .mcond .. => true | _ => false

/-- A running operation goes on: under its grant, and at a suspension or halt only if it does not stop there. -/
def opGoes (s : State) (c : Cushion) (op : MatOp) : Bool :=
  decide (op.phase ≠ .queued) && decide (op.cost ≤ c.grant) && (cushRuns s c || (cushLive s c && !opPauses op.op))

/-- End the carpet for a failure of a matrix operation; the record of 0x011E names the last signer (R385). -/
def failOp (s : State) (c : Cushion) (op : MatOp) (syn : Nat) (w3 w4 : DWord) (freeze : Bool) : State :=
  let asid := asidOf s c.carpet
  if syn = 0x11E then
    detect s c.carpet (mkRec s 2 syn asid op.pc (recW2 c.carpet c.core c.slot op.lastFibre (op.lastFibre % 32)) w3 w4) (cushDie c) c.core none none
  else fatalEngine s c.carpet asid c.core c.slot syn op.pc w3 w4 (if freeze then some c.cid else none)

/-- The operation is held by the record of a page fault (R372). -/
def opHeld (s : State) (cid id : Nat) : Bool := s.holds.any (fun h => h.waiters.contains (.matrix cid id))

/-- Who makes the access of a matrix operation to the byte at an offset of its images. -/
def matWho (s : State) (c : Cushion) (op : MatOp) (off : Nat) : Who :=
  { core := c.core, carpet := c.carpet, asid := asidOf s c.carpet, fid := 0, cush := c.cid, pc := op.pc, va := op.gpair + ofN64 off
    w2 := recW2 c.carpet c.core c.slot 0x3FF 0 }

/-- Send the writes of an image block to their homes, from an offset on: each line one request (R236, R309). -/
def matWrites (s : State) (c : Cushion) (op : MatOp) (off : Nat) (ps : List Place) (bs : List Byte) : State :=
  let p := unitsOf s false (ps.zip (bs.zip ((List.range ps.length).map (· + off))))
  let s := updOp p.1 c.cid op.id (fun o => { o with outstanding := o.outstanding + p.2.length })
  p.2.foldl (fun s u =>
    match u with
    | [] => s
    | (.mem _ a, _, k) :: _ =>
      pushReq s (reqOf s (matWho s c op k) (homeDie a) (.write (.matrix op.id) (u.map (fun x => (memAddr x.1, x.2.1)))))
    | (.remote pkg kind pa, _, k) :: _ =>
      sendRemote s (reqOf s (matWho s c op k) 0 (.write (.matrix op.id) [])) pkg kind pa
        (.write ((List.range u.length).zip u |>.map (fun x => (pa + x.1, x.2.2.1))))
    | _ => s) s

/-- Ask for bytes of the images to add, from an offset on. -/
def matReads (s : State) (c : Cushion) (op : MatOp) (off : Nat) (ps : List Place) : State :=
  let p := unitsOf s false (ps.zip ((List.range ps.length).map (· + off)))
  let s := updOp p.1 c.cid op.id (fun o => { o with outstanding := o.outstanding + p.2.length })
  p.2.foldl (fun s u =>
    match u with
    | [] => s
    | (.mem _ a, k) :: _ =>
      pushReq s (reqOf s (matWho s c op k) (homeDie a) (.read (.matrix op.id k) (u.map (fun x => (memAddr x.1, x.2)))))
    | (.remote pkg kind pa, k) :: _ =>
      sendRemote s (reqOf s (matWho s c op k) 0 (.read (.matrix op.id k) ((List.range u.length).map (fun i => (pa + i, k + i))))) pkg kind pa
        (.read u.length)
    | (.crust _, k) :: _ =>
      pushReq s (reqOf s (matWho s c op k) (dieOf c.core) (.crustRead (.matrix op.id 0) (asidOf s c.carpet)
        (u.filterMap (fun x => match x.1 with | .crust va => some (x.2, va) | _ => none))))) s

/-- The 35,328 bytes of the images of a pair (R309). -/
def imageBytes (c : Cushion) (a : Nat) : List Byte := (List.range 64).flatMap (fun j => longImage (pairLong c a j))

/-- The pages of the images that MXRD or MXADD still has to reach. -/
def matParts (op : MatOp) : List (DWord × Nat) :=
  match op.op with
  | .mxrd .. | .mxadd .. => (accParts op.gpair 35328).drop op.prog
  | _ => []

/-- The global accesses of MXRD or MXADD in the next page: they fail, are held, or are made; those of earlier pages stand (R309, R397). -/
def matPage (s : State) (c : Cushion) (op : MatOp) : State :=
  let asid := asidOf s c.carpet
  let wr : Option Nat := match op.op with | .mxrd _ a _ _ => some a.toNat | _ => none
  match matParts op with
  | [] => s
  | (va, n) :: _ =>
    let off := (va - op.gpair).toNat
    match xlateWalk s (cushDie c) asid (access .engine va n wr.isNone wr.isSome) with
    | (s, .ok xs) =>
      let s := updOp s c.cid op.id (fun o => { o with prog := o.prog + 1 })
      (match wr with
        | some a => matWrites s c op off (placesOf s xs) (((imageBytes c a).drop off).take n)
        | none => matReads s c op off (placesOf s xs))
    | (s, .fail e) => failOp s c op e.syn e.w3 e.w4 e.freeze
    | (s, .pageFault va l) =>
      holdReplay s (cushDie c) asid va (.matrix c.cid op.id)
        (missedRec s asid (engMissed c.carpet c.core c.slot op.pc) va l)
    | (s, .poisoned p) => poisonRead s p 1 (some c.carpet) (some c.core)
    | (s, .busy va) => queueWalk s (cushDie c) asid va [] (some (engMissed c.carpet c.core c.slot op.pc))

/-- What the checks of entry find once every earlier operation is done: LIVE and the panel as they now stand, and for MMA the kind that goes with the
panel (R299, R392; log entry 41). MRD looks at neither: entry has
judged it by the tags that the operations before it leave, and operations behind it may have changed them since. -/
def startBad (c : Cushion) (k : Kernel) (op : MatOp) : Option (Nat × Nat) :=
  match op.op with
  | .mrd .. => none
  | _ =>
    let e := entryOf c k [] op.op op.gpair
    let kind := match op.op with
      | .mma _ _ _ d _ _ => chk (e.tag != op.tag) 4 d.toNat
      | _ => []
    bestBy (fun a b => decide (a.1 < b.1)) (e.bad.filter (fun b => b.1 == 2 || b.1 == 3 || b.1 == 6) ++ kind)

/-- The running operation would read a poisoned word of scratch: MMAG its offsets, or the next source a row (R418). -/
def offsBad (c : Cushion) (op : MatOp) : Bool :=
  match op.op with
  | .mmag .. => scratchBad c ((List.range (4 * (getF op.gpair 19 11 + 1))).map (fun i => getF op.gpair 0 19 + i))
  | _ => false

/-- Start the operation at the head. -/
def startOp (s : State) (c : Cushion) (k : Kernel) (op : MatOp) : State :=
  let offs := match op.op with
    | .mmag .. => scratchOffs c op
    | _ => []
  match startBad c k op with
  | some r => failOp s c op 0x11E op.word (trapW4 0x11E (r.1 + r.2 * 256)) false
  | none =>
    if offsBad c op then storePoison s c.core 1 c.carpet
    else
    let s := updCush s c.cid (fun c =>
      let c := op.dsts.foldl (fun c d => updTile c d.1 (fun t => { t with st := .filling, wclaim := false })) c
      { c with mlast := s.clock
               mq := updIf (fun o => o.id == op.id) (fun o => { o with phase := .running, data := [[offs]], began := s.clock }) c.mq })
    matPage s c op

/-- Image j of those that MXADD has read. -/
def imageAt (op : MatOp) (j : Nat) : List Byte :=
  (List.range 552).map (fun i => ((op.image.find? (fun b => b.1 == 552 * j + i)).map (·.2)).getD 0)

/-- MXADD adds the images from the next one on up to `hi` into the pair d, each checked before it is added: the cushion with those below the first
malformed one added, and that one (R309, R415). -/
def addImages (c : Cushion) (op : MatOp) (d hi : Nat) : Cushion × Option Nat :=
  let r := ((List.range hi).drop op.added).foldl (fun (st : List (Nat × LongAcc) × Option Nat) j =>
    match st.2, longOfImage (imageAt op j) with
    | some _, _ => st
    | none, none => (st.1, some j)
    | none, some b => (st.1 ++ [(j, longImport (pairLong c d j) b)], none)) ([], none)
  let kept := ((List.range 64).filter (fun j => !r.1.any (fun x => x.1 == j))).map (fun j => (j, pairLong c d j))
  (setAccData c [d, d + 1] [] (sortBy (fun a b => decide (a.1 < b.1)) (kept ++ r.1)), r.2)

/-- The images that lie whole in the pages MXADD has read. -/
def imagesCome (op : MatOp) : Nat :=
  match matParts op with
  | [] => 64
  | p :: _ => (p.1 - op.gpair).toNat / 552

/-- A started MXRD or MXADD goes on with its next page. MXADD first adds what the pages before it have brought: a malformed image is found before any
fault of a later page (R415). -/
def matNext (s : State) (c : Cushion) (op : MatOp) : State :=
  match op.op with
  | .mxadd _ d _ _ =>
    if op.outstanding ≠ 0 ∨ matParts op = [] then s
    else
      let r := addImages c op d.toNat (imagesCome op)
      let op' := { op with added := max op.added (imagesCome op) }
      let s := updCush s c.cid (fun _ => { r.1 with mq := updIf (fun o => o.id == op.id) (fun _ => op') r.1.mq })
      match r.2 with
      | some j => failOp s c op 0x305 (op.gpair + ofN64 (552 * j)) (ofN64 j) false
      | none => matPage s { r.1 with mq := updIf (fun o => o.id == op.id) (fun _ => op') r.1.mq } op'
  | _ => matPage s c op

/-- MATRIX_OP_START (R300): the head starts, or a started MXRD or MXADD goes on with its next page. -/
def execMatrixOpStart (cushion : Nat) (s : State) : Host.Outcome State Fault Refusal :=
  match getCush s cushion with
  | none => .next s
  | some c =>
    match c.mq, getCarpet s c.carpet with
    | op :: _, some car =>
      let clean : Bool := match op.barrier with | some b => wbDone s c.core b && !storesBefore s cushion b | none => true
      if opHeld s cushion op.id then .next s
      else if op.phase = .queued ∧ cushRuns s c ∧ headWaits c = (false, false) ∧ clean = true then .next (startOp s c car.ker op)
      else if op.phase = .running ∧ opGoes s c op then .next (matNext s c op)
      else .next s
    | _, _ => .next s

/-- Rows of codes and side rows of a source. -/
def readSource (c : Cushion) (i : Nat) (t : Tile) (seq : Nat) : List (List Nat) × List (List Nat) :=
  let n := (getTile c i).live
  ((List.range (tlRows t)).map (fun r => rowCodes c t seq r n), (List.range (tlRows t)).map (fun r => sideBytes c t seq r))

def panelOf (c : Cushion) (i : Nat) (t : Tile) (seq : Nat) : Panel :=
  let d := readSource c i t seq
  { fmt := tlFmt t, n := tlRows t, k := (getTile c i).live, xact := tlXact t, rows := d.1, side := d.2 }

/-- The source that the running operation reads next. The rows of A run to the end of MMAG, so that it has read its panels first (R300, R306). -/
def nextSource (op : MatOp) : Nat :=
  let j := (op.data.length - 1) / 2
  if matMinor op.op = 2 then 1 - j else j

/-- The next source is the panel sequence of MMAG. -/
def readsPanels (op : MatOp) : Bool := decide (matMinor op.op = 2) && nextSource op == 1

/-- The next source of the running operation has a row in a poisoned word (R418). -/
def sourceBad (c : Cushion) (op : MatOp) : Bool :=
  let rows := ((op.srcs.head?).map (fun p => tlRows p.2)).getD 0
  let seqs := if readsPanels op then usedGroups op rows else [0]
  match op.srcs[nextSource op]? with
  | none => false
  | some (_, t) => seqs.any (fun g => (List.range (tlRows t)).any (rowBad c t g))

/-- The panels of the groups that rows are placed in, by group number. -/
def readPanels (c : Cushion) (op : MatOp) (i : Nat) (t : Tile) : List Panel :=
  let used := usedGroups op (((op.srcs.head?).map (fun p => tlRows p.2)).getD 0)
  (List.range (used.foldl max 0 + 1)).map (fun g =>
    if used.contains g then panelOf c i t g else { fmt := tlFmt t, n := 0, k := 0, xact := false, rows := [], side := [] })

/-- The next source of the running operation is read (R300, R303, R306). -/
def sourceRead (c : Cushion) (op : MatOp) : Cushion :=
  match op.srcs[nextSource op]? with
  | none => c
  | some (i, t) =>
    let d : List (List Nat) × List (List Nat) := if readsPanels op then ([], []) else readSource c i t 0
    let ps := if readsPanels op then readPanels c op i t else op.panels
    let data := if matMinor op.op = 2 then op.data.take 1 ++ [d.1, d.2] ++ op.data.drop 1 else op.data ++ [d.1, d.2]
    let last := (op.data.length - 1) / 2 + 1 = op.srcs.length
    let up : MatOp → MatOp := fun o => { o with data := data, panels := ps, phase := if last then .read else o.phase }
    let c := { c with mq := updIf (fun o => o.id == op.id) up c.mq }
    updTile c i tlUnread

/-- MATRIX_SOURCE_READ_DONE (R300): the last row of the next source has entered the array. -/
def execMatrixSourceReadDone (cushion : Nat) (s : State) : Host.Outcome State Fault Refusal :=
  match getCush s cushion with
  | none => .next s
  | some c =>
    match c.mq with
    | op :: _ => 
      if op.phase = .running ∧ opGoes s c op then
        .next (if sourceBad c op then storePoison s c.core 1 c.carpet else updCush s cushion (fun c => sourceRead c op))
      else .next s
    | [] => .next s

/-! ## Results -/

/-- New elements of an accumulator: those in the list of (row, column, value) written, the others kept or zero. -/
def mergeElems (old : List (Nat × Nat)) (clear : Bool) (rows cols : Nat) (val : Nat → Nat → Nat) (writes : Nat → Bool) : List (Nat × Nat) :=
  let kept := if clear then [] else old.filter (fun e => !(decide (e.1 / 64 < rows) && decide (e.1 % 64 < cols) && writes (e.1 / 64)))
  let new := ((List.range rows).filter writes).flatMap (fun m => (List.range cols).map (fun n => (64 * m + n, val m n)))
  sortBy (fun a b => decide (a.1 < b.1)) (kept ++ new.filter (fun e => e.2 != 0))

/-- Products of an activation row with a panel row. -/
def rowProds (f : Fmt) (codes side : List Nat) (p : Panel) (n : Nat) : List (FV × FV) :=
  (codesVals f side codes).zip (codesVals p.fmt (getD p.side n []) (getD p.rows n []))

/-- MMA and MMAG: the rows of A against a panel each, or none where skipped (R304, R306). -/
def mmaApply (c : Cushion) (op : MatOp) (f : Fmt) (ovw : Bool) (d : Nat) (panel : Nat → Option Panel) (skipZero : Bool) (cols : Nat) :
    Cushion × BitVec 5 :=
  let rows := getD op.data 1 []
  let sides := getD op.data 2 []
  let writes (m : Nat) : Bool := (panel m).isSome || skipZero
  match op.tag with
  | .x =>
    let one (m n : Nat) : LongAcc × BitVec 5 :=
      let a := if ovw then zeroLong else pairLong c d (8 * m + n)
      match panel m with
      | none => (a, 0)
      | some p => (rowProds f (getD rows m []) (getD sides m []) p n).foldl (fun a q =>
          let v := fvMul q.1 q.2
          (longAdd a.1 v.1, a.2 ||| v.2)) (a, 0)
    let res := ((List.range rows.length).filter writes).flatMap (fun m => (List.range cols).map (fun n => (8 * m + n, one m n)))
    let kept := if op.clear then [] else ((List.range 64).filter (fun j => !res.any (fun r => r.1 == j))).map (fun j => (j, pairLong c d j))
    let js := res.map (fun r => (r.1, r.2.1))
    (setAccData c (accTiles .x d) [] (sortBy (fun a b => decide (a.1 < b.1)) (kept ++ js)), res.foldl (fun a r => a ||| r.2.2) 0)
  | kind =>
    let one (m n : Nat) : Nat × BitVec 5 :=
      let a := if ovw then 0 else elemAt c kind d (64 * m + n)
      match panel m with
      | none => (a, 0)
      | some p => mmaElem kind (prodKp f p.fmt false) a (rowProds f (getD rows m []) (getD sides m []) p n)
    let res := (List.range rows.length).map (fun m => (List.range cols).map (one m))
    let val (m n : Nat) : Nat := (getD (getD res m []) n (0, 0)).1
    let fl := (res.flatMap id).foldl (fun a r => a ||| r.2) 0
    (setAccData c (accTiles kind d) (mergeElems (accElems c kind d) op.clear rows.length cols val writes) [], fl)

/-- MHAD of one row (R307). -/
def hadRow (n : Nat) (df : Fmt) (vs : List FV) : List Nat × BitVec 5 :=
  let r := (List.range vs.length).map (fun c =>
    let base := c / n * n
    let s := ((vs.drop base).take n).zip (List.range n) |>.foldl (fun x p =>
      xsAdd x (if ((List.range 6).countP (fun b => p.2.testBit b && (c % n).testBit b)) % 2 = 1 then (p.1.neg, if p.1.isSig then flNV else 0)
        else (p.1, if p.1.isSig then flNV else 0))) xsZero
    let v := xsVal s
    let scaled : FV := match v.1 with
      | .fin neg m e =>
        if n = 16 then .fin neg m (e - 2) else if n = 64 then .fin neg m (e - 3)
        else match (fvSqrt 80 (.fin false (m * m) (2 * e - 5))).1 with
          | .fin _ m' e' => .fin neg m' e'
          | w => w
      | w => w
    let q := toElem df .rne false scaled
    (q.1, v.2 ||| q.2))
  (r.map (·.1), r.foldl (fun a p => a ||| p.2) 0)

/-- An element that is zero (R308). -/
def zeroCode (f : Fmt) (x : Nat) : Bool := if f.isFloat then x % 2 ^ (fmtBits f - 1) == 0 else x == 0

/-- The columns that MCOND keeps and its k2 (R308). -/
def condKeep (fa fb : Fmt) (a b : List (List Nat)) (ks : Nat) : List Nat :=
  (List.range ks).filter (fun k => a.any (fun r => !zeroCode fa (getD r k 0)) && b.any (fun r => !zeroCode fb (getD r k 0)))

/-- Row m of an accumulator as MRD converts it: codes, side bytes, flags (R309). -/
def mrdRow (c : Cushion) (op : MatOp) (t : Tile) (a m : Nat) : List Nat × List Nat × BitVec 5 :=
  let mode := rmOf (op.rm.setWidth 4)
  let cols := List.range (tlCols t)
  match op.tag with
  | .x =>
    let r := cols.map (fun n => longRead mode (pairLong c a (8 * m + n)))
    (r.map (·.1), [], r.foldl (fun x p => x ||| p.2) 0)
  | .i32 =>
    convRow (tlFmt t) mode true (cols.map (fun n => decVal .s32 (elemAt c .i32 a (64 * m + n))))
  | .z => convRow (tlFmt t) mode false (cols.map (fun _ => .fin false 0 0))
  | k => convRow (tlFmt t) mode false (cols.map (fun n => decFloat (fInfo (if k = .f64 then .f64 else .f32)) (elemAt c k a (64 * m + n))))

/-- The next row of a running MRD lands: its counted bytes leave the token; with the last, D is READY (R237, R309). -/
def mrdLand (s : State) (c : Cushion) (op : MatOp) : State :=
  match op.op, op.dsts with
  | .mrd _ _ d a tk _, (_, t) :: _ =>
    if op.prog < tlRows t then
      let r := mrdRow c op t a.toNat op.prog
      let last := op.prog + 1 = tlRows t
      let s := updCush s c.cid (fun c =>
        let c := writeRow c t 0 op.prog r.1 r.2.1
        let c := if last then updTile c d.toNat (fun u => { u with st := .ready, live := tlCols t }) else c
        Cushion.raise s.clock r.2.2 { c with mq := updIf (fun o => o.id == op.id) (fun o => { o with prog := o.prog + 1 }) c.mq })
      tokenDown s c.cid tk.toNat (mrdRowBytes c t)
    else s
  | _, _ => s

/-- What the result of an operation is: the cushion with its tiles and accumulators written, and the flags; or a failure. -/
inductive OpDone where
  | done (c : Cushion) (fl : BitVec 5)
  | fail (syn : Nat) (w3 w4 : DWord)
  | wait

def writeRows (c : Cushion) (t : Tile) (rows : List (List Nat × List Nat)) : Cushion :=
  ((List.range rows.length).zip rows).foldl (fun c p => writeRow c t 0 p.1 p.2.1 p.2.2) c

def tileDone (c : Cushion) (i live : Nat) : Cushion := updTile c i (fun t => { t with st := .ready, live := live })

def opResult (c : Cushion) (op : MatOp) : OpDone :=
  let rows := getD op.data 1 []
  let sides := getD op.data 2 []
  let ready := op.phase = .read
  match op.op with
  | .mwld .. =>
    match op.srcs with
    | (_, t) :: _ =>
      if ready then .done { c with panel := some { fmt := tlFmt t, n := tlRows t, k := ((rows.head?).map (·.length)).getD 0, xact := tlXact t
                                                   rows := rows, side := sides } } 0
      else .wait
    | [] => .wait
  | .mma _ t ovw d _ _ =>
    match c.panel with
    | some p => if ready then let r := mmaApply c op t ovw d.toNat (fun _ => some p) false p.n; .done r.1 r.2 else .wait
    | none => .wait
  | .mmag _ t ovw d _ _ _ =>
    if ready then
      let grp (m : Nat) := mmagGroup (opOffs op) (opGroups op) (opRow0 op) m
      let cols := match op.srcs with | _ :: (_, w) :: _ => tlRows w | _ => 0
      let r := mmaApply c op t ovw d.toNat (fun m => (grp m).bind (fun g => op.panels[g]?)) ovw cols
      let last := ((List.range rows.length).filterMap grp).getLast?.bind (fun g => op.panels[g]?)
      .done (match last with | some p => { r.1 with panel := some p } | none => r.1) r.2
    else .wait
  | .mhad _ n d _ _ =>
    match op.srcs, op.dsts with
    | (_, ta) :: _, (_, td) :: _ =>
      if ready then
        let sz := match n with | .h16 => 16 | .h32 => 32 | .h64 => 64
        let r := (List.range rows.length).map (fun m => hadRow sz (tlFmt td) (codesVals (tlFmt ta) [] (getD rows m [])))
        let live := ((rows.head?).map (·.length)).getD 0
        .done (tileDone (writeRows c td (r.map (fun x => (x.1, [])))) d.toNat live) (r.foldl (fun a x => a ||| x.2) 0)
      else .wait
    | _, _ => .wait
  | .mcond _ _ d _ _ _ =>
    match op.srcs, op.dsts with
    | [(_, ta), (_, tb)], [(_, td), (_, te)] =>
      if ready then
        let b := getD op.data 3 []
        let ks := ((rows.head?).map (·.length)).getD 0
        let kp := prodKp (tlFmt ta) (tlFmt tb) (tlXact tb)
        let keep := condKeep (tlFmt ta) (tlFmt tb) rows b ks
        let k2 := kp * max 1 (divUp keep.length kp)
        let cut (r : List Nat) : List Nat × List Nat := ((List.range k2).map (fun j => match keep[j]? with | some k => getD r k 0 | none => 0), [])
        if tlCols td < k2 ∨ tlCols te < k2 then .fail 0x11E op.word (trapW4 0x11E (3 + d.toNat * 256))
        else .done (tileDone (tileDone (writeRows (writeRows c td (rows.map cut)) te (b.map cut)) d.toNat k2) (d.toNat + 1) k2) 0
      else .wait
    | _, _ => .wait
  | .mzero _ d _ =>
    let is := if pairKind op.tag then [d.toNat / 2 * 2, d.toNat / 2 * 2 + 1] else [d.toNat]
    .done (setAccData c is [] []) 0
  | .mrd .. =>
    match op.dsts with
    | (d, t) :: _ => if op.prog = tlRows t then .done (if tlRows t = 0 then tileDone c d (tlCols t) else c) 0 else .wait
    | [] => .wait
  | .mqnt _ t d _ _ _ =>
    match op.srcs, op.dsts with
    | (_, ta) :: _, (_, td) :: _ =>
      if ready then
        let r := rows.map (fun x => quantRow t (codesVals (tlFmt ta) [] x))
        let live := ((rows.head?).map (·.length)).getD 0
        .done (tileDone (writeRows c td (r.map (fun x => (x.1, x.2.1)))) d.toNat live) (r.foldl (fun a x => a ||| x.2.2) 0)
      else .wait
    | _, _ => .wait
  | .mxrd .. => if op.outstanding = 0 ∧ matParts op = [] then .done c 0 else .wait
  | .mxadd _ d _ _ =>
    if op.outstanding = 0 ∧ matParts op = [] then
      match addImages c op d.toNat 64 with
      | (c, none) => .done c 0
      | (_, some j) => .fail 0x305 (op.gpair + ofN64 (552 * j)) (ofN64 j)
    else .wait
  | _ => .wait

/-- MATRIX_OP_COMPLETE (R300): the result is written, flags go to FSR, and the next operation comes to the head. -/
def execMatrixOpComplete (cushion : Nat) (s : State) : Host.Outcome State Fault Refusal :=
  match getCush s cushion with
  | none => .next s
  | some c =>
    match c.mq with
    | [] => .next s
    | op :: rest =>
      if !opGoes s c op then .next s
      else match opResult c op with
        | .wait => .next s
        | .fail syn w3 w4 =>
          let s := match op.op with | .mxadd _ d _ _ => updCush s cushion (fun _ => (addImages c op d.toNat 64).1) | _ => s
          .next (failOp s c op syn w3 w4 false)
        | .done c' fl =>
          let c'' := Cushion.raise s.clock fl { c' with mq := rest, mdone := c'.mdone + 1#32, mresumed := false, mlast := s.clock
                                                        mp0 := mp0Word (opEnd c op) (matMinor op.op) false }
          .next (powerAsk (updCush s cushion (fun _ => c'')) cushion)

end Sys2Proof.Machine
end

