-- ==== Sys2Proof/Machine/Copy.lean ====
section
/-! DEFINITION. Tokens and the instructions that use them, and the copy engine (R315 to R320, R325, R326, R331, R332, R412). -/

namespace Sys2Proof.Machine

/-! ## Engine operations -/

def updEng (s : State) (id : Nat) (g : EngOp → EngOp) : State := { s with engines := updIf (fun o => o.id == id) g s.engines }
def dropEng (s : State) (id : Nat) : State := { s with engines := s.engines.filter (fun o => o.id != id) }

/-- The operation may make accesses: its carpet lives and its cushion stands on a die that is not in reset. -/
def engLive (s : State) (o : EngOp) : Bool :=
  match getCarpet s o.carpet, getCush s o.cush with
  | some k, some c => !k.dead && !c.saved && !dieInReset s o.die
  | _, _ => false

/-- The operation may go on: a CPYT and CPYD stop at a suspension and on a halted die, a CPY and ROUTE complete (R332, R427). -/
def engRuns (s : State) (o : EngOp) : Bool :=
  engLive s o && (o.kind == .cpy || o.kind == .route || (decide (ctxState s o.asid = 0) && !dieHalt s o.die))

/-- End the carpet for a failure of an engine operation (R395, R411, R416). -/
def failEng (s : State) (o : EngOp) (syn : Nat) (w3 w4 : DWord) (freeze : Bool) : State :=
  let slot := ((getCush s o.cush).map (·.slot)).getD 0
  fatalEngine s o.carpet o.asid o.core slot syn o.pc w3 w4 (if freeze then some o.cush else none)

/-- The requester: the copy engine or the Sorus engine, working for a core. -/
def engSrc (o : EngOp) : Nat := o.core + (if o.kind = .route then 768 else 384)

def engReq (s : State) (o : EngOp) (die : Nat) (va : DWord) (op : HomeOp) : Req :=
  { mkReq s (engSrc o) die o.carpet o.asid 0 o.pc va op with
    w2 := recW2 o.carpet o.core (((getCush s o.cush).map (·.slot)).getD 0) 0x3FF 0 }

/-- A byte of an engine access: where it lies, its place in the operation's buffer, and the byte to be written; its virtual address, and the next
handle when it was translated. -/
abbrev EngByte := (Place × Nat × Byte) × DWord × Nat

def farAddr : Place → Nat
  | .remote _ _ pa => pa
  | _ => 0

/-- The die whose crust replicas an operation reads: that of the cushion that issued it (R225, R236). -/
def engPosDie (s : State) (o : EngOp) : Nat := ((getCush s o.cush).map (fun c => dieOf c.core)).getD o.die

/-- Send some bytes of a read or a write in one request to where they live (R236). -/
def engUnit (o : EngOp) (wr : Bool) (s : State) (u : List EngByte) : State :=
  let va := ((u.head?).map (·.2.1)).getD 0
  let pages := (u.map (fun x => ofN64 (x.2.1.toNat / 2 ^ 16 * 2 ^ 16))).dedup
  let xlated := (u.map (·.2.2)).foldl min s.nextId
  match u with
  | [] => s
  | ((.mem _ a, k, _), _) :: _ =>
    pushReq s { engReq s o (homeDie a) va
      (if wr then .write (.engine o.id u.length) (u.map (fun x => (memAddr x.1.1, x.1.2.2)))
        else .read (.engine o.id k) (u.map (fun x => (memAddr x.1.1, x.1.2.1)))) with pages := pages, xlated := xlated }
  | ((.remote pkg kind pa, k, _), _) :: _ =>
    let pas := u.map (fun x => farAddr x.1.1)
    if wr then
      sendRemote s { engReq s o 0 va (.write (.engine o.id u.length) []) with pages := pages, xlated := xlated } pkg kind pa
        (.write (u.map (fun x => (farAddr x.1.1, x.1.2.2))))
    else
      sendRemote s { engReq s o 0 va (.read (.engine o.id k) (u.map (fun x => (farAddr x.1.1, x.1.2.1)))) with pages := pages, xlated := xlated }
        pkg kind pa (if pas = (List.range u.length).map (fun i => pa + i) then .read u.length else .gather pas)
  | ((.crust _, k, _), _) :: _ =>
    pushReq s { engReq s o (engPosDie s o) va (.crustRead (.engine o.id k) o.asid
      (u.filterMap (fun x => match x.1.1 with | .crust c => some (x.1.2.1, c) | _ => none))) with pages := pages, xlated := xlated }

/-- The bytes of accesses that lie in other packages, in their order, by package and kind of address. -/
def farGroups (us : List EngByte) : List (List EngByte) :=
  let key (u : EngByte) : Option (Nat × Nat) := match u.1.1 with | .remote p k _ => some (p, k) | _ => none
  ((us.map key).dedup).filterMap (fun k => if k.isNone then none else some (us.filter (fun u => key u == k)))

/-- Cut the bytes of accesses into requests: with `whole` one for all that lie in this package's memory, and one for all that lie in one other
package (R235), else one for each 64 B sector (R234), and bytes of other packages in runs within a line; bytes of crusts in such runs. -/
def engUnits (whole : Bool) (us : List EngByte) : List (List EngByte) :=
  let isMem (u : EngByte) : Bool := match u.1.1 with | .mem _ _ => true | _ => false
  let isFar (u : EngByte) : Bool := match u.1.1 with | .remote .. => true | _ => false
  let mem := us.filter isMem
  let lines := (mem.map (fun u => placeLine u.1.1)).dedup
  let runs := (us.filter (fun u => !isMem u && !(whole && isFar u))).foldl (fun (st : List (List EngByte)) u =>
    let next (v : EngByte) : Bool := match v.1.1, u.1.1 with
      | .remote p k a, .remote q j b => p == q && k == j && b == a + 1 && placeLine v.1.1 == placeLine u.1.1
      | .crust a, .crust b => b == a + 1#64 && placeLine v.1.1 == placeLine u.1.1
      | _, _ => false
    match st.getLast?.bind List.getLast? with
    | some v => if next v then st.dropLast ++ [(st.getLast?.getD []) ++ [u]] else st ++ [[u]]
    | none => [[u]]) []
  (if whole then (if mem.isEmpty then [] else [mem]) ++ farGroups us else lines.map (fun l => mem.filter (fun u => placeLine u.1.1 == l))) ++ runs

/-- Make a translated access, or keep it for the ones it goes with. Of the block-scaled accesses that lie in several packages, and so go in several
requests, one is under way at a time (R235; DEDUCED, log entry 9). -/
def engSend (s : State) (o : EngOp) (it : EngItem) (ps : List Place) : State :=
  let bytes : List EngByte := o.stage ++ ((List.range ps.length).zip ps).map (fun p =>
    ((p.2, it.off + p.1, getD it.data p.1 0), it.va + ofN64 p.1, s.nextId))
  if it.more then updEng s o.id (fun o => { o with stage := bytes, todo := o.todo.tail })
  else
    let us := engUnits it.whole bytes
    if it.whole && decide (1 < us.length) && s.engines.any (fun q => q.id != o.id && q.wide && q.want != 0) then s
    else
    let s := updEng s o.id (fun o => { o with want := o.want + us.length, todo := o.todo.tail, stage := [], wide := it.whole && decide (1 < us.length) })
    us.foldl (engUnit o (!it.data.isEmpty)) s

/-- Whether a bias cell lies on a page of an active PAIR region (R414). -/
def biasOk (s : State) (asid : Nat) (xs : List (DWord × Nat × Xlat)) : Bool :=
  xs.all (fun x => leafCR x.2.2.leaf && decide (leafCtype x.2.2.leaf = 9) && (regionOf s asid x.1).isSome)

/-- Make the next access of an operation, unless it is stalled or dead (R372). -/
def engItem (id : Nat) (s : State) (it : EngItem) : State :=
  match getEng s id with
  | none => s
  | some o =>
    if o.stalled || !engLive s o || o.todo.head? != some it then s
    else if it.bias.isSome && decide (it.va.toNat % 8 ≠ 0) then failEng s o 0x303 it.va (ofN64 (it.bias.getD 0)) false
    else
      let wr := !it.data.isEmpty
      let missed (s : State) := engMissed o.carpet o.core (((getCush s o.cush).map (·.slot)).getD 0) o.pc
      match xlateWalk s o.die o.asid (access .engine it.va it.n (!wr) wr) with
      | (s, .ok xs) =>
        if it.bias.isSome && !biasOk s o.asid xs then failEng s o 0x303 it.va (ofN64 (it.bias.getD 0)) false
        else engSend s o it (placesOf s xs)
      | (s, .fail e) => failEng s o e.syn e.w3 e.w4 e.freeze
      | (s, .pageFault va l) =>
        holdReplay (updEng s id (fun o => { o with stalled := true })) o.die o.asid va (.engine id) (missedRec s o.asid (missed s) va l)
      | (s, .poisoned p) => poisonRead s p 1 (some o.carpet) (some o.core)
      | (s, .busy va) => queueWalk s o.die o.asid va [] (some (missed s))

/-- Make the accesses that stand to be made. -/
def engPump (s : State) (id : Nat) : State :=
  match getEng s id with
  | some o => o.todo.foldl (engItem id) s
  | none => s

/-- Take up new accesses. -/
def engAsk (s : State) (id : Nat) (items : List EngItem) : State :=
  engPump (updEng s id (fun o => { o with todo := o.todo ++ items, buf := [] })) id

def readItem (va : DWord) (n off : Nat) : EngItem := { va, n, off, data := [], bias := none }
def writeItem (va : DWord) (data : List Byte) : EngItem := { va, n := data.length, off := 0, data, bias := none }

/-- A stalled operation goes on when its page fault is answered. -/
def engRetry (s : State) (id : Nat) : State := engPump (updEng s id (fun o => { o with stalled := false })) id

/-- Everything asked for has come. -/
def engIdle (o : EngOp) : Bool := o.todo.isEmpty && o.want == 0

def bufByte (o : EngOp) (i : Nat) : Byte := ((o.buf.find? (fun b => b.1 == i)).map (·.2)).getD 0
def bufBytes (o : EngOp) (i n : Nat) : List Byte := (List.range n).map (fun k => bufByte o (i + k))

/-! ## Fork edges (R236, R317) -/

/-- The accesses with which a CPY begins: its source, or at once its zeros. -/
def cpyWrites (o : EngOp) : List EngItem :=
  let bs := (List.range 32).map (fun i => if i < o.n then bufByte o i else 0)
  [writeItem o.b (bs.take 16), writeItem (o.b + 16#64) (bs.drop 16)]

/-- An operation whose fork edge is complete begins: the core's write-backs are acknowledged, and so are the stores made before it. -/
def engFork (s : State) (o : EngOp) : State :=
  if o.phase = .fork ∧ wbDone s o.core o.barrier = true ∧ o.upDue = false ∧ storesBefore s o.cush o.id = false then
    match o.kind with
    | .cpy =>
      let s := updEng s o.id (fun o => { o with phase := .running })
      if o.n = 0 then engAsk s o.id (cpyWrites o) else engAsk s o.id [readItem o.a o.n 0]
    | _ => updEng s o.id (fun o => { o with phase := .issued })
  else s

def engForkAll (s : State) : State := s.engines.foldl engFork s

/-- A new operation, issued by a fibre; the core's dirty words are on their way (R236). -/
def newEng (s : State) (ex : Ex) (k : EngKind) (tok : Nat) (a b : DWord) (n src dst : Nat) (up : Bool) : State × Nat :=
  let p := fresh s
  ({ p.1 with engines := p.1.engines ++ [{
      id := p.2, kind := k, cush := ex.cush.cid, carpet := ex.car.id, asid := ex.car.asid, core := ex.core, die := dieOf ex.core
      tok, pc := ex.pc, a, b, n, src, dst, phase := .fork, barrier := p.2, upDue := up, desc := [], left := if k = .cpy then 32 else 0
      row := 0, busy := false, todo := [], want := 0, buf := [], stage := [], stalled := false, nextBlk := a, stream := 0, blkIdx := 0, lens := []
      uncounted := 0, header := false, fails := none }] }, p.2)

/-! ## Token instructions (R316, R325, R326, R393) -/

/-- The slots of true fibres in ascending order, with what each adds to a token: the slots whose count would leave the range
(R316, R393). -/
def tokenRun (tk : Nat) (adds : List (Nat × Int)) : List Nat :=
  (adds.foldl (fun (st : Int × List Nat) a =>
    let v := st.1 + a.2
    if 0 ≤ v ∧ v ≤ 0xFFFFFFFF then (v, st.2) else (st.1, st.2 ++ [a.1])) ((tk : Int), [])).2

/-- Count-ups of away CPYs that are on their way to a token. -/
def upsDue (s : State) (cid tk : Nat) : Nat := 32 * (s.engines.filter (fun o => o.upDue && o.cush == cid && o.tok == tk)).length

def resTk (field i : Nat) : ResU := { field, kind := 2, idx := i }

/-- The alignment and count checks of a CPY (R393). -/
def cpyViols (vs : List DWord) : List Viol :=
  (if (opv vs 0).toNat % 32 = 0 then [] else [viol 0x10F 1 (opv vs 0) 5]) ++
  (if (opv vs 1).toNat % 32 = 0 then [] else [viol 0x10F 2 (opv vs 1) 5]) ++
  (if (opv vs 2).toNat ≤ 32 then [] else [viol 0x119 3 0 (opv vs 2).toNat])

/-- One fibre's CPY (R317). -/
def cpyOne (ex : Ex) (tk : Nat) (s : State) (l : LaneIn) : State :=
  let mk (s : State) (up : Bool) : State × Nat := newEng s ex .cpy tk (opv l.vals 0) (opv l.vals 1) (opv l.vals 2).toNat 0 0 up
  if l.f.away then
    if 0xFFFF ≤ stcntOf s l.f.fid then parkStoreRoom s ex l.f
    else
      let p := mk (countUp s l.f.fid ex.cush.cid 1) true
      addAck p.1 8 (.tokenUp p.2 l.f.fid ex.cush.cid)
  else
    let p := mk (tokenUp s ex.cush.cid tk 32) false
    p.1

/-- CPY (R317). -/
def execCpy (h : Hdr) (a b c : Src) (tk : BitVec 3) (s : State) : Host.Outcome State Fault Refusal :=
  let i : Instr := .cpy h a b c tk
  let t := tk.toNat
  let srcs := [sBase 2 1 a, sBase 2 2 b, sNoChan 1 3 c]
  let own (ex : Ex) (f : Fibre) (vs : List DWord) : List Viol := resViols ex f (wordOf i) true (resTk 7 t) ++ cpyViols vs
  .next (frondExec i h (shape srcs none)
    (fun ex f vs =>
      let clean (g : Fibre) : Bool :=
        guardOf h g && (shapeViols ex g (wordOf i) h.ws (shape srcs none) ++ own ex g (srcs.map (srcVal ex g []))).isEmpty
      let bad := tokenRun (getTk ex.cush t + upsDue s ex.cush.cid t) ((ex.lanes.filter clean).map (fun g => (g.fid, (32 : Int))))
      own ex f vs ++ (if bad.contains f.fid then [viol 0x118 7 0 t] else []))
    (fun ex lanes s =>
      let acts := lanes.filter (·.act)
      let s := engForkAll (acts.foldl (cpyOne ex t) (l1WriteBackAll s ex.core))
      (s, acts.any (fun l => ((getFrond s ex.frond.fr).map (fun f => !f.members.contains l.f.fid)).getD true))) s)

/-- WAIT (R325): every true fibre parks, and the tokens are checked at once. -/
def execWait (h : Hdr) (mask : BitVec 8) (s : State) : Host.Outcome State Fault Refusal :=
  let res := ((List.range 8).filter (fun t => mask.getLsbD t)).map (resTk 1)
  .next (frondExec (.wait h mask) h { shape [] none with res := res, held := true } (fun _ _ _ => [])
    (fun ex lanes s =>
      let acts := lanes.filter (·.act)
      let s := acts.foldl (fun s l => parkFibre s ex.frond.fr l.f
        { at_ := some ex.pc, resume := ex.pc + 8#64, wait := .tokens mask, join := 1, dstG := 0, dstK := 0 } id) s
      (waitCheck s ex.cush.cid, !acts.isEmpty)) s)

/-- What a TKSET adds: its operand as a signed number. -/
def tkDelta (v : DWord) : Int := (lo32 v).toInt

/-- TKSET (R326): each true fibre in ascending order; the tokens are checked after every change (R325). -/
def execTkset (h : Hdr) (d : BitVec 3) (a : Src) (s : State) : Host.Outcome State Fault Refusal :=
  let i : Instr := .tkset h d a
  let t := d.toNat
  let u := sNoChan 1 1 a
  let sh : Shape := { shape [u] none with res := [resTk 0 t], held := true }
  .next (frondExec i h sh
    (fun ex f _ =>
      let clean (g : Fibre) : Bool := guardOf h g && (shapeViols ex g (wordOf i) h.ws sh).isEmpty
      let bad := tokenRun (getTk ex.cush t) ((ex.lanes.filter clean).map (fun g => (g.fid, tkDelta (srcVal ex g [] u))))
      if bad.contains f.fid then [viol 0x118 0 0 t] else [])
    (fun ex lanes s =>
      ((lanes.filter (·.act)).foldl (fun s l =>
        waitCheck (updCush s ex.cush.cid (fun c => { c with tks := setAt 0 c.tks t ((getTk c t : Int) + tkDelta (opv l.vals 0)).toNat })) ex.cush.cid) s,
        false)) s)

/-- TKRD (R326). -/
def execTkrd (h : Hdr) (d : Dst) (a : BitVec 3) (s : State) : Host.Outcome State Fault Refusal :=
  .next (frondExec (.tkrd h d a) h { shape [] (some (dNoChan d)) with res := [resTk 1 a.toNat], held := true } (fun _ _ _ => [])
    (fun ex lanes s =>
      (writeResult s ex h d false ((lanes.filter (·.act)).map (fun l => (l.f, ofN64 (getTk ex.cush a.toNat)))), false)) s)

/-- CHCNT's value (R331). -/
def chcntVal (s : State) (ex : Ex) (c : Nat) : DWord :=
  let queued := if ex.cush.stage = 0 then 0 else (getD ex.cush.chans c []).length
  let free := match nextStage s ex.cush with
    | some d => chanDepth ex.car.ker c - (getD d.chans c []).length
    | none => 0
  ofN64 (queued + free * 2 ^ 16)

/-- CHCNT (R331). -/
def execChcnt (h : Hdr) (d : Dst) (a : BitVec 4) (s : State) : Host.Outcome State Fault Refusal :=
  .next (frondExec (.chcnt h d a) h { shape [] (some (dNoChan d)) with res := [{ field := 1, kind := 3, idx := a.toNat }], held := true }
    (fun _ _ _ => [])
    (fun ex lanes s => (writeResult s ex h d false ((lanes.filter (·.act)).map (fun l => (l.f, chcntVal s ex a.toNat))), false)) s)

/-! ## Issue of tile copies and ROUTE (R318, R327, R393) -/

/-- Fibres outside the producer group of the launch packet (R318, R393). -/
def prodViols (ex : Ex) (f : Fibre) : List Viol :=
  if ex.car.pkt.prodLo ≤ f.idx ∧ f.idx ≤ ex.car.pkt.prodHi then [] else [viol 0x11A 0 0 f.idx]

/-- A destination tile that a copy may not claim, a source tile it may not drain (R297, R393). -/
def copyDstViols (ex : Ex) (i : Nat) : List Viol :=
  let t := getTile ex.cush i
  if tlClaimable t then [] else [viol 0x11C 0 0 (tileStateDet i t)]
def copySrcViols (ex : Ex) (i : Nat) : List Viol :=
  let t := getTile ex.cush i
  if t.st = .draining ∨ t.relpend = true then [viol 0x11C 1 0 (tileStateDet i t)] else []

/-- A hold of 1 that does not fit the token. -/
def holdViols (ex : Ex) (t : Nat) : List Viol := if getTk ex.cush t < 0xFFFFFFFF then [] else [viol 0x118 7 0 t]

/-- A tile whose bytes up to tile n of its sequence, or whose side tile's, reach SCRATCH or beyond (R385). -/
def tileOutside (c : Cushion) (scratch i n : Nat) : Bool :=
  let t := getTile c i
  decide (scratch < tlEnd t n) || (match sideOf c t with | some sd => decide (scratch < tlEnd sd n) | none => false)

/-- Whether a pair of formats is one of R320. -/
def copyPair (sf df : Fmt) : Bool :=
  sf == df || (sf.isFloat && df.isFloat) || ((sf == .f16 || sf == .bf16 || sf == .f32 || sf == .f64) && df.isBlock)

/-- Issue an operation once for the frond, or end the carpet with 0x011D (R385). -/
def issueCopy (ex : Ex) (lanes : List LaneIn) (k : EngKind) (tok : Nat) (a b : DWord) (src dst : Option Nat) (s : State) : Body :=
  match lanes.find? (·.act) with
  | none => (s, false)
  | some l =>
    let tiles := src.toList ++ dst.toList
    match tiles.find? (fun i => tileOutside ex.cush ex.car.ker.scratch i 0) with
    | some i => (fatalFibre s l.f 0x11D ex.pc 0 (trapW4 0x11D i) false, false)
    | none =>
      let s := tokenUp (l1WriteBackAll s ex.core) ex.cush.cid tok 1
      let s := match dst with | some i => updTileS s ex.cush.cid i (fun t => { t with wclaim := true }) | none => s
      let p := newEng s ex k tok a b 0 (src.getD 64) (dst.getD 64) false
      (engForkAll p.1, false)

/-- CPYT.ld (R318). -/
def execCpytLd (h : Hdr) (d : BitVec 6) (a b : Src) (tk : BitVec 3) (s : State) : Host.Outcome State Fault Refusal :=
  .next (frondExec (.cpytLd h d a b tk) h
    { shape [sG 1 a, sG 2 b] none with res := [resTl 0 d.toNat, resTk 7 tk.toNat], held := true, whole := true }
    (fun ex f _ => prodViols ex f ++ copyDstViols ex d.toNat ++ holdViols ex tk.toNat)
    (fun ex lanes s =>
      let vs := ((lanes.find? (·.act)).map (·.vals)).getD []
      issueCopy ex lanes .cpyLd tk.toNat (opv vs 0) (opv vs 1) none (some d.toNat) s) s)

/-- CPYT.st (R318). -/
def execCpytSt (h : Hdr) (a : BitVec 6) (b : Src) (tk : BitVec 3) (s : State) : Host.Outcome State Fault Refusal :=
  .next (frondExec (.cpytSt h a b tk) h
    { shape [sG 2 b] none with res := [resTl 1 a.toNat, resTk 7 tk.toNat], held := true, whole := true }
    (fun ex f _ => prodViols ex f ++ copySrcViols ex a.toNat ++ holdViols ex tk.toNat)
    (fun ex lanes s =>
      let vs := ((lanes.find? (·.act)).map (·.vals)).getD []
      issueCopy ex lanes .cpySt tk.toNat 0 (opv vs 0) (some a.toNat) none s) s)

/-- CPYT.tt (R318, R320): formats and shapes are checked at issue. -/
def execCpytTt (h : Hdr) (d a : BitVec 6) (tk : BitVec 3) (s : State) : Host.Outcome State Fault Refusal :=
  .next (frondExec (.cpytTt h d a tk) h
    { shape [] none with res := [resTl 0 d.toNat, resTl 1 a.toNat, resTk 7 tk.toNat], held := true, whole := true }
    (fun ex f _ =>
      let ts := getTile ex.cush a.toNat
      let td := getTile ex.cush d.toNat
      let det (r : Nat) := a.toNat + d.toNat * 2 ^ 8 + r * 2 ^ 16
      prodViols ex f ++ copyDstViols ex d.toNat ++ copySrcViols ex a.toNat ++
      (if copyPair (tlFmt ts) (tlFmt td) then [] else [viol 0x11F 0 0 (det 0)]) ++
      (if tlRows ts = tlRows td ∧ tlCols ts = tlCols td then [] else [viol 0x11F 1 0 (det 1)]) ++ holdViols ex tk.toNat)
    (fun ex lanes s => issueCopy ex lanes .cpyTt tk.toNat 0 0 (some a.toNat) (some d.toNat) s) s)

/-- CPYD (R318, R323). -/
def execCpyd (h : Hdr) (d : BitVec 6) (a b : Src) (tk : BitVec 3) (s : State) : Host.Outcome State Fault Refusal :=
  .next (frondExec (.cpyd h d a b tk) h
    { shape [sG 1 a, sG 2 b] none with res := [resTl 0 d.toNat, resTk 7 tk.toNat], held := true, whole := true }
    (fun ex f _ => prodViols ex f ++ copyDstViols ex d.toNat ++ holdViols ex tk.toNat)
    (fun ex lanes s =>
      let vs := ((lanes.find? (·.act)).map (·.vals)).getD []
      issueCopy ex lanes .cpyd tk.toNat (opv vs 0) (opv vs 1) none (some d.toNat) s) s)

/-- ROUTE (R327). -/
def execRoute (h : Hdr) (a : Src) (tk : BitVec 3) (s : State) : Host.Outcome State Fault Refusal :=
  .next (frondExec (.route h a tk) h
    { shape [sG 1 a] none with res := [resTk 7 tk.toNat], held := true, whole := true }
    (fun ex _ _ => holdViols ex tk.toNat)
    (fun ex lanes s =>
      let vs := ((lanes.find? (·.act)).map (·.vals)).getD []
      issueCopy ex lanes .route tk.toNat 0 (opv vs 0) none none s) s)

/-! ## Stride descriptors (R319, R320, R412) -/

/-- Word j of a descriptor. -/
def descW (d : List Byte) (j : Nat) : DWord := ofN64 (ofBytes ((d.drop (8 * j)).take 8))

def sdMaddr (d : List Byte) : DWord := descW d 0
def sdMpitch (d : List Byte) : Int := (lo32 (descW d 1)).toInt
def sdMtpitch (d : List Byte) : Int := (hi32 (descW d 1)).toInt
def sdCode (d : List Byte) : Nat := getF (descW d 2) 0 5
def sdFmt (d : List Byte) : Fmt := (decFmt (BitVec.ofNat 5 (sdCode d))).getD .n8
def sdCount (d : List Byte) : Nat := getF (descW d 2) 8 8
def sdSR (d : List Byte) : Bool := getB (descW d 2) 16
def sdSeed (d : List Byte) : Word := hi32 (descW d 2)
def sdSaddr (d : List Byte) : DWord := descW d 3

/-- The reason for which a stride descriptor is refused, the lowest (R412). -/
def strideBad (k : EngKind) (t : Tile) (d : List Byte) : Option Nat :=
  let f := sdFmt d
  if getF (descW d 2) 5 3 ≠ 0 ∨ getF (descW d 2) 17 15 ≠ 0 then some 1
  else if 19 < sdCode d then some 2
  else if k = .cpyLd ∧ !copyPair f (tlFmt t) ∨ k = .cpySt ∧ !copyPair (tlFmt t) f then some 3
  else if k = .cpyd ∧ f ≠ tlFmt t then some 4
  else if f.isBlock ∧ (sdSaddr d = 0 ∨ !canonicalVA (sdSaddr d)) then some 5
  else none

/-- Bytes of a row of n elements, and of its side row, in a format (R320). -/
def fmtSpan (f : Fmt) (n : Nat) : Nat := divUp (n * fmtBits f) 8
def fmtSide (f : Fmt) (n : Nat) : Nat := if f.isBlock then n / blkSize f * blkSide f else 0

/-- The tile a copy works on, and the format its bytes are counted in. -/
def copyTile (c : Cushion) (o : EngOp) : Tile := getTile c (if o.kind = .cpySt ∨ o.kind = .cpyTt then o.src else o.dst)
def dstFmt (c : Cushion) (o : EngOp) : Fmt := if o.kind = .cpySt then sdFmt o.desc else tlFmt (getTile c o.dst)

/-- Counted bytes of one row (R320). -/
def rowCount (c : Cushion) (o : EngOp) : Nat :=
  let n := tlCols (copyTile c o)
  fmtSpan (dstFmt c o) n + fmtSide (dstFmt c o) n

/-- Rows of the whole sequence. -/
def rowTotal (c : Cushion) (o : EngOp) : Nat :=
  tlRows (copyTile c o) * (if o.kind = .cpyTt then 1 else sdCount o.desc + 1)

/-- Replace the hold by the byte count, or end the carpet with 0x0304 (R316, R415). -/
def engCount (s : State) (o : EngOp) (total : Nat) : State :=
  match getCush s o.cush with
  | none => s
  | some c =>
    if 0xFFFFFFFF < getTk c o.tok + total - 1 then failEng s o 0x304 0 (ofN64 o.tok) false
    else
      let s := updEng s o.id (fun o => { o with phase := .counted, left := total })
      waitCheck (updCush s o.cush (fun c => { c with tks := setAt 0 c.tks o.tok (getTk c o.tok - 1 + total) })) o.cush

/-! ## Rows (R320) -/

/-- A row of bytes moved from one format to another: bytes, side bytes, flags. `sr`: seed and index of column 0. -/
def convBytes (sf df : Fmt) (n : Nat) (sr : Option (Word × Nat)) (bs side : List Byte) : List Byte × List Byte × BitVec 5 :=
  if sf = df then (bs, side, 0)
  else
    let vs := codesVals sf (side.map (·.toNat)) (unpackCodes (fmtBits sf) n bs)
    let r : List Nat × List Nat × BitVec 5 := match sr, df.isBlock with
      | some (seed, i0), false =>
        let q : List (Nat × BitVec 5) :=
          ((List.range n).zip vs).map (fun (p : Nat × FV) =>
          toElem df (.sr (srhash seed (BitVec.ofNat 32 (i0 + p.1))).toNat) false p.2)
        (q.map (·.1), ([] : List Nat), q.foldl (fun a p => a ||| p.2) (0 : BitVec 5))
      | _, _ => convRow df .rne false vs
    (packCodes (fmtBits df) r.1, r.2.1.map (fun x => BitVec.ofNat 8 x), r.2.2)

/-- Write the bytes of a row and its side row into tile i of a sequence. -/
def putRow (c : Cushion) (t : Tile) (i r : Nat) (bs side : List Byte) : Cushion :=
  let c := scratchWrite c (rowCells t i r 0 bs)
  match sideOf c t with
  | some sd => scratchWrite c (rowCells sd i r 0 side)
  | none => c

/-- The bytes of a side row. -/
def sideRow (c : Cushion) (t : Tile) (i r : Nat) : List Byte := (sideBytes c t i r).map (fun x => BitVec.ofNat 8 x)

def copySR (o : EngOp) (t : Tile) (i r : Nat) : Option (Word × Nat) :=
  if o.kind != .cpyTt && sdSR o.desc then some (sdSeed o.desc, (i * tlRows t + r) * tlCols t) else none

/-- Where row r of tile i lies in memory, and its side row (R320). -/
def memRowAt (o : EngOp) (i r : Nat) : DWord :=
  addrAdd (if o.kind = .cpySt then sdMaddr o.desc else o.a) (i * sdMtpitch o.desc + r * sdMpitch o.desc)
def memSideAt (o : EngOp) (t : Tile) (i r : Nat) : DWord :=
  sdSaddr o.desc + ofN64 ((i * tlRows t + r) * fmtSide (sdFmt o.desc) (tlCols t))

/-- Two runs of bytes share a 64 B sector. -/
def sectorShared (a : DWord) (m : Nat) (b : DWord) (n : Nat) : Bool :=
  decide (0 < m) && decide (0 < n) && decide (a.toNat / 64 ≤ (b.toNat + n - 1) / 64) && decide (b.toNat / 64 ≤ (a.toNat + m - 1) / 64)

/-- Rows of tile i from r on that go together, since each shares a 64 B sector of memory with the next (R234, R320); at most n. -/
def rowsJoined (o : EngOp) (t : Tile) (i : Nat) : Nat → Nat → Nat
  | 0, _ => 0
  | n + 1, r =>
    let f := sdFmt o.desc
    let cols := tlCols t
    if n = 0 then 1
    else if sectorShared (memRowAt o i r) (fmtSpan f cols) (memRowAt o i (r + 1)) (fmtSpan f cols) ||
        sectorShared (memSideAt o t i r) (fmtSide f cols) (memSideAt o t i (r + 1)) (fmtSide f cols) then 1 + rowsJoined o t i n (r + 1)
    else 1

/-- Rows that the copy takes up at its place. -/
def rowBatch (c : Cushion) (o : EngOp) : Nat :=
  let t := copyTile c o
  if o.kind = .cpyTt then 1 else rowsJoined o t (o.row / tlRows t) (tlRows t - o.row % tlRows t) (o.row % tlRows t)

/-- Let accesses go together. -/
def together (whole : Bool) (its : List EngItem) : List EngItem :=
  (its.dropLast.map (fun x => { x with more := true })) ++ (its.getLast?.toList.map (fun x => { x with whole := whole }))

/-- The accesses of a row and its side row, row j of those that go together. -/
def rowReads (o : EngOp) (t : Tile) (i r j : Nat) : List EngItem :=
  let f := sdFmt o.desc
  let n := tlCols t
  let off := j * (fmtSpan f n + fmtSide f n)
  readItem (memRowAt o i (r + j)) (fmtSpan f n) off ::
    (if fmtSide f n = 0 then [] else [readItem (memSideAt o t i (r + j)) (fmtSide f n) (off + fmtSpan f n)])

def rowConv (c : Cushion) (o : EngOp) (t : Tile) (i r : Nat) : List Byte × List Byte × BitVec 5 :=
  let f := sdFmt o.desc
  let v := convBytes (tlFmt t) f (tlCols t) (copySR o t i r) (rowBytes c t i r) (sideRow c t i r)
  (v.1, v.2.1.take (fmtSide f (tlCols t)), v.2.2)

def rowWrites (c : Cushion) (o : EngOp) (t : Tile) (i r : Nat) : List EngItem :=
  let v := rowConv c o t i r
  writeItem (memRowAt o i r) v.1 :: (if v.2.1.isEmpty then [] else [writeItem (memSideAt o t i r) v.2.1])

/-- Take up the next rows of a tile copy that may go on (R332). A poisoned word of scratch refuses the read (R418). -/
def rowAsk (s : State) (id : Nat) : State :=
  match getEng s id with
  | none => s
  | some o =>
    match getCush s o.cush with
    | none => s
    | some c =>
      let t := copyTile c o
      let i := o.row / tlRows t
      let r := o.row % tlRows t
      let js := List.range (rowBatch c o)
      if o.phase ≠ .running ∨ o.busy ∨ !engRuns s o ∨ rowTotal c o ≤ o.row then s
      else if (o.kind == .cpySt || o.kind == .cpyTt) && js.any (fun j => rowBad c t i (r + j)) then storePoison s o.core 1 o.carpet
      else
        let block := (sdFmt o.desc).isBlock
        let s := updEng s id (fun o => { o with busy := true })
        match o.kind with
        | .cpyLd => engAsk s id (together block (js.flatMap (rowReads o t i r)))
        | .cpySt =>
          let fl := js.foldl (fun (a : BitVec 5) j => a ||| (rowConv c o t i (r + j)).2.2) 0
          engAsk (raiseCush s c.cid fl) id (together block (js.flatMap (fun j => rowWrites c o t i (r + j))))
        | _ => s

/-- Row j of those in flight as it is written in scratch: bytes, side bytes, flags. -/
def rowCome (c : Cushion) (o : EngOp) (j : Nat) : List Byte × List Byte × BitVec 5 :=
  let t := copyTile c o
  let td := getTile c o.dst
  let n := tlCols t
  let i := o.row / tlRows t
  let r := o.row % tlRows t + j
  if o.kind = .cpyTt then convBytes (tlFmt t) (tlFmt td) n none (rowBytes c t 0 r) (sideRow c t 0 r)
  else
    let f := sdFmt o.desc
    let off := j * (fmtSpan f n + fmtSide f n)
    convBytes f (tlFmt td) n (copySR o td i r) (bufBytes o off (fmtSpan f n)) (bufBytes o (off + fmtSpan f n) (fmtSide f n))

/-- The rows in flight are applied in scratch (R318, R320). -/
def rowApply (s : State) (c : Cushion) (o : EngOp) : State :=
  let td := getTile c o.dst
  let t := copyTile c o
  let k := rowBatch c o
  let rows := (List.range k).map (fun j => (j, rowCome c o j))
  let s := updCush s c.cid (fun c => rows.foldl (fun c v => putRow c td (o.row / tlRows t) (o.row % tlRows t + v.1) v.2.1 v.2.2.1) c)
  updEng (raiseCush s c.cid (rows.foldl (fun (a : BitVec 5) v => a ||| v.2.2.2) 0)) o.id
    (fun o => { o with row := o.row + k, busy := false, left := o.left - k * rowCount c o })

/-! ## Start and end of tile copies (R297, R318) -/

/-- Own tile and side tile of an entry meet a condition. -/
def tileAll (c : Cushion) (i : Nat) (p : Tile → Bool) : Bool :=
  p (getTile c i) && (match sideOf c (getTile c i) with | some sd => p sd | none => true)

def drainable (c : Cushion) (i : Nat) : Bool := tileAll c i (fun t => t.st == .ready && !t.relpend && t.readers == 0)
def fillable (c : Cushion) (i : Nat) : Bool := tileAll c i (fun t => t.st == .empty)

/-- Start a counted tile copy whose tiles allow it. -/
def copyStart (s : State) (o : EngOp) : State :=
  match getCush s o.cush with
  | none => s
  | some c =>
    let drains := o.kind == .cpySt || o.kind == .cpyTt
    let fills := o.kind == .cpyLd || o.kind == .cpyTt || o.kind == .cpyd
    if (drains && !drainable c o.src) || (fills && !fillable c o.dst) then s
    else
      let s := if drains then updTileS s c.cid o.src (fun t => { t with st := .draining }) else s
      let s := if fills then updTileS s c.cid o.dst (fun t => { t with st := .filling, wclaim := false }) else s
      updEng s o.id (fun o => { o with phase := .running })

/-- A copy has ended: its destination is READY, its source EMPTY, in one step (R297, R318). -/
def copyEnd (s : State) (o : EngOp) : State :=
  let s := if o.kind = .cpyLd ∨ o.kind = .cpyTt ∨ o.kind = .cpyd then
      updTileS s o.cush o.dst (fun t => { t with st := .ready, live := tlCols t }) else s
  let s := if o.kind = .cpySt ∨ o.kind = .cpyTt then updTileS s o.cush o.src (fun t => { t with st := .empty }) else s
  dropEng s o.id

end Sys2Proof.Machine
end

