-- ==== Sys2Proof/Machine/Unfurl.lean ====
section
/-! DEFINITION. The Unfurl decoder (R321 to R324, R413). -/

namespace Sys2Proof.Machine

/-! ## CRC-32C (R323) -/

def crcBits : Nat → Nat → Nat
  | 0, c => c
  | n + 1, c => crcBits n (if c % 2 = 1 then c / 2 ^^^ 0x82F63B78 else c / 2)

def crc32c (bs : List Byte) : Nat := (bs.foldl (fun c b => crcBits 8 (c ^^^ b.toNat)) 0xFFFFFFFF) ^^^ 0xFFFFFFFF

/-! ## Canonical codes (R322) -/

/-- The length of each symbol in a table of 128 bytes. -/
def lensOf (bs : List Byte) : List Nat := bs.flatMap (fun b => [b.toNat % 16, b.toNat / 16])

def lenCount (lens : List Nat) (n : Nat) : Nat := if n = 0 then 0 else (lens.filter (· == n)).length

/-- The first code of each length from 1 to 15. -/
def firstCodes (lens : List Nat) : List Nat :=
  ((List.range 15).foldl (fun (st : Nat × List Nat) i =>
    let c := (st.1 + lenCount lens i) * 2
    (c, st.2 ++ [c])) (0, [])).2

/-- The symbols with their lengths and codes, ascending. -/
def symCodes (lens : List Nat) : List (Nat × Nat × Nat) :=
  ((List.range lens.length).foldl (fun (st : List Nat × List (Nat × Nat × Nat)) y =>
    let n := getD lens y 0
    if n = 0 then st
    else
      let c := getD st.1 (n - 1) 0
      (st.1.set (n - 1) (c + 1), st.2 ++ [(y, n, c)])) (firstCodes lens, [])).2

def overSubscribed (lens : List Nat) : Bool :=
  decide (2 ^ 15 < sumBy (fun n => lenCount lens (n + 1) * 2 ^ (14 - n)) (List.range 15))

/-- The bits of a payload in the order they are read. -/
def payBits (bs : List Byte) : List Bool := bs.flatMap (fun b => (List.range 8).map (fun i => b.getLsbD i))

/-- Decode up to `left` symbols from bits: the bytes, and the reason of a failure. -/
def unfurlBits (codes : List (Nat × Nat × Nat)) : List Bool → Nat → Nat → Nat → List Byte → List Byte × Option Nat
  | [], left, _, _, out => (out.reverse, if left = 0 then none else some 6)
  | b :: bs, left, n, acc, out =>
    match left with
    | 0 => (out.reverse, none)
    | k + 1 =>
      let acc := 2 * acc + b.toNat
      match codes.find? (fun c => c.2.1 == n + 1 && c.2.2 == acc) with
      | some c => unfurlBits codes bs k 0 0 (BitVec.ofNat 8 c.1 :: out)
      | none => if n + 1 = 15 then (out.reverse, some 5) else unfurlBits codes bs (k + 1) (n + 1) acc out

/-! ## Blocks (R321, R413) -/

/-- Header words of the block in the operation's buffer. -/
def ufW (o : EngOp) (i n : Nat) : Nat := ofBytes (bufBytes o i n)
def ufEfmt (o : EngOp) : Nat := ufW o 3 1 % 32
def ufShared (o : EngOp) : Bool := Nat.testBit (ufW o 3 1) 5
def ufDcount (o : EngOp) : Nat := ufW o 4 2
def ufCcount (o : EngOp) : Nat := ufW o 6 2
def ufCrc (o : EngOp) : Nat := ufW o 8 4

/-- The reason for which a header fails, the lowest. -/
def headerBad (t : Tile) (o : EngOp) : Option Nat :=
  if ufW o 0 2 ≠ 0x4655 ∨ ufW o 2 1 ≠ 1 ∨ ufW o 3 1 / 64 ≠ 0 ∨ ufW o 12 4 ≠ 0 then some 1
  else if ufEfmt o ≠ tlCode t then some 2
  else if ufShared o ∧ o.blkIdx = 0 then some 3
  else if ufDcount o = 0 ∨ 4096 < ufDcount o ∨ ufCcount o = 0 then some 8
  else none

/-- Bytes of a block before its payload. -/
def ufHead (o : EngOp) : Nat := if ufShared o then 16 else 144

/-- Reads of n bytes from an address, in pieces of at most 4096. -/
def readItems (va : DWord) (n off : Nat) : List EngItem :=
  (List.range (divUp n 4096)).map (fun i => readItem (va + ofN64 (4096 * i)) (min 4096 (n - 4096 * i)) (off + 4096 * i))

/-- Take up the next block of a CPYD: its header, unless its address is misaligned. -/
def blockAsk (s : State) (id : Nat) : State :=
  match getEng s id with
  | none => s
  | some o =>
    if o.phase ≠ .running ∨ o.busy ∨ !engRuns s o ∨ o.left ≤ o.uncounted then s
    else
      let s := updEng s id (fun o => { o with busy := true, header := false, table := false, fails := none })
      if o.nextBlk.toNat % 16 ≠ 0 then updEng s id (fun o => { o with fails := some 9 })
      else engAsk s id [readItem o.nextBlk 16 0]

/-- The payload of the block is asked for. -/
def payloadAsk (s : State) (o : EngOp) : State :=
  engPump (updEng s o.id (fun k => { k with table := false, todo := k.todo ++ readItems (o.nextBlk + ofN64 (ufHead o)) (ufCcount o) (ufHead o) })) o.id

/-- The header has come: the block's table or its payload is asked for, or the failure noted. -/
def headerCome (s : State) (o : EngOp) : State :=
  match getCush s o.cush with
  | none => s
  | some c =>
    match headerBad (getTile c o.dst) o with
    | some r => updEng s o.id (fun o => { o with header := true, fails := some r })
    | none =>
      let s := updEng s o.id (fun o => { o with header := true })
      if ufShared o then payloadAsk s o
      else engPump (updEng s o.id (fun k => { k with table := true, todo := k.todo ++ [readItem (o.nextBlk + 16#64) 128 16] })) o.id

/-- The code-length table has come, which is read with the header: the payload is asked for only of a table that is not over-subscribed (R413). -/
def tableCome (s : State) (o : EngOp) : State :=
  if overSubscribed (lensOf (bufBytes o 16 128)) then updEng s o.id (fun o => { o with table := false, fails := some 4 })
  else payloadAsk s o

/-- Bytes of one tile in the stream, side rows included (R320, R323). -/
def streamTile (t : Tile) : Nat := tlRows t * (fmtSpan (tlFmt t) (tlCols t) + fmtSide (tlFmt t) (tlCols t))

/-- The scratch offset of a stream byte (R323): the element rows of a tile, then its side rows. -/
def streamAt (c : Cushion) (t : Tile) (p : Nat) : Nat :=
  let n := streamTile t
  let span := fmtSpan (tlFmt t) (tlCols t)
  let ss := fmtSide (tlFmt t) (tlCols t)
  let i := p / n
  let q := p % n
  if q < tlRows t * span then tlOff t i (q / span) (q % span)
  else
    let q := q - tlRows t * span
    match sideOf c t with
    | some sd => tlOff sd i (q / ss) (q % ss)
    | none => 0

/-- A decoded block, or the reason it fails and the CRC computed for reason 0. -/
def unfurlBlock (o : EngOp) (lens : List Nat) : List Byte × Option (Nat × Nat) :=
  if overSubscribed lens then ([], some (4, 0))
  else
    let r := unfurlBits (symCodes lens) (payBits (bufBytes o (ufHead o) (ufCcount o))) (ufDcount o) 0 0 []
    match r.2 with
    | some k => ([], some (k, 0))
    | none =>
      let crc := crc32c r.1
      if crc ≠ ufCrc o then ([], some (0, crc))
      else if o.left - o.uncounted < r.1.length then ([], some (7, 0))
      else (r.1, none)

/-- The operation that the die's decoder serves: the next, in issue order after the one last served, whose block has come or
whose header fails (R324). -/
def decoderNext (s : State) (die : Nat) : Option EngOp :=
  let last := ((s.decoders.find? (fun d => d.1 == die)).map (·.2)).getD 0
  let ready := s.engines.filter (fun o => o.kind == .cpyd && o.die == die && o.busy && engLive s o &&
    (o.fails.isSome || (o.header && !o.table && engIdle o)))
  match ready.find? (fun o => decide (last < o.id)) with
  | some o => some o
  | none => ready.head?

/-- UNFURL_BLOCK_DECODE (R323, R324, R413). -/
def execUnfurlBlockDecode (die : Nat) (s : State) : Host.Outcome State Fault Refusal :=
  if 8 ≤ die then .fault .noSuchUnit
  else match decoderNext s die with
    | none => .next s
    | some o =>
      match getCush s o.cush with
      | none => .next s
      | some c =>
        let s := { s with decoders := (die, o.id) :: s.decoders.filter (fun d => d.1 != die) }
        let fail (r crc : Nat) : State :=
          failEng s o 0x301 o.nextBlk (ofN64 (r + o.blkIdx % 2 ^ 16 * 2 ^ 16 + crc * 2 ^ 32)) false
        match o.fails with
        | some r => .next (fail r 0)
        | none =>
          let lens := if ufShared o then o.lens else lensOf (bufBytes o 16 128)
          match unfurlBlock o lens with
          | (_, some (r, crc)) => .next (fail r crc)
          | (bs, none) =>
            let t := getTile c o.dst
            let cells := (List.range bs.length).zip bs |>.map (fun p => (streamAt c t (o.stream + p.1), p.2))
            let s := updCush s c.cid (fun c => scratchWrite c cells)
            let next := roundUp (o.nextBlk.toNat + ufHead o + ufCcount o) 16
            let s := updEng s o.id (fun o => { o with
              busy := false, buf := [], lens := lens, blkIdx := o.blkIdx + 1, stream := o.stream + bs.length
              uncounted := o.uncounted + bs.length, nextBlk := ofN64 next })
            .next (blockAsk s o.id)

end Sys2Proof.Machine
end

