-- ==== Sys2Proof/Machine/Sorus.lean ====
section
/-! DEFINITION. The Sorus routing engine (R327 to R330, R414). -/

namespace Sys2Proof.Machine

/-! ## Route descriptors (R327, R414) -/

def rdScores (d : List Byte) : DWord := descW d 0
def rdPitch (d : List Byte) : Nat := getF (descW d 1) 0 32
def rdExperts (d : List Byte) : Nat := getF (descW d 1) 32 11
def rdType (d : List Byte) : Nat := getF (descW d 1) 48 5
def rdK (d : List Byte) : Nat := getF (descW d 1) 53 5
def rdSigmoid (d : List Byte) : Bool := getB (descW d 1) 58
def rdRows (d : List Byte) : Nat := getF (descW d 2) 0 32
def rdBias (d : List Byte) : DWord := descW d 3
def rdFmt (d : List Byte) : Fmt := (decFmt (BitVec.ofNat 5 (rdType d))).getD .f32
def rdBytes (d : List Byte) : Nat := fmtBits (rdFmt d) / 8

/-- The reason for which a route descriptor is refused, the lowest. -/
def routeBad (d : List Byte) : Option Nat :=
  if getF (descW d 1) 43 5 ≠ 0 ∨ getF (descW d 1) 59 5 ≠ 0 ∨ getF (descW d 2) 32 32 ≠ 0 then some 1
  else if rdExperts d = 0 ∨ 1024 < rdExperts d ∨ rdType d < 8 ∨ 10 < rdType d then some 2
  else if rdK d = 0 ∨ 16 < rdK d ∨ rdExperts d < rdK d then some 3
  else if rdRows d = 0 ∨ 65536 < rdRows d ∨ rdPitch d % rdBytes d ≠ 0 then some 4
  else if getF (descW d 4) 0 2 ≠ 0 ∨ getF (descW d 5) 0 2 ≠ 0 ∨ getF (descW d 6) 0 2 ≠ 0 ∨ getF (descW d 7) 0 2 ≠ 0 then some 5
  else none

def routeTotal (d : List Byte) : Nat := 12 * rdRows d * rdK d + 8 * rdExperts d + 4

/-- Where the score rows stand in the operation's buffer, after the bias cells. -/
def scoreOff (d : List Byte) (t : Nat) : Nat := 8192 + t * (rdExperts d * rdBytes d)

/-- The reads of a ROUTE: each bias cell once, then the score rows (R328). -/
def routeReads (d : List Byte) : List EngItem :=
  let bias := if rdBias d = 0 then []
    else (List.range (rdExperts d)).map (fun e => { va := rdBias d + ofN64 (8 * e), n := 8, off := 8 * e, data := [], bias := some e })
  bias ++ (List.range (rdRows d)).map (fun t => readItem (rdScores d + ofN64 (t * rdPitch d)) (rdExperts d * rdBytes d) (scoreOff d t))

/-! ## Exponentials -/

/-- The sum of the series of 2^p exp (t / 2^p), in fixed point. -/
def expSeries (p t : Nat) : Nat → Nat → Nat → Nat → Nat
  | 0, _, _, sum => sum
  | fuel + 1, i, term, sum =>
    let term := term * t / 2 ^ p / i
    if term = 0 then sum else expSeries p t fuel (i + 1) term (sum + term)

/-- 2^1000 exp (m 2^e) for a magnitude of at most 200, to far below the last bit of binary32. -/
def expFix (m : Nat) (e : Int) : Nat := expSeries 1000 (m * 2 ^ (e + 1000).toNat) 2000 1 (2 ^ 1000) (2 ^ 1000)

/-- A quotient of naturals as an exact value with an inexactness bit, 200 bits below one. -/
def ratFV (a b : Nat) : FV := .fin false (2 * (a * 2 ^ 400 / b) + 1) (-401)

/-- A nonzero magnitude above 200. -/
def over200 (m : Nat) (e : Int) : Bool := match fvLt (.fin false 200 0) (.fin false m e) with | true => true | false => false

/-- exp of a value that is not positive (R328), ready for one rounding. -/
def expNeg (v : FV) : FV :=
  match v with
  | .fin _ m e =>
    if m = 0 then .fin false 1 0
    else if over200 m e then .fin false 1 (-400)
    else ratFV (2 ^ 1000) (expFix m e)
  | .inf _ => .fin false 0 0
  | .nan g => .nan g

/-- 1 / (1 + exp (-v)) (R328), ready for one rounding. -/
def sigmoid (v : FV) : FV :=
  match v with
  | .fin neg m e =>
    if m = 0 then .fin false 1 (-1)
    else if over200 m e then (if neg then .fin false 1 (-400) else .fin false (2 ^ 200 - 1) (-200))
    else
      let x := expFix m e
      if neg then ratFV (2 ^ 1000) (2 ^ 1000 + x) else ratFV x (2 ^ 1000 + x)
  | .inf neg => if neg then .fin false 0 0 else .fin false 1 0
  | .nan g => .nan g

/-! ## Rows (R328) -/

def f32i : FInfo := fInfo .f32
def round32 (v : FV × BitVec 5) : Nat × BitVec 5 :=
  let r := roundTo f32i .rne false false v.1
  (r.1, v.2 ||| r.2)

/-- The experts of a row in the order of selection. -/
def routeOrder (sel : List FV) : List Nat :=
  let before (a b : Nat × FV) : Bool :=
    if a.2.isNan then false else if b.2.isNan then true else fvLt b.2 a.2
  (sortBy before ((List.range sel.length).zip sel)).map (·.1)

/-- The weights of the selected scores, with flags: in either mode canonical NaN where a score is a NaN or the largest is infinite (R328). -/
def routeWeights (sig : Bool) (vs : List FV) : List Nat × BitVec 5 :=
  let mx := vs.foldl (fun m v => if fvLt m v then v else m) (getD vs 0 (.fin false 0 0))
  let infMx := match mx with | .inf _ => true | _ => false
  if vs.any FV.isNan || infMx then (vs.map (fun _ => encNan f32i), flNV)
  else
    let es := vs.map (fun v => round32 (if sig then sigmoid v else expNeg (fvAdd .rne v mx.neg).1, 0))
    let dec (x : Nat) : FV := decFloat f32i x
    let sum := (es.drop 1).foldl (fun (a : Nat × BitVec 5) e =>
      let r := round32 (fvAdd .rne (dec a.1) (dec e.1))
      (r.1, a.2 ||| e.2 ||| r.2)) (getD es 0 (0, 0))
    if fvZero (dec sum.1) then (es.map (fun _ => 0), sum.2)
    else
      let ws := es.map (fun e => round32 (fvDiv 60 (dec e.1) (dec sum.1)))
      (ws.map (·.1), ws.foldl (fun a w => a ||| w.2) sum.2)

/-- One row: the experts selected, their weights, flags. -/
def routeRow (d : List Byte) (bias : List FV) (scores : List Nat) : List Nat × List Nat × BitVec 5 :=
  let vs := scores.map (decFloat (fInfo (rdFmt d)))
  let sel := (vs.zip bias).map (fun p => decFloat f32i (round32 (fvAdd .rne p.1 p.2)).1)
  let idx := (routeOrder sel).take (rdK d)
  let w := routeWeights (rdSigmoid d) (idx.map (fun e => getD vs e (.fin false 0 0)))
  (idx, w.1, w.2)

/-! ## A pass -/

/-- All rows of a pass: indices, weights, flags. -/
def routeAll (o : EngOp) : List Nat × List Nat × BitVec 5 :=
  let d := o.desc
  let n := rdExperts d
  let bias := (List.range n).map (fun e => if rdBias d = 0 then .fin false 0 0 else decFloat f32i (ofBytes (bufBytes o (8 * e) 4)))
  (List.range (rdRows d)).foldl (fun (a : List Nat × List Nat × BitVec 5) t =>
    let scores := (List.range n).map (fun e => ofBytes (bufBytes o (scoreOff d t + e * rdBytes d) (rdBytes d)))
    let r := routeRow d bias scores
    (a.1 ++ r.1, a.2.1 ++ r.2.1, a.2.2 ||| r.2.2)) ([], [], 0)

def histOf (n : Nat) (idx : List Nat) : List Nat := (List.range n).map (fun e => (idx.filter (· == e)).length)
def offsOf (hist : List Nat) : List Nat := hist.foldl (fun a h => a ++ [a.getLastD 0 + h]) [0]
/-- The assignments by expert, then by number (R329). -/
def permOf (n : Nat) (idx : List Nat) : List Nat :=
  (List.range n).flatMap (fun e => ((List.range idx.length).zip idx).filterMap (fun p => if p.2 = e then some p.1 else none))

/-- The writes of a list of 32-bit words, in pieces of at most 1024. -/
def wordItems (va : DWord) (ws : List Nat) : List EngItem :=
  (List.range (divUp ws.length 1024)).map (fun i =>
    writeItem (va + ofN64 (4096 * i)) (((ws.drop (1024 * i)).take 1024).flatMap (fun w => leBytes 4 w)))

/-- The output of a pass (R327, R329), and its flags. -/
def routeWrites (o : EngOp) : List EngItem × BitVec 5 :=
  let d := o.desc
  let r := routeAll o
  let hist := histOf (rdExperts d) r.1
  (wordItems (descW d 4) r.1 ++ wordItems (descW d 5) r.2.1 ++ wordItems (descW d 6) (hist ++ offsOf hist) ++
    wordItems (descW d 7) (permOf (rdExperts d) r.1), r.2.2)

/-- The operation that a die's Sorus engine works on: the first of the die (R330). -/
def routeHead (s : State) (die : Nat) : Option EngOp := s.engines.find? (fun o => o.kind == .route && o.die == die)

/-- ROUTE_RUN: with every bias cell and score at hand, the outputs are computed and sent to their homes (R328, R329). -/
def execRouteRun (die : Nat) (s : State) : Host.Outcome State Fault Refusal :=
  if 8 ≤ die then .fault .noSuchUnit
  else match routeHead s die with
    | none => .next s
    | some o =>
      if o.phase = .running ∧ o.busy = false ∧ engIdle o ∧ engRuns s o then
        let w := routeWrites o
        let s := raiseCush (updEng s o.id (fun o => { o with busy := true })) o.cush w.2
        .next (engAsk s o.id w.1)
      else .next s

end Sys2Proof.Machine
end

