-- ==== Sys2Proof/Machine/Engine.lean ====
section
/-! DEFINITION. Steps of the copy, Unfurl and Sorus engines: descriptors, replies, counted bytes, completion (R236, R237, R316 to
R320, R412, R414, R415); and acknowledgements, on which fork edges wait (R45). -/

namespace Sys2Proof.Machine

/-! ## COPY_DESCRIPTOR_READ -/

/-- A counted operation begins when its tiles allow it; ROUTE at once. -/
def engBegin (s : State) (id : Nat) : State :=
  match getEng s id with
  | none => s
  | some o =>
    if o.phase ≠ .counted ∨ !engRuns s o then s
    else match o.kind with
      | .route => engAsk (updEng s id (fun o => { o with phase := .running })) id (routeReads o.desc)
      | .cpyd => blockAsk (copyStart s o) id
      | _ => rowAsk (copyStart s o) id

/-- Ask for the descriptor (R412, R414). -/
def descAsk (s : State) (o : EngOp) : State :=
  let n := if o.kind = .route then 64 else 32
  if o.b.toNat % n ≠ 0 then failEng s o (if o.kind = .route then 0x302 else 0x300) o.b 0 false
  else engAsk (updEng s o.id (fun o => { o with phase := .descRead })) o.id [readItem o.b n 0]

/-- Check the descriptor that has come, and count (R385, R412, R414, R415). -/
def descCheck (s : State) (c : Cushion) (k : Kernel) (o : EngOp) : State :=
  if o.kind = .route then
    let d := bufBytes o 0 64
    match routeBad d with
    | some r => failEng s o 0x302 o.b (ofN64 r) false
    | none => engCount (updEng s o.id (fun o => { o with desc := d })) { o with desc := d } (routeTotal d)
  else
    let d := bufBytes o 0 32
    let i := if o.kind = .cpySt then o.src else o.dst
    match strideBad o.kind (getTile c i) d with
    | some r => failEng s o 0x300 o.b (ofN64 r) false
    | none =>
      if tileOutside c k.scratch i (sdCount d) then failEng s o 0x11D 0 (trapW4 0x11D i) false
      else
        let o' := { o with desc := d }
        engCount (updEng s o.id (fun o => { o with desc := d })) o' (rowTotal c o' * rowCount c o')

/-- COPY_DESCRIPTOR_READ: the operation asks for its descriptor; once that has come it is checked and the hold replaced by the
byte count; a counted operation starts when its tiles allow it. -/
def execCopyDescriptorRead (op : Nat) (s : State) : Host.Outcome State Fault Refusal :=
  match getEng s op with
  | none => .next s
  | some o =>
    match getCush s o.cush, getCarpet s o.carpet with
    | some c, some k =>
      if !engRuns s o || o.stalled || (o.kind == .route && (routeHead s o.die).map (·.id) != some op) then .next s
      else match o.phase with
        | .issued =>
          if o.kind = .cpyTt then .next (engBegin (engCount s o (rowTotal c o * rowCount c o)) op) else .next (descAsk s o)
        | .descRead => .next (if engIdle o then engBegin (descCheck s c k.ker o) op else engPump s op)
        | .counted => .next (engBegin s op)
        | _ => .next s
    | _, _ => .next s

/-! ## ENGINE_READ_REPLY -/

/-- What an operation does with the bytes that have come: a CPY writes them out, a CPYD goes from a header to its block. -/
def engCome (s : State) (id : Nat) : State :=
  match getEng s id with
  | none => s
  | some o =>
    if !engIdle o || o.phase != .running then s
    else match o.kind with
      | .cpy => engAsk s id (cpyWrites o)
      | .cpyd =>
        if !o.busy || o.fails.isSome then s
        else if !o.header then headerCome s o
        else if o.table then tableCome s o else s
      | _ => s

/-- ENGINE_READ_REPLY: the k-th reply in flight arrives at an engine (R236), once there is a way from its die (R421). -/
def execEngineReadReply (k : Nat) (s : State) : Host.Outcome State Fault Refusal :=
  match s.replies[k]? with
  | none => .next s
  | some r =>
    let t := { s with replies := s.replies.filter (fun q => q.id != r.id) }
    if !replyWay s r then .next s
    else match r.what with
    | .bytes (.engine id _) bs =>
      .next (engCome (updEng t id (fun o => { o with want := o.want - 1, buf := o.buf ++ bs })) id)
    | .bytes (.matrix id _) bs =>
      let up : MatOp → MatOp := fun o => { o with outstanding := o.outstanding - 1, image := o.image ++ bs }
      .next { t with cushions := t.cushions.map (fun c => { c with mq := updIf (fun o => o.id == id) up c.mq }) }
    | _ => .next s

/-! ## Counted bytes -/

/-- The acknowledgement of an engine write that waits to be counted; one without a way from its die has not come (R421). -/
def engAck (s : State) (id : Nat) : Option (Ack × Nat) :=
  s.acks.findSome? (fun a => match a.tgt with | .engine i n => if i = id ∧ ackWay s a = true then some (a, n) else none | _ => none)

/-- How many counted bytes the next piece of an operation holds, if one has been applied at its destination. -/
def enginePiece (s : State) (o : EngOp) : Option Nat :=
  match o.kind with
  | .cpy | .cpySt | .route => (engAck s o.id).map (·.2)
  | .cpyd => if 0 < o.uncounted then some o.uncounted else none
  | .cpyLd | .cpyTt =>
    if o.phase = .running ∧ o.busy ∧ engIdle o then (getCush s o.cush).map (fun c => rowBatch c o * rowCount c o) else none

/-- Apply a piece: the row in flight lands, or an acknowledgement is taken; the token counts down (R237). -/
def applyPiece (s : State) (o : EngOp) (n : Nat) : State :=
  let s := match o.kind with
    | .cpy | .cpySt | .route =>
      match engAck s o.id with
      | some (a, _) => updEng { s with acks := s.acks.filter (fun b => b.id != a.id) } o.id (fun o => { o with want := o.want - 1, left := o.left - n })
      | none => s
    | .cpyd => updEng s o.id (fun o => { o with uncounted := o.uncounted - n, left := o.left - n })
    | .cpyLd | .cpyTt => match getCush s o.cush with | some c => rowApply s c o | none => s
  tokenDown s o.cush o.tok n

/-- A CPYT.st whose row is applied, or an operation that has nothing in flight, takes up its next row or block (R332). -/
def engNext (s : State) (id : Nat) : State :=
  match getEng s id with
  | none => s
  | some o =>
    match o.kind with
    | .cpySt =>
      let k := ((getCush s o.cush).map (fun c => rowBatch c o)).getD 1
      if o.busy ∧ engIdle o then rowAsk (updEng s id (fun o => { o with busy := false, row := o.row + k })) id else rowAsk s id
    | .cpyLd | .cpyTt => rowAsk s id
    | .cpyd => blockAsk s id
    | _ => s

/-- Counted bytes or writes of a matrix operation: a write of MXRD is acknowledged, or the next row of MRD lands. MRD waits for
the writes of earlier operations, which the head of the queue has behind it (R309). -/
def matApply (s : State) (op : Nat) : State :=
  match matCush s op with
  | none => s
  | some (c, o) =>
    match s.acks.find? (fun a => a.tgt == .matrix op && ackWay s a) with
    | some a => updOp { s with acks := s.acks.filter (fun b => b.id != a.id) } c.cid op (fun o => { o with outstanding := o.outstanding - 1 })
    | none => if o.phase = .running ∧ opGoes s c o then mrdLand s c o else s

/-- COPY_BYTES_APPLIED: a piece but the last is applied and counted; with nothing in flight the next piece is taken up. -/
def execCopyBytesApplied (op : Nat) (s : State) : Host.Outcome State Fault Refusal :=
  match getEng s op with
  | some o =>
    if !engLive s o then .next s
    else match enginePiece s o with
      | some n => .next (if n < o.left then engNext (applyPiece s o n) op else s)
      | none => .next (engNext (engPump s op) op)
  | none => .next (matApply s op)

/-- COPY_COMPLETE: the last counted byte lands, and the tiles become READY or EMPTY (R237, R297). -/
def execCopyComplete (op : Nat) (s : State) : Host.Outcome State Fault Refusal :=
  match getEng s op with
  | none => .next s
  | some o =>
    if !engLive s o || o.phase != .running then .next s
    else if o.left = 0 then .next (copyEnd s o)
    else match enginePiece s o with
      | some n => .next (if n = o.left then copyEnd (applyPiece s o n) o else s)
      | none => .next s

/-! ## STORE_ACK -/

/-- Some access of a store is not acknowledged yet (R45, R251). -/
def storePending (s : State) (cush num : Nat) : Bool :=
  s.reqs.any (fun r => opStore r.op == some (cush, num)) || s.acks.any (fun a => ackStore a.tgt == some (cush, num)) ||
    s.remote.any (fun r => opStore r.2.op == some (cush, num)) || s.held.any (fun h => match h.act with
      | .send r | .far r _ _ _ _ => opStore r.op == some (cush, num)
      | _ => false)

/-- An access of a store is acknowledged: with the last, the store is counted down (R45). -/
def storeAcked (s : State) (fid cush num : Nat) : State := if storePending s cush num then s else countDown s fid cush 1

/-- STORE_ACK: the k-th acknowledgement in flight arrives at the core that sent the write (R45, R31, R207); once there is a way from its
die (R421); what waited on counters and write-backs goes on. The count-up of an away CPY reaches the home token (R317). -/
def execStoreAck (k : Nat) (s : State) : Host.Outcome State Fault Refusal :=
  match s.acks[k]? with
  | none => .next s
  | some a =>
    let t := { s with acks := s.acks.filter (fun b => b.id != a.id), wbs := s.wbs.filter (fun w => w.2 != a.id) }
    if !ackWay s a then .next s
    else match a.tgt with
    | .store fid cush num => .next (engForkAll (pump (storeAcked t fid cush num)))
    | .writeBack _ => .next (engForkAll (pump t))
    | .nothing | .link _ _ => .next t
    | .tokenUp op fid cush =>
      match getEng t op, getCush t cush with
      | some o, some c =>
        if 0xFFFFFFFF < getTk c o.tok + 32 then .next (failEng t o 0x304 0 (ofN64 o.tok) false)
        else
          let t := tokenUp (updEng t op (fun o => { o with upDue := false })) cush o.tok 32
          .next (engForkAll (pump (countDown t fid cush 1)))
      | _, _ => .next (pump (countDown t fid cush 1))
    | .engine _ _ | .matrix _ => .next s

end Sys2Proof.Machine
end

