-- ==== Sys2Proof/Machine/Sched.lean ====
section
/-! DEFINITION. Fronds and runs (R35, R346), forced parks and compaction (R43, R344), restoration of spores (R43, R47, R180,
R343), landing (R48, R263), aging (R53), and the end of cushions and carpets (R52, R339, R406). -/

namespace Sys2Proof.Machine

/-- The context of a carpet runs and the carpet lives. -/
def carpetRuns (s : State) (id : Nat) : Bool :=
  match getCarpet s id with
  | some k => !k.dead && decide (ctxState s k.asid = 0)
  | none => false

/-- A core's die takes part: it is neither halted nor in reset (R427, R376). -/
def coreRuns (s : State) (core : Nat) : Bool := !dieHalt s (dieOf core) && !dieInReset s (dieOf core)

/-! ## Issue (R346, R417) -/

def frondHeld (s : State) (fr : Nat) : Bool := s.slots.any (fun k => k.frond == some fr)
def frondLanes (s : State) (f : Frond) : List Fibre := f.members.filterMap (getFibre s)
def frondPrio (s : State) (f : Frond) : Nat := (frondLanes s f).foldl (fun m g => max m g.prio) 0
def frondLane (s : State) (f : Frond) : Nat := (frondLanes s f).foldl (fun m g => min m g.lane) 32
def frondPc (s : State) (f : Frond) : Option DWord := ((frondLanes s f).head?).map (·.pc)

/-- A frond that an issue slot may take. -/
def frondReady (s : State) (core : Nat) (f : Frond) : Bool :=
  f.core == core && !frondHeld s f.fr &&
    (match getCush s f.cush with | some c => carpetRuns s c.carpet | none => false)

/-- Distance of a cushion slot after the one last served, counting round. -/
def slotDist (last slot : Nat) : Nat := (slot + 15 - last % 16) % 16

/-- The frond that a slot takes at the end of its run (R346). Between fronds that the rule leaves equal, of one cushion and with one lowest lane, the
order of `State.fronds` decides (DESIGN CHOICE, log entry 43). -/
def pickFrond (s : State) (core last : Nat) : Option Frond :=
  let fs := s.fronds.filter (frondReady s core)
  let top := fs.foldl (fun m f => max m (frondPrio s f)) 0
  let fs := fs.filter (fun f => frondPrio s f == top)
  let old := fs.foldl (fun m f => match m with | none => some f.age | some a => some (min a f.age)) none
  let fs := fs.filter (fun f => some f.age == old)
  let dist (f : Frond) : Nat := slotDist last (((getCush s f.cush).map (·.slot)).getD 0)
  let near := fs.foldl (fun m f => min m (dist f)) 16
  let fs := fs.filter (fun f => dist f == near)
  let fs := fs.filter (fun f => !fs.any (fun g => g.split == f.split && decide (g.order < f.order)))
  bestBy (fun a b => decide (frondLane s a < frondLane s b)) fs

/-- A lower free slot of the core, whose run ended in the same cycle, chooses first (R346). -/
def lowerSlotFirst (s : State) (core slot : Nat) : Bool :=
  match (getSlot s core slot).bind (·.endedAt) with
  | none => false
  | some t => s.slots.any (fun k => k.core == core && decide (k.slot < slot) && k.frond.isNone && k.endedAt == some t)

/-- RUN_START (R346): a free issue slot takes a frond, unless the gate of the power manager closes it (R417). -/
def execRunStart (core slot : Nat) (s : State) : Host.Outcome State Fault Refusal :=
  if 384 ≤ core ∨ 4 ≤ slot then .fault .noSuchUnit
  else
    let busy := (s.slots.filter (fun k => k.core == core && k.frond.isSome)).length
    -- an issue slot that has served no cushion slot: counting begins at slot 0 (DESIGN CHOICE, log entry 38)
    let last := ((getSlot s core slot).map (·.lastCush)).getD 15
    if ((getSlot s core slot).bind (·.frond)).isSome || !coreRuns s core || decide (ctlF s offPWEVT 8 3 ≤ busy) ||
        lowerSlotFirst s core slot then .next s
    else match pickFrond s core last with
      | none => .next s
      | some f =>
        let cs := ((getCush s f.cush).map (·.slot)).getD 0
        let rest := s.slots.filter (fun k => !(k.core == core && k.slot == slot))
        let k : IssueSlot := { core := core, slot := slot, frond := some f.fr, latches := [], lastCush := cs }
        .next { s with slots := rest ++ [k] }

/-- Whether two fronds may merge (R35). -/
def canMerge (s : State) (a b : Frond) : Bool :=
  a.fr != b.fr && a.core == b.core && a.cush == b.cush && a.away == b.away && frondReady s a.core a && frondReady s a.core b &&
    frondPc s a == frondPc s b &&
    (frondLanes s a).all (fun g => (frondLanes s b).all (fun h => g.lane != h.lane))

/-- FROND_MERGE (R35): the merged frond has the age of the older. -/
def execFrondMerge (a b : Nat) (s : State) : Host.Outcome State Fault Refusal :=
  match getFrond s a, getFrond s b with
  | some x, some y =>
    if canMerge s x y then
      let p := fresh s
      let m : Frond := { x with members := x.members ++ y.members, age := min x.age y.age, split := p.2, order := 0 }
      .next { p.1 with fronds := (updIf (fun f => f.fr == a) (fun _ => m) p.1.fronds).filter (fun f => f.fr != b) }
    else .next s
  | _, _ => .next s

/-! ## Forced parks (R43, R56) -/

/-- A forced park: the live-set table is not consulted, and the fibre waits on nothing (R43). -/
def forcedArgs (f : Fibre) : ParkArgs := { at_ := none, resume := f.pc, wait := .none, join := 0, dstG := 0, dstK := 0 }

/-- Force-park a resident fibre at its next instruction. -/
def forcePark (s : State) (fid : Nat) : State :=
  match getFibre s fid, s.fronds.find? (fun f => f.members.contains fid) with
  | some f, some fr =>
    if f.status = .resident then
      let s' := parkFibre s fr.fr f (forcedArgs f) id
      let held := s.slots.filter (fun k => k.frond == some fr.fr)
      held.foldl (fun s k => settleRun s k.core k.slot true) s'
    else s
  | _, _ => s

/-! ## Compaction (R344) -/

def freeIn (s : State) (core bank : Nat) : Nat := bankTop s core - sumBy (·.2) (occupied s core bank)

/-- The fibres whose windows meet a range of a bank. -/
def windowsIn (s : State) (core bank lo n : Nat) : List Fibre :=
  s.fibres.filter (fun f => f.core == core && f.lane == bank && f.status == .resident &&
    decide (f.winOff < lo + n) && decide (lo < f.winOff + 64 * f.winSize))

/-- Every spore that force-parking some fibres of a core would write has room (R404). -/
def sporesFit (s : State) (core : Nat) (fs : List Fibre) : Bool :=
  (fs.foldl (fun (st : Option State) f => st.bind (fun t =>
    let sp := sporeOf t f (forcedArgs f)
    (makeRoom t core (asidOf t f.carpet) (sporeBytes sp) f.fid).map (fun t => updFibre t f.fid (fun _ => sp)))) (some s)).isSome

/-- Room for a window of n granules in a bank: a free run, or one made by force-parking windows of equal or lower priority. -/
def windowRoom (s : State) (core bank n prio : Nat) : State × Option Nat :=
  match windowPlace s core bank n with
  | some o => (s, some o)
  | none =>
    if freeIn s core bank < 64 * n then (s, none)
    else
      let high := s.fibres.filter (fun f => f.core == core && f.lane == bank && f.status == .resident && decide (prio < f.prio))
      match lowestGap (stripesOn s core ++ high.map (fun f => (f.winOff, 64 * f.winSize))) (64 * n) 64 (bankTop s core) with
      | none => (s, none)
      | some o =>
        let fs := windowsIn s core bank o (64 * n)
        if sporesFit s core fs then
          let s := fs.foldl (fun s f => forcePark s f.fid) s
          (s, if windowsIn s core bank o (64 * n) = [] then some o else none)
        else (s, none)

/-! ## Restoration (R43, R47, R180, R343) -/

/-- Where a request on a bank's wait list comes from, with the cushion that picks up a task and its index there. -/
structure Wanted where
  f : Fibre
  need : Nat
  task : Option (Cushion × Nat)
  deriving DecidableEq, Repr

/-- The cushion of a core that could pick up a task record, and the index it would give (R29, R47). Of several such cushions the spec names
none: the model takes the lowest cushion slot (DESIGN CHOICE, log entry 28). -/
def taskHome (s : State) (core bank : Nat) (f : Fibre) : Option (Cushion × Nat) :=
  (sortBy (fun (a b : Cushion) => decide (a.slot < b.slot))
    (s.cushions.filter (fun c => c.core == core && c.carpet == f.carpet && !c.saved && !c.frozen))).findSome? (fun c =>
      match freeIdx s c.cid with
      | some i => if i % 32 = bank then some (c, i) else none
      | none => none)

/-- The core that has taken a spore, while a cushion there can still pick up a task record. -/
def takenBy (s : State) (f : Fibre) : Option Nat :=
  f.taken.filter (fun c => !f.task ||
    s.cushions.any (fun k => k.core == c && k.carpet == f.carpet && !k.saved && !k.frozen && (freeIdx s k.cid).isSome))

/-- A die-free or die-targeted spore is on the list of the core that has taken it; a core of the die may take it while no other has, and while it
has a free window of the spore's budget in the bank (R47, R343). That it waits for such a window, and compacts for none, before it takes the spore
is the model's choice (DESIGN CHOICE, log entry 28). -/
def mayTake (s : State) (core bank : Nat) (f : Fibre) : Bool :=
  match takenBy s f with
  | some c => c == core
  | none => f.tgtDie == dieOf core && (windowPlace s core bank f.winSize).isSome

/-- A fibre's request for a window in a bank of a core, if it has one, or could have once the core takes it (R47, R343). -/
def wantedBy (s : State) (core bank : Nat) (f : Fibre) : Option Wanted :=
  if f.saved || !carpetRuns s f.carpet then none
  else match f.status, f.wait with
    | .parked, .window n => if f.core = core ∧ f.lane = bank then some { f, need := n, task := none } else none
    | .ready, _ =>
      if f.task then
        if mayTake s core bank f then
          (taskHome s core bank f).map (fun t => { f := f, need := f.winSize, task := some t })
        else none
      else if f.lane ≠ bank then none
      else
        let here : Bool := match f.affinity with
          | 0 => ((getCush s f.cush).map (fun c => c.core == core && !c.frozen)).getD false
          | 3 => f.landed && f.landCore == some core
          | _ => mayTake s core bank f
        if here then some { f, need := f.winSize, task := none } else none
    | _, _ => none

/-- The wait list of a bank, its head first (R343). Between requests that the rule leaves equal, of several cushions, the order of `State.fibres`
decides (DESIGN CHOICE, log entry 43). -/
def waitHead (s : State) (core bank : Nat) : Option Wanted :=
  let idx (w : Wanted) : Nat := match w.task with | some t => t.2 | none => w.f.idx
  bestBy (fun a b => decide (b.f.prio < a.f.prio) || (a.f.prio == b.f.prio && (decide (a.f.age < b.f.age) ||
    (a.f.age == b.f.age && decide (idx a < idx b))))) (s.fibres.filterMap (wantedBy s core bank))

/-- The write-back of the parking core is under way or done, before a spore leaves that core (R207). -/
def claimFrom (s : State) (f : Fibre) : State × Bool :=
  match f.claim with
  | some b => (s, wbDone s f.core b)
  | none =>
    let s := l1WriteBackAll s f.core
    let b := s.nextId
    (updFibre s f.fid (fun f => { f with claim := some b }), wbDone s f.core b)

/-- The fibre in its new window. -/
def restored (w : Wanted) (core off : Nat) : Fibre :=
  let f := restoreRegs { w.f with winSize := w.f.winSize }
  let f := if w.need = w.f.winSize then f else resizeRegs f w.need
  let f := match w.task with
    | some (c, i) => { setX64 f 0 f.frame with frame := 0, task := false, home := none, cush := c.cid, idx := i, lane := i % 32, affinity := 0 }
    | none => f
  { f with status := .resident, wait := .none, joinCnt := 0, core := core, winOff := off, landCore := none, landed := false,
           claim := none, taken := none, liveG := 0, liveK := 0, group := none }

/-- The bank of a request. -/
def Wanted.bank (w : Wanted) : Nat :=
  match w.task with
  | some t => t.2 % 32
  | none => w.f.lane

/-- The requests served with the head of a list: those of its REFORM group, which resume as one frond (R36). None holds a window while it
waits for another (R55), so each must head the list of its own bank (R343). -/
def servedWith (s : State) (core : Nat) (w : Wanted) : Option (List Wanted) :=
  match w.f.group with
  | none => some [w]
  | some g =>
    let heads := (s.fibres.filter (fun f => f.group == some g)).map (fun f => (waitHead s core f.lane).filter (fun v => v.f.fid == f.fid))
    if heads.all (·.isSome) then some (heads.filterMap id) else none

/-- A window for each of some requests. -/
def placeWanted (s : State) (core : Nat) (ws : List Wanted) : State × Option (List Fibre) :=
  ws.foldl (fun (st : State × Option (List Fibre)) w =>
    match st.2 with
    | none => st
    | some fs =>
      match windowRoom st.1 core w.bank w.need w.f.prio with
      | (s, none) => (s, none)
      | (s, some off) => (updFibre s w.f.fid (fun _ => restored w core off), some (fs ++ [restored w core off]))) (s, some [])

/-- The core takes the spores of some requests that come from a die-free queue (R343). -/
def takeSpores (s : State) (core : Nat) (ws : List Wanted) : State :=
  ws.foldl (fun s w => if w.f.task || w.f.affinity == 1 || w.f.affinity == 2 then updFibre s w.f.fid (fun f => { f with taken := some core }) else s) s

/-- A spore is read in which a poisoned unit lies: the read is refused, and its carpet touched (R418). -/
def sporeRefused (s : State) (core : Nat) (f : Fibre) : State :=
  match f.poisoned with
  | some p => poisonRead s p 0 (some f.carpet) (some core)
  | none => s

/-- SPORE_RESTORE: the head of a bank's wait list is served if its window fits; a spore of the die's die-free queue that would head the list is
taken first (R343, R344). -/
def execSporeRestore (core bank : Nat) (s : State) : Host.Outcome State Fault Refusal :=
  if 384 ≤ core ∨ 32 ≤ bank then .fault .noSuchUnit
  else if !coreRuns s core then .next s
  else match (waitHead s core bank).bind (servedWith s core) with
    | none => .next s
    | some ws =>
      let moves := ws.filter (fun w => w.f.core != core)
      if ws.any (fun w => w.f.poisoned.isSome) then .next (ws.foldl (fun s w => sporeRefused s core w.f) s)
      else
      let cl := moves.foldl (fun (st : State × Bool) w => let c := claimFrom st.1 w.f; (c.1, st.2 && c.2)) (takeSpores s core ws, true)
      if !cl.2 then .next cl.1
      else match placeWanted cl.1 core ws with
        | (t, some (f :: fs)) =>
          let t := if moves.isEmpty then t else moves.foldl (fun s w => ranOn s w.f.carpet core) (l1Invalidate t core)
          .next (frondOf t f ((f :: fs).map (·.fid)) ((ws.map (·.f.age)).foldl min f.age))
        | _ => .next cl.1

/-- SPORE_AGE_PROMOTE (R53). -/
def execSporeAgePromote (fibre : Nat) (s : State) : Host.Outcome State Fault Refusal :=
  match getFibre s fibre with
  | none => .next s
  | some f =>
    let base := ((getCarpet s f.carpet).map (·.pkt.prio)).getD 0
    if f.status = .ready ∧ f.prio < 3 ∧ carpetRuns s f.carpet ∧ f.age + 2 ^ 20 * (f.prio + 1 - base) ≤ s.clock then
      .next (updFibre s fibre (fun f => { f with prio := f.prio + 1 }))
    else .next s

/-! ## Landing (R48, R263) -/

def landingUse (s : State) (core : Nat) : Nat := (s.fibres.filter (fun f => f.landCore == some core)).length

/-- The core of a die that gives a landing slot: the most free space in the bank, the lower number on ties; its record area can hold the
spore beside those it has granted a slot to (R263, R404). -/
def landingCore (s : State) (die : Nat) (f : Fibre) : Option Nat :=
  let due (c : Nat) : Nat := sumBy (fun g => if g.landCore = some c ∧ !g.landed ∧ g.core ≠ c then sporeBytes g else 0) s.fibres
  let ok (c : Nat) : Bool := decide (landingUse s c < 8) && decide (recordUse s c + due c + sporeBytes f ≤ recBytes s c)
  bestBy (fun a b => decide (freeIn s b f.lane < freeIn s a f.lane)) (((List.range 48).map (fun c => 48 * die + c)).filter ok)

/-- LANDING_RESERVE_GRANT: the target die grants its oldest request (R263). -/
def execLandingReserveGrant (die : Nat) (s : State) : Host.Outcome State Fault Refusal :=
  if 8 ≤ die then .fault .noSuchUnit
  else
    let runs (r : LandReq) : Bool := match getFibre s r.fid with | some f => carpetRuns s f.carpet && !f.saved | none => false
    match s.landing.find? (fun r => r.die == die && runs r) with
    | none => .next s
    | some r =>
      if dieHalt s die || dieInReset s die then .next s
      else match getFibre s r.fid with
        | none => .next { s with landing := s.landing.filter (fun q => q.fid != r.fid) }
        | some f =>
          match landingCore s die f with
          | none => .next s
          | some c =>
            let s := { s with landing := s.landing.filter (fun q => q.fid != r.fid) }
            .next (updFibre s r.fid (fun f => { f with landCore := some c }))

/-- The copy of the home cushion's FCTL is taken when the spore leaves the home die (R49). -/
def leavesHome (s : State) (f : Fibre) : BitVec 4 :=
  match getCush s f.cush with
  | some c => if dieOf f.core = dieOf c.core then c.fctlIn s.clock else f.awFctl
  | none => f.awFctl

/-- SPORE_LAND: a sent spore arrives once its parking core's dirty words are written back (R48, R207). With no room for it there its carpet
ends at its MIGRATE (R404, cause 2). -/
def execSporeLand (fibre : Nat) (s : State) : Host.Outcome State Fault Refusal :=
  match getFibre s fibre with
  | none => .next s
  | some f =>
    match f.landCore with
    | none => .next s
    | some c =>
      if f.landed ∨ !carpetRuns s f.carpet ∨ !coreRuns s c ∨ !diesConnected s (dieOf f.core) (dieOf c) then .next s
      else if f.poisoned.isSome then .next (sporeRefused s f.core f)
      else
        let p := claimFrom s f
        if !p.2 then .next p.1
        else
          let t := updFibre (l1Invalidate p.1 c) fibre (fun g => { g with landed := true, core := c, claim := none, awFctl := leavesHome p.1 f })
          let others := { p.1 with fibres := p.1.fibres.filter (fun g => g.fid != fibre) }
          .next (match makeRoom others c (asidOf s f.carpet) (sporeBytes f) fibre with
            | some r => ranOn { t with spilled := r.spilled } f.carpet c
            | none => fatalFibre p.1 f 0x20A (f.pc - 8#64) 0 (spaceW4 p.1 (asidOf p.1 f.carpet) 2) false)

/-! ## Ends (R52, R339, R406) -/

/-- A cushion all of whose fibres have retired could restore a task record: its budget's window fits a bank beside the stripes of its core
(R47, R52; log entry 28). -/
def couldRestore (s : State) (c : Cushion) (f : Fibre) : Bool :=
  f.task && f.carpet == c.carpet && f.tgtDie == dieOf c.core &&
    (lowestGap (stripesOn s c.core) (64 * f.winSize) 64 (bankTop s c.core)).isSome

/-- Nothing of a cushion is left to be done (R52). -/
def cushionDone (s : State) (c : Cushion) : Bool :=
  !s.fibres.any (fun f => (f.cush == c.cid && !f.task) || couldRestore s c f) &&
  !s.engines.any (fun o => o.cush == c.cid) && c.mq.isEmpty && c.retired == 0 &&
  !s.held.any (fun h => h.cush == c.cid)

/-- The lowest convergence register that is part-signed. -/
def partSigned (c : Cushion) : Option (Nat × Nat) :=
  ((List.range c.cvs.length).zip c.cvs).findSome? (fun p => if p.2.count = 0 then none else some (p.1, p.2.count))

/-- CUSHION_END (R52, R406). The task records it leaves go on naming it (R41). -/
def execCushionEnd (cushion : Nat) (s : State) : Host.Outcome State Fault Refusal :=
  match getCush s cushion with
  | none => .next s
  | some c =>
    if c.frozen ∨ c.saved ∨ !carpetRuns s c.carpet ∨ !cushionDone s c then .next s
    else match partSigned c with
      | some (i, n) => .next (fatalEngine s c.carpet (asidOf s c.carpet) c.core c.slot 0x20B 0 0 (ofN64 (i + n * 2 ^ 16)) none)
      | none =>
        let s := returnGrant s cushion
        .next { s with
          cushions := s.cushions.filter (fun d => d.cid != cushion)
          power := s.power.filter (fun p => p.cush != cushion)
          fibres := updIf (fun f => f.task && f.cush == cushion) (fun (f : Fibre) => { f with home := some (placeOfCush c) }) s.fibres }

def patchCount (p : Packet) : Nat := p.px * p.py * p.pz

/-- The launch unit's completion join, or the record that reports it was not made (R339); none after a reset of its queue's die (R428). -/
def completionJoin (s : State) (k : Carpet) : State :=
  if !k.pkt.cjv || k.noJoin then s
  else
    let die := k.q % 8
    match cellOf s k.asid k.pkt.cjAddr with
    | some (r, off, ct) => crustJoin s die k.asid r off ct k.pkt.cjVal.toNat
    | none =>
      queueRec s k.asid (mkRec s 2 0x208 k.asid 0 (recW2 k.id 0x1FF 0 0x3FF 0) k.pkt.cjAddr (ofN64 (regionNear s k.asid k.pkt.cjAddr)))
        .nothing

/-- CARPET_RETIRE: every patch is placed, every cushion has ended, no task is left; the join is a release at system scope, so
dirty words of the L1s go to their homes first (R52, R242, R339). -/
def execCarpetRetire (carpet : Nat) (s : State) : Host.Outcome State Fault Refusal :=
  match getCarpet s carpet with
  | none => .next s
  | some k =>
    if k.dead ∨ k.placed ≠ patchCount k.pkt ∨ s.cushions.any (fun c => c.carpet == carpet) ∨ s.fibres.any (fun f => f.carpet == carpet) then
      .next s
    else match k.barrier with
      | none =>
        let cores := ((s.l1.filter (fun l => l.dirty != 0)).map (·.core)).dedup
        let s := cores.foldl l1WriteBackAll s
        let b := s.nextId
        .next (updCarpet s carpet (fun k => { k with barrier := some b }))
      | some b =>
        if s.wbs.all (fun w => decide (b ≤ w.2)) ∧ !dieHalt s (k.q % 8) ∧ !dieInReset s (k.q % 8) then
          .next { completionJoin s k with carpets := (completionJoin s k).carpets.filter (fun c => c.id != carpet) }
        else .next s

end Sys2Proof.Machine
end

