-- ==== Sys2Proof/Machine/Launch.lean ====
section
/-! DEFINITION. Launch units (R334 to R339): reading a packet, its checks and the kernel image's (R67 to R73); and the placer
(R340 to R342, R344). -/

namespace Sys2Proof.Machine

/-! ## Launch queues (R334) -/

def lqV (s : State) (a q : Nat) : Bool := ctlB s (offLQ a q) 0
def lqLog2 (s : State) (a q : Nat) : Nat := ctlF s (offLQ a q) 8 4
def lqRing (s : State) (a q : Nat) : DWord := ctlW s (offLQ a q + 8)
def lqTail (s : State) (a q : Nat) : DWord := ctlW s (offLQ a q + 0x10)
def lqHead (s : State) (a q : Nat) : Nat := ctlF s (offLQ a q + 0x18) 0 32

/-- The launch unit of a die serves queues: the die is neither halted nor in reset (R376, R427). -/
def launchRuns (s : State) (a q : Nat) : Bool :=
  decide (ctxState s a = 0) && !dieHalt s (q % 8) && !dieInReset s (q % 8)

/-! ## Reads of the launch unit (R68, R338) -/

/-- What a launch unit gets from memory: a value, nothing, or nothing yet, since its die's walker is busy (R216); or it has no route to a package:
the address and the package (R423). -/
inductive LRes (α : Type) where
  | ok (a : α)
  | fail
  | wait
  | lost (va : DWord) (pkg : Nat)
  deriving DecidableEq, Repr

/-- Go on with what a launch unit has got. -/
def LRes.andThen {α β : Type} (r : State × LRes α) (k : State → α → State × LRes β) : State × LRes β :=
  match r with
  | (s, .ok a) => k s a
  | (s, .fail) => (s, .fail)
  | (s, .wait) => (s, .wait)
  | (s, .lost va pkg) => (s, .lost va pkg)

/-- Go on where a condition holds, and fail where it does not. -/
def LRes.check {α : Type} (c : Bool) (a : α) : LRes α := if c then .ok a else .fail

/-- One read of at most 64 KiB by a launch unit: nothing when it cannot be read. Bytes of another package are free values; for the port hash the
launch unit has no core (log entry 22). -/
def launchPart (s : State) (die asid : Nat) (va : DWord) (n : Nat) : State × LRes (List Byte) :=
  match xlateWalk s die asid { kind := .load, va := va, n := n, r := true, w := false, x := false, crust := none } with
  | (s, .ok xs) =>
    if xs.any (fun x => leafCR x.2.2.leaf) then (s, .fail)
    else
      let ps := placesOf s xs
      let as := ps.filterMap (fun p => match p with | .mem _ a => some a | _ => none)
      match poisonedAt s as, unrouted s noCore ps with
      | some p, _ => (poisonRead s p 1 none none, .fail)
      | none, some pkg => (s, .lost va pkg)
      | none, none =>
        let s := l2TouchAll die 0 false s as
        let bs := ((List.range ps.length).zip ps).map (fun p => match p.2 with
          | .mem _ a => physRead s a
          | _ => (Config.freeValue (s.oracle + p.1)).setWidth 8)
        (if as.length = ps.length then s else { s with oracle := s.oracle + ps.length }, .ok bs)
  | (s, .busy a) => (queueWalk s die asid a [] none, .wait)
  | (s, .poisoned p) => (poisonRead s p 1 none none, .fail)
  | (s, _) => (s, .fail)

/-- A read of n bytes, in parts of 4 KiB. -/
def launchRead (s : State) (die asid : Nat) (va : DWord) (n : Nat) : State × LRes (List Byte) :=
  (List.range (divUp n 4096)).foldl (fun (st : State × LRes (List Byte)) i =>
    LRes.andThen st (fun s bs =>
      LRes.andThen (launchPart s die asid (va + ofN64 (4096 * i)) (min 4096 (n - 4096 * i))) (fun s cs => (s, .ok (bs ++ cs))))) (s, .ok [])

/-- A field of n bytes in a byte list. -/
def fieldOf (bs : List Byte) (off n : Nat) : Nat := ofBytes ((bs.drop off).take n)

def dword (bs : List Byte) (off : Nat) : DWord := ofN64 (fieldOf bs off 8)

/-! ## The packet (R337) -/

/-- The fields of a packet's 128 bytes; reserved bits of an absent condition's words are ignored with it. -/
def packetOf (addr : Nat) (b : List Byte) : Packet where
  addr := addr
  kernel := dword b 0
  param := dword b 8
  px := fieldOf b 0x10 2 + 1
  py := fieldOf b 0x12 2 + 1
  pz := fieldOf b 0x14 2 + 1
  stages := fieldOf b 0x16 2 % 16
  width := fieldOf b 0x16 2 / 16 % 32
  nfib := fieldOf b 0x18 2 % 2048
  prodLo := fieldOf b 0x1A 2
  prodHi := fieldOf b 0x1C 2
  prio := fieldOf b 0x1E 2 % 4
  scv := (fieldOf b 0x1E 2).testBit 2
  cjv := (fieldOf b 0x1E 2).testBit 3
  dieMask := BitVec.ofNat 8 (fieldOf b 0x20 1)
  die0 := fieldOf b 0x21 1 % 8
  asid := fieldOf b 0x24 4 % 16
  scAddr := dword b 0x28
  scThr := dword b 0x30
  scType := fieldOf b 0x38 8 % 16
  cjAddr := dword b 0x40
  cjVal := dword b 0x48
  cjType := fieldOf b 0x50 8 % 16
  reservedBad :=
    decide (fieldOf b 0x16 2 / 2 ^ 9 ≠ 0) || decide (fieldOf b 0x18 2 / 2 ^ 11 ≠ 0) || decide (fieldOf b 0x1E 2 / 16 ≠ 0) ||
      decide (fieldOf b 0x21 1 / 8 ≠ 0) || decide (fieldOf b 0x22 2 ≠ 0) || decide (fieldOf b 0x24 4 / 16 ≠ 0) ||
      ((fieldOf b 0x1E 2).testBit 2 && decide (fieldOf b 0x38 8 / 16 ≠ 0)) ||
      ((fieldOf b 0x1E 2).testBit 3 && decide (fieldOf b 0x50 8 / 16 ≠ 0)) || (b.drop 0x58).any (fun x => x != 0)

/-- The tail value a launch unit sees, none when no active region covers the cell (R335). -/
def tailValue (s : State) (a q : Nat) : Option Nat := ldgeValue s (q % 8) a (lqTail s a q) 0

/-- LAUNCH_PACKET_READ: the tail has reached HEAD + 1 (R335, R336). -/
def execLaunchPacketRead (asid q : Nat) (s : State) : Host.Outcome State Fault Refusal :=
  if 16 ≤ asid ∨ 16 ≤ q then .fault .noSuchUnit
  else
    let head := lqHead s asid q
    let due : Bool := match tailValue s asid q with | some v => decide (head + 1 ≤ v) | none => false
    if !lqV s asid q || !launchRuns s asid q || s.packets.any (fun p => p.asid == asid && p.q == q) || !due then .next s
    else
      let va := lqRing s asid q + ofN64 (128 * (head % 2 ^ lqLog2 s asid q))
      let take (t : State) (readable : Bool) (bs : List Byte) (lost : Option (DWord × Nat)) : State :=
        let p : ReadPacket := { asid := asid, q := q, addr := va.toNat, index := head, readable := readable, pkt := packetOf va.toNat bs, lost := lost }
        let t : State := ctlSetF t (offLQ asid q + 0x18) 0 32 (head + 1)
        { t with packets := t.packets ++ [p] }
      match launchRead s (q % 8) asid va 128 with
      | (t, .ok bs) => .next (take t true bs none)
      | (t, .fail) => .next (take t false [] none)
      | (t, .lost v pkg) => .next (take t false [] (some (v, pkg)))
      | (_, .wait) => .next s

/-! ## Acceptance (R338) -/

/-- A condition's cell as the packet's own checks see it: type, alignment, value layout (R337). -/
def cellWellFormed (addr : DWord) (ct : Nat) (v : DWord) (join : Bool) : Bool :=
  decide (ct ≤ 10) && decide (addr.toNat % cellSize ct = 0) &&
    (decide (getF v 32 32 = 0) || !(decide (cellSize ct = 4) || (join && decide (ct = 10))))

/-- The page of the cell is a crust page of the type (R338). -/
def cellPage (s : State) (die asid : Nat) (addr : DWord) (ct : Nat) : State × LRes Unit :=
  match xlateWalk s die asid { kind := .load, va := addr, n := 1, r := false, w := false, x := false, crust := none } with
  | (s, .ok xs) => (s, if xs.all (fun x => leafCR x.2.2.leaf && leafCtype x.2.2.leaf == ct) then .ok () else .fail)
  | (s, .busy a) => (queueWalk s die asid a [] none, .wait)
  | (s, .poisoned p) => (poisonRead s p 1 none none, .fail)
  | (s, _) => (s, .fail)

/-- Phase 1 without the pages (R338). -/
def packetFields (a : Nat) (p : Packet) : Bool :=
  decide (p.kernel.toNat % 256 = 0) && canonicalVA p.kernel && !p.reservedBad && decide (1 ≤ p.stages) && decide (p.stages ≤ 8) &&
    decide (1 ≤ p.width) && decide (p.width ≤ 16) && decide (p.stages * p.width ≤ 128) && decide (1 ≤ p.nfib) &&
    decide (p.nfib ≤ 1024) && decide (p.prodLo ≤ p.prodHi) && decide (p.prodHi ≤ 1023) && decide (p.asid = a) &&
    (!p.scv || cellWellFormed p.scAddr p.scType p.scThr false) && (!p.cjv || cellWellFormed p.cjAddr p.cjType p.cjVal true)

/-- Phase 1: the packet alone (R338). An inactive start cell's wait cannot be met and fails here. -/
def phase1 (s : State) (r : ReadPacket) : State × LRes Unit :=
  let p := r.pkt
  if let some (va, pkg) := r.lost then (s, .lost va pkg)
  else if !r.readable || !packetFields r.asid p || (p.scv && (cellOf s r.asid p.scAddr).isNone) then (s, .fail)
  else
    LRes.andThen (if p.scv then cellPage s (r.q % 8) r.asid p.scAddr p.scType else (s, .ok ())) (fun s _ =>
      if p.cjv then cellPage s (r.q % 8) r.asid p.cjAddr p.cjType else (s, .ok ()))

/-- The kernel header's fields (R67), its tables still empty. -/
def kernelOf (b : List Byte) : Kernel where
  codeOff := fieldOf b 0x08 4
  codeSize := fieldOf b 0x0C 4
  entry := fieldOf b 0x10 4
  handler := fieldOf b 0x14 4
  budget := fieldOf b 0x18 1
  stages := fieldOf b 0x19 1
  tiles := fieldOf b 0x1A 1
  cvs := fieldOf b 0x1B 1
  tokMask := BitVec.ofNat 8 (fieldOf b 0x1C 1)
  chMask := BitVec.ofNat 16 (fieldOf b 0x1E 2)
  scratch := fieldOf b 0x20 4
  chDepth := (List.range 16).map (fun i => fieldOf b (0x40 + i) 1)
  paramSize := fieldOf b 0x50 4
  live := []
  patches := []
  funcs := []

/-- The header's limits (R67, R68). -/
def headerOk (b : List Byte) (k : Kernel) : Bool :=
  decide (fieldOf b 0 4 = 0x4B5A4C4D) && decide (fieldOf b 4 2 / 256 = 1) && decide (fieldOf b 6 2 = 0) &&
    decide (k.codeOff % 8 = 0) && decide (0x100 ≤ k.codeOff) && decide (k.codeSize ≠ 0) && decide (k.codeSize % 8 = 0) &&
    decide (k.entry % 8 = 0) && decide (k.entry < k.codeSize) && decide (1 ≤ k.budget) && decide (k.budget ≤ 16) &&
    decide (1 ≤ k.stages) && decide (k.stages ≤ 8) && decide (k.tiles ≤ 64) && decide (k.cvs ≤ 16) &&
    decide (fieldOf b 0x1D 1 = 0) && decide (k.scratch % 128 = 0) && decide (fieldOf b 0x24 2 ≤ fieldOf b 0x26 2) &&
    decide (fieldOf b 0x26 2 ≤ 1023) && decide (fieldOf b 0x28 4 % 8 = 0) && decide (fieldOf b 0x2C 4 ≤ 65536) &&
    decide (fieldOf b 0x30 4 % 8 = 0) && decide (fieldOf b 0x34 4 ≤ 1024) && decide (fieldOf b 0x38 4 % 8 = 0) &&
    decide (fieldOf b 0x3C 4 ≤ 4096) &&
    (List.range 16).all (fun i => !k.chMask.getLsbD i || decide (getD k.chDepth i 0 ≤ 64)) &&
    decide (k.paramSize ≤ 4096) && decide (k.paramSize % 8 = 0) && (b.drop 0x54).all (fun x => x == 0) &&
    decide (footprint k ≤ 512 * 1024)

/-- Table offsets: multiples of 8 below CODESIZE, strictly ascending (R69 to R71). -/
def offsetsOk (k : Kernel) (t : List DWord) : Bool :=
  t.all (fun e => decide (getF e 0 32 % 8 = 0) && decide (getF e 0 32 < k.codeSize)) &&
    (t.zip (t.drop 1)).all (fun p => decide (getF p.1 0 32 < getF p.2 0 32))

def tablesOk (k : Kernel) : Bool :=
  offsetsOk k k.live && offsetsOk k k.funcs && offsetsOk k k.patches &&
    k.funcs.all (fun e => decide (1 ≤ getF e 32 8) && decide (getF e 32 8 ≤ 16) && decide (getF e 40 24 = 0)) &&
    k.patches.all (fun e =>
      decide (getF e 32 4 ≤ 1) && decide (1 ≤ getF e 36 4) && decide (getF e 36 4 ≤ 3 + getF e 32 4) && decide (getF e 41 7 = 0) &&
        decide (getF e 60 4 = 0) && decide (getF e 48 12 + getF e 36 4 ≤ k.paramSize))

def words64 (b : List Byte) : List DWord := (List.range (b.length / 8)).map (fun i => dword b (8 * i))

/-- A table of the image. -/
def readTable (s : State) (die asid : Nat) (kern : DWord) (off count : Nat) : State × LRes (List DWord) :=
  LRes.andThen (launchRead s die asid (kern + ofN64 off) (8 * count)) (fun s b => (s, .ok (words64 b)))

/-- The three tables of an image whose header is good. -/
def readTables (s : State) (die asid : Nat) (kern : DWord) (b : List Byte) : State × LRes Kernel :=
  let get (s : State) (o : Nat) : State × LRes (List DWord) := readTable s die asid kern (fieldOf b o 4) (fieldOf b (o + 4) 4)
  LRes.andThen (get s 0x28) (fun s live => LRes.andThen (get s 0x30) (fun s patches => LRes.andThen (get s 0x38) (fun s funcs =>
    let k : Kernel := { kernelOf b with live := live, patches := patches, funcs := funcs }
    (s, LRes.check (tablesOk k) k))))

/-- Phase 2: the kernel image (R68). -/
def phase2 (s : State) (die asid : Nat) (kern : DWord) : State × LRes Kernel :=
  LRes.andThen (launchRead s die asid kern 256) (fun s b =>
    if headerOk b (kernelOf b) then readTables s die asid kern b else (s, .fail))

/-- The dies allowed for patches (R340). -/
def allowedDies (p : Packet) : List Nat :=
  if p.dieMask = 0 then List.range 8 else (List.range 8).filter (fun d => p.dieMask.getLsbD d)

/-- A cushion fits an empty core: its stripe and one window in a bank (R338, R341). -/
def fitsEmpty (s : State) (p : Packet) (k : Kernel) : Bool :=
  (allowedDies p).any (fun d => (List.range 48).any (fun c =>
    decide (roundUp (footprint k / 32) 64 + 64 * k.budget ≤ bankTop s (48 * d + c))))

/-- Phase 3: the packet against the image; gives the parameter block (R338, R72). -/
def phase3 (s : State) (die asid : Nat) (p : Packet) (k : Kernel) : State × LRes (List Byte) :=
  if p.stages ≠ k.stages ∨ !fitsEmpty s p k then (s, .fail)
  else if k.paramSize = 0 then (s, .ok [])
  else if p.param.toNat % 8 ≠ 0 then (s, .fail)
  else launchRead s die asid p.param k.paramSize

/-- The id of R339. -/
def carpetId (r : ReadPacket) : Nat := r.asid * 2 ^ 28 + r.q * 2 ^ 24 + r.index % 2 ^ 24

/-- A failed launch: its record, with no carpet (R338, R369). -/
def failLaunch (s : State) (r : ReadPacket) (syn : Nat) (w3 : DWord) (w4 : DWord := 0) : State :=
  queueRec s r.asid (mkRec s 2 syn r.asid 0 (recW2 (carpetId r) 0x1FF 0 0x3FF 0) w3 w4) .nothing

/-- The start condition, as LDGE compares (R338, R258). -/
def startMet (s : State) (r : ReadPacket) : Bool :=
  if !r.readable || !r.pkt.scv then true
  else match ldgeValue s (r.q % 8) r.asid r.pkt.scAddr r.pkt.scType with
    | some v => cellLe (if r.pkt.scType = 10 then 2 else r.pkt.scType) r.pkt.scThr.toNat v
    | none => true

/-- A packet that its launch unit may accept now. -/
def packetReady (s : State) (r : ReadPacket) : Bool := launchRuns s r.asid r.q && startMet s r

/-- The order of acceptance (R336). -/
def acceptBefore (a b : ReadPacket) : Bool :=
  decide (b.pkt.prio < a.pkt.prio) || (a.pkt.prio == b.pkt.prio && (decide (a.asid < b.asid) ||
    (a.asid == b.asid && decide (a.q < b.q))))

/-- What a phase of acceptance leaves when it does not pass: the record of its failure, or of the link fault when the launch unit has no route (R338,
R423; DESIGN CHOICE, log entry 22); none while the die's walker is busy. -/
def phaseFails {α : Type} (r : ReadPacket) (syn : Nat) (w3 : DWord) (c : State × LRes α) (go : State → α → Option State) : Option State :=
  match c with
  | (s, .ok a) => go s a
  | (s, .fail) => some (failLaunch s r syn w3)
  | (s, .lost va pkg) => some (failLaunch s r 0x306 va (ofN64 pkg))
  | (_, .wait) => none

/-- Accept one packet: the three phases, then the carpet (R338, R339); none while the die's walker is busy. -/
def acceptPacket (s : State) (r : ReadPacket) : Option State :=
  let die := r.q % 8
  phaseFails r 0x401 (ofN64 r.addr) (phase1 s r) (fun s _ =>
    phaseFails r 0x400 r.pkt.kernel (phase2 s die r.asid r.pkt.kernel) (fun s k =>
      phaseFails r 0x401 (ofN64 r.addr) (phase3 s die r.asid r.pkt k) (fun s params =>
        let c : Carpet := { id := carpetId r, asid := r.asid, q := r.q, pkt := r.pkt, ker := k, params := params,
                            accepted := s.clock, placed := 0, dead := false, barrier := none, gone := false }
        some { s with carpets := s.carpets ++ [c] })))

/-- A launch unit accepts one packet in a cycle (R336). -/
def noteAccept (s : State) (die : Nat) : State := { s with cyc := { cycNow s with accepted := die :: (cycNow s).accepted } }

/-- LAUNCH_ACCEPT: the launch unit takes the packet of this queue, if it is the next in the order of R336. -/
def execLaunchAccept (asid q : Nat) (s : State) : Host.Outcome State Fault Refusal :=
  if 16 ≤ asid ∨ 16 ≤ q then .fault .noSuchUnit
  else if (cycNow s).accepted.contains (q % 8) then .next s
  else match bestBy acceptBefore (s.packets.filter (fun r => r.q % 8 == q % 8 && packetReady s r)) with
    | some r =>
      if r.asid = asid ∧ r.q = q then
        .next ((acceptPacket (noteAccept { s with packets := s.packets.filter (fun p => !(p.asid == asid && p.q == q)) } (q % 8)) r).getD s)
      else .next s
    | none => .next s

/-! ## Placement (R340 to R342) -/

/-- The first patch of a carpet, not yet placed, that goes to a die (R340). -/
def nextPatch (k : Carpet) (die : Nat) : Option Nat :=
  let ds := allowedDies k.pkt
  match ds.findIdx? (fun d => d == die) with
  | none => none
  | some j =>
    let n := ds.length
    let i := k.placed + (j + 2 * n + n * k.placed - (k.pkt.die0 % n) - k.placed) % n
    if i < patchCount k.pkt then some i else none

/-- The first pending patch of a die (R340). -/
def firstPatch (s : State) (die : Nat) : Option (Carpet × Nat) :=
  bestBy (fun a b => decide (b.1.pkt.prio < a.1.pkt.prio) || (a.1.pkt.prio == b.1.pkt.prio &&
      (decide (a.1.accepted < b.1.accepted) || (a.1.accepted == b.1.accepted && decide (a.2 < b.2)))))
    ((s.carpets.filter (fun k => carpetRuns s k.id)).filterMap (fun k => (nextPatch k die).map (fun i => (k, i))))

/-- The lowest free cushion slot of a core (R50). -/
def freeSlot (s : State) (core : Nat) : Option Nat :=
  (List.range 16).find? (fun i => !s.cushions.any (fun c => c.core == core && c.slot == i && !c.saved))

def matrixOn (s : State) (core : Nat) : Bool :=
  s.cushions.any (fun c => c.core == core && !c.saved && ((getCarpet s c.carpet).map (fun k => decide (0 < k.ker.cvs))).getD true)

/-- The windows resident on a core. -/
def coreWindows (s : State) (core : Nat) : List (Nat × Nat) :=
  (s.fibres.filter (fun f => f.core == core && f.status == .resident)).map (fun f => (f.winOff, 64 * f.winSize))

/-- The lowest stripe range free in all banks (R341). -/
def stripeSpot (s : State) (core n : Nat) : Option Nat := lowestGap (stripesOn s core ++ coreWindows s core) n 4 (bankTop s core)

/-- A core's stripe for a cushion, if the whole of R341 holds there. Between a USCFG write that changes L1KB and its third step the spec neither
allows nor forbids a cushion: the model places none (R59; DESIGN CHOICE, log entry 38). -/
def coreFits (s : State) (core n budget nfib : Nat) (mat : Bool) : Option Nat :=
  if !coreRuns s core || (freeSlot s core).isNone || (mat && matrixOn s core) || s.resizes.any (fun r => r.1 == core) then none
  else match stripeSpot s core n with
    | none => none
    | some o =>
      if (List.range (min nfib 32)).all (fun b => (lowestGap ((o, n) :: occupied s core b) (64 * budget) 64 (bankTop s core)).isSome) then some o
      else none

def coreFree (s : State) (core : Nat) : Nat := sumBy (freeIn s core) (List.range 32)

/-- The core for a cushion: the most free bytes, the lower number on a tie (R341). -/
def pickCore (s : State) (die n budget nfib : Nat) (mat : Bool) : Option (Nat × Nat) :=
  bestBy (fun a b => decide (coreFree s b.1 < coreFree s a.1))
    ((List.range 48).filterMap (fun c => (coreFits s (48 * die + c) n budget nfib mat).map (fun o => (48 * die + c, o))))

/-- Make room on one core by force-parking windows of equal or lower priority (R344). -/
def compactCore (s : State) (core n budget nfib prio : Nat) (mat : Bool) : Option (State × Nat) :=
  if !coreRuns s core || (freeSlot s core).isNone || (mat && matrixOn s core) || s.resizes.any (fun r => r.1 == core) then none
  else if !(List.range 32).all (fun b => decide (n + (if b < nfib then 64 * budget else 0) ≤ freeIn s core b)) then none
  else
    let high := (s.fibres.filter (fun f => f.core == core && f.status == .resident && decide (prio < f.prio))).map (fun f => (f.winOff, 64 * f.winSize))
    match lowestGap (stripesOn s core ++ high) n 4 (bankTop s core) with
    | none => none
    | some o =>
      let inRange (f : Fibre) : Bool := decide (f.winOff < o + n) && decide (o < f.winOff + 64 * f.winSize)
      let fs := s.fibres.filter (fun f => f.core == core && f.status == .resident && inRange f)
      if !sporesFit s core fs then none
      else
        let s := fs.foldl (fun s f => forcePark s f.fid) s
        -- each bank's first window may need a run of its own
        let r := (List.range (min nfib 32)).foldl (fun (st : State × Bool) b =>
          if !st.2 then st
          else if (lowestGap ((o, n) :: occupied st.1 core b) (64 * budget) 64 (bankTop st.1 core)).isSome then st
          else
            let keep := (st.1.fibres.filter (fun f => f.core == core && f.lane == b && f.status == .resident && decide (prio < f.prio))).map
              (fun f => (f.winOff, 64 * f.winSize))
            match lowestGap ((o, n) :: (stripesOn st.1 core ++ keep)) (64 * budget) 64 (bankTop st.1 core) with
            | none => (st.1, false)
            | some w =>
              let ws := windowsIn st.1 core b w (64 * budget)
              if sporesFit st.1 core ws then
                (ws.foldl (fun s f => forcePark s f.fid) st.1, true)
              else (st.1, false)) (s, true)
        match coreFits r.1 core n budget nfib mat with
        | some o' => if r.2 then some (r.1, o') else none
        | none => none

/-- The core and stripe of a cushion, by compaction when no core has room as it stands (R341, R344). -/
def coreFor (s : State) (die n budget nfib prio : Nat) (mat : Bool) : State × Option (Nat × Nat) :=
  match pickCore s die n budget nfib mat with
  | some c => (s, some c)
  | none =>
    match (List.range 48).findSome? (fun c => (compactCore s (48 * die + c) n budget nfib prio mat).map (fun r => (r.1, 48 * die + c, r.2))) with
    | some r => (r.1, some r.2)
    | none => (s, none)

/-- A cushion as it starts (R58). -/
def newCushion (cid : Nat) (k : Carpet) (core slot stripe i sw : Nat) : Cushion where
  cid := cid
  carpet := k.id
  core := core
  slot := slot
  px := i % k.pkt.px
  py := i / k.pkt.px % k.pkt.py
  pz := i / (k.pkt.px * k.pkt.py)
  stage := sw / k.pkt.width
  pos := sw % k.pkt.width
  patch := i
  stripe := stripe
  scratch := []
  g := List.replicate 64 0
  fsr := 0
  fctl := 0
  chans := List.replicate 16 []
  tiles := List.replicate 64 emptyTile
  cvs := List.replicate 16 { expected := 0, count := 0, word := 0 }
  tks := List.replicate 8 0
  accs := List.replicate 8 emptyAcc
  panel := none
  mq := []
  mp0 := 0
  mdone := 0
  mqueued := 0
  mresumed := false
  grant := 0
  mlast := 0
  exp := { phase := .idle, parts := [], later := [], total := 0, folded := 0, contrib := [] }
  retired := 0
  frozen := false
  saved := false

/-- The launched fibres of a cushion: spores without a body, of which the lowest of each bank gets its window at once (R342). -/
def launchFibres (s : State) (k : Carpet) (cu : Cushion) : State :=
  let pc := codeBase k + ofN64 k.ker.entry
  (List.range k.pkt.nfib).foldl (fun s i =>
    let p := fresh s
    let f := newFibre p.2 cu i k.ker.budget pc s.clock k.pkt.prio
    match (if i < 32 then windowPlace p.1 cu.core i k.ker.budget else none) with
    | some o =>
      let f := { f with status := Status.resident, winOff := o }
      frondOfOne { p.1 with fibres := p.1.fibres ++ [f] } f s.clock
    | none => { p.1 with fibres := p.1.fibres ++ [f] }) s

/-- Place one cushion of a patch. -/
def placeCushion (s : State) (k : Carpet) (die i sw : Nat) : State × Bool :=
  let n := footprint k.ker / 32
  match coreFor s die n k.ker.budget k.pkt.nfib k.pkt.prio (decide (0 < k.ker.cvs)) with
  | (s, none) => (s, false)
  | (s, some (core, o)) =>
    let p := fresh s
    let cu := newCushion p.2 k core ((freeSlot s core).getD 0) o i sw
    let s := ranOn (l1Invalidate (launchFibres { p.1 with cushions := p.1.cushions ++ [cu] } k cu) core) k.id core
    (s, true)

/-- PATCH_PLACE: a die places its first pending patch whole, or not at all (R340, R341). -/
def execPatchPlace (die : Nat) (s : State) : Host.Outcome State Fault Refusal :=
  if 8 ≤ die then .fault .noSuchUnit
  else match firstPatch s die with
    | none => .next s
    | some (k, i) =>
      if i ≠ k.placed then .next s
      else
        let r := (List.range (k.pkt.stages * k.pkt.width)).foldl
          (fun (st : State × Bool) sw => if st.2 then placeCushion st.1 k die i sw else st) (s, true)
        .next (if r.2 then updCarpet r.1 k.id (fun c => { c with placed := c.placed + 1 }) else s)

end Sys2Proof.Machine
end

