-- ==== Sys2Proof/Machine/Suspend.lean ====
section
/-! DEFINITION. Context switch (R348 to R350): suspend, its completion or abandonment, and resume. -/

namespace Sys2Proof.Machine

def ctxSet (s : State) (a n : Nat) : State := ctlSetF s (offCTXCB a) 2 2 n

/-- The cushions and fibres of a context; a frozen cushion is not counted (R374). -/
def ctxCushions (s : State) (a : Nat) : List Cushion :=
  s.cushions.filter (fun c => !c.frozen && (getCarpet s c.carpet).any (fun k => k.asid == a && !k.gone))

def frozenHome (s : State) (f : Fibre) : Bool := (getCush s f.cush).any (·.frozen)

def ctxFibres (s : State) (a : Nat) : List Fibre :=
  s.fibres.filter (fun f => !frozenHome s f && (getCarpet s f.carpet).any (fun k => k.asid == a && !k.gone))

/-- The carpets of a context that are live. -/
def ctxLive (s : State) (a : Nat) : Bool := s.carpets.any (fun k => k.asid == a && !k.gone)

/-- Bytes of the spore that a suspension saves: of a resident fibre, the one that its forced park would write (R42, R349). -/
def saveSpore (s : State) (f : Fibre) : Nat :=
  if f.status = .resident then sporeBytes (sporeOf s f (forcedArgs f)) else sporeBytes f

/-- NEEDED: bytes that a suspension would now need (R348): the cushions with their spores, whose layout is the hardware's, and the task
records whose spawning cushion has ended. -/
def needed (s : State) (a : Nat) : Nat :=
  let cs := ctxCushions s a
  let part (c : Cushion) : Nat :=
    let k := getCarpet s c.carpet
    let fp := (k.map (fun k => footprint k.ker)).getD 0
    let mat := (k.map (fun k => decide (0 < k.ker.cvs))).getD false
    Config.saveBytes fp mat (sumBy (fun f => if f.cush = c.cid then saveSpore s f else 0) s.fibres)
  sumBy part cs + sumBy (fun f => if cs.any (fun c => c.cid == f.cush) then 0 else saveSpore s f) (ctxFibres s a)

/-! ## Waiters that walk again (R350, R372) -/

/-- A waiter of a page fault's record goes back to its walk. -/
def rewalk (asid : Nat) (s : State) (w : Waiter) : State :=
  match w with
  | .fibre fid va _ _ =>
    match getFibre s fid with
    | none => s
    | some f =>
      match s.jobs.find? (fun j => j.fid == fid) with
      | some j => updFibre s fid (fun f => { f with wait := .reply, joinCnt := j.join })
      | none => joinWalk (updFibre s fid (fun f => { f with wait := .walk })) (dieOf f.core) asid va w
  | .engine op => engRetry s op
  | .matrix _ _ => s

/-- Every waiter of a hold walks again, and its record awaits nothing more. -/
def holdRetry (s : State) (h : ReplayHold) : State :=
  h.waiters.foldl (rewalk h.asid) { s with holds := s.holds.filter (fun k => k.id != h.id) }

/-! ## Suspend (R349) -/

/-- A pending load, atomic, LDGE or JOIN that a suspension need not wait for: LDGE and JOIN that stand at their homes. -/
def loadSettled (s : State) (l : LoadOp) : Bool :=
  let join (o : HomeOp) : Bool := match o with | .join (.load id) _ => id == l.id | _ => false
  match l.kind with
  | .ldge => s.ldges.any (fun w => w.op == l.id)
  | .join => s.joins.any (fun w => w.tgt == .load l.id) || s.remote.any (fun r => join r.2.op)
  | .pref => true
  | _ => false

/-- A matrix operation waits for the answer to a page fault. -/
def matStalled (s : State) (op : Nat) : Bool :=
  s.holds.any (fun h => h.waiters.any (fun w => match w with | .matrix _ o => o == op | _ => false))

def matSettled (s : State) (c : Cushion) : Bool :=
  match c.mq with
  | [] => true
  | op :: _ => decide (op.phase = .queued) || opPauses op.op || (matStalled s op.id && op.outstanding == 0)

/-- An engine operation stands at the point where it stops (R332); one that waits for an answer to a page fault has had the replies to what it
sent. -/
def engSettled (o : EngOp) : Bool :=
  (o.stalled && o.want == 0) || (engIdle o && !o.busy && o.uncounted == 0 && o.kind != .cpy && o.kind != .route)

/-- Steps 2 to 4 of R349 hold for a context, and its stores are acknowledged. -/
def ctxSettled (s : State) (a : Nat) : Bool :=
  let fs := ctxFibres s a
  let cs := ctxCushions s a
  let mine (fid : Nat) : Bool := fs.any (fun f => f.fid == fid)
  fs.all (fun f => f.status != .resident && f.stcnt == 0 && f.wait != .walk) &&
    cs.all (fun c => c.retired == 0 && matSettled s c) &&
    s.held.all (fun h => !cs.any (fun c => c.cid == h.cush)) &&
    s.loads.all (fun l => !mine l.fid || loadSettled s l) &&
    s.jobs.all (fun j => !mine j.fid || (getFibre s j.fid).any (fun f => f.wait == .replay)) &&
    s.engines.all (fun o => !cs.any (fun c => c.cid == o.cush) || engSettled o) &&
    s.carpets.all (fun k => k.asid != a || !k.dead || k.gone)

/-- The cores on which the context has run: their L1s may hold its words, those of cushions that have ended among them. -/
def ctxCores (s : State) (a : Nat) : List Nat :=
  ((ctxCushions s a).map (·.core) ++ (ctxFibres s a).map (·.core) ++
    (s.carpets.filter (fun k => k.asid == a)).flatMap (·.cores)).dedup

/-- A write of CMD: the command, if the write covers it (R348). -/
def ctxCmd (w : CtlWrite) : Option (Nat × Nat) :=
  match ctlCover w.off w.bytes with
  | some (o, lo, _) =>
    match cregAt o with
    | some (.ctxcb a 0) => if lo = 0 then some (a, getF w.value 0 2) else none
    | _ => none
  | none => none

/-- SUSPFAIL is W1C in the same word. -/
def ctxW1C (s : State) (w : CtlWrite) (a : Nat) : State :=
  if getB w.value 4 then ctlSetB s (offCTXCB a) 4 false else s

/-- A packet whose start condition is being watched is unread again, and HEAD names it, if its queue still stands as it was armed
(R349 step 1). -/
def unreadPackets (s : State) (a : Nat) : State :=
  s.packets.foldl (fun s p =>
    if p.asid = a ∧ lqV s a p.q ∧ lqHead s a p.q = p.index + 1 then
      let s := ctlSetF s (offLQ a p.q + 0x18) 0 32 p.index
      { s with packets := s.packets.filter (fun r => !(r.asid == a && r.q == p.q)) }
    else s) s

/-- CTX_SUSPEND: command 1, in state running; the units of the context stop at their next boundaries. -/
def execCtxSuspend (w : CtlWrite) (s : State) : Host.Outcome State Fault Refusal :=
  match ctxCmd w with
  | some (a, 1) =>
    let t := ctxW1C s w a
    .next (if ctxState s a = 0 then unreadPackets (ctxSet t a 1) a else t)
  | _ => .next s

/-- What resumes with a context: conditions are checked again, engines and grants go on (R350). -/
def ctxGo (s : State) (a : Nat) : State :=
  let s := (List.range 8).foldl ldgeCheck s
  let s := joinCheck s
  let cs := ctxCushions s a
  let s := cs.foldl (fun s c => powerAsk (checkBars (waitCheck s c.cid) c.cid) c.cid) s
  let s := (s.engines.filter (fun o => o.asid == a && !o.stalled)).foldl (fun s o => engNext s o.id) s
  engForkAll (pump s)

/-- The spore area suffices (R349 step 6). -/
def saveFits (s : State) (a : Nat) : Bool := decide (needed s a ≤ spillSize s a)

/-- Abandon a suspension (R349). -/
def ctxAbandon (s : State) (a : Nat) : State := ctxGo (ctlSetB (ctxSet s a 0) (offCTXCB a) 4 true) a

/-- FORCED_PARK (R56): a pre-emption may force-park any resident fibre at an instruction boundary. A suspension that finds no room for the
spore is abandoned (R349, R404). -/
def execForcedPark (fibre : Nat) (s : State) : Host.Outcome State Fault Refusal :=
  match getFibre s fibre with
  | none => .next s
  | some f =>
    let a := asidOf s f.carpet
    if f.status ≠ .resident ∨ ((getCarpet s f.carpet).map (·.dead)).getD true ∨ !coreRuns s f.core then .next s
    else if ctxState s a = 1 ∧ (makeRoom s f.core a (saveSpore s f) f.fid).isNone then .next (ctxAbandon s a)
    else .next (forcePark s fibre)

/-- The power grants of a context go back as its operations stop, and its requests with them (R301, R349 step 3). -/
def ctxGrants (s : State) (a : Nat) : State :=
  let cs := (ctxCushions s a).filter (matSettled s)
  let s := (cs.filter (fun c => decide (0 < c.grant))).foldl (fun s c => returnGrant s c.cid) s
  { s with power := s.power.filter (fun p => !cs.any (fun c => c.cid == p.cush)) }

/-- Save the context: cushions, spores and engine state leave the cores (R349 steps 6 and 8). -/
def ctxSave (s : State) (a : Nat) : State :=
  let cs := ctxCushions s a
  let fs := ctxFibres s a
  let s := { s with
    cushions := updIf (fun c => cs.any (fun d => d.cid == c.cid)) (fun (c : Cushion) => { c with saved := true }) s.cushions
    fibres := updIf (fun f => fs.any (fun g => g.fid == f.fid))
      (fun (f : Fibre) => { f with saved := true, claim := none, taken := none, landCore := none, landed := false }) s.fibres
    suspendedAt := s.suspendedAt ++ [(a, s.clock)]
    suspendWb := s.suspendWb.filter (fun p => p.1 != a) }
  ctxSet s a 2

/-- CTX_SUSPEND_COMPLETE: the grants of what has stopped go back; once work in flight has settled, and no die is halted, the L1s are written
back, the context saved, or the suspension abandoned. -/
def execCtxSuspendComplete (asid : Nat) (s : State) : Host.Outcome State Fault Refusal :=
  if 16 ≤ asid then .fault .noSuchUnit
  else if ctxState s asid ≠ 1 then .next s
  else
    let s := ctxGrants s asid
    if !ctxSettled s asid || (List.range 8).any (dieHalt s) then .next s
    else
      let cores := ctxCores s asid
      match s.suspendWb.find? (fun p => p.1 == asid) with
      | none =>
        if saveFits s asid then
          let s := cores.foldl l1WriteBackAll s
          .next { s with suspendWb := s.suspendWb ++ [(asid, s.nextId)] }
        else .next (ctxAbandon s asid)
      | some (_, b) => .next (if cores.all (fun c => wbDone s c b) then ctxSave s asid else s)

/-! ## Resume (R350) -/

/-- Place one saved cushion on a core of its die: with its fibres go what they wait for and their walkers. -/
def placeSaved (s : State) (c : Cushion) : State :=
  match getCarpet s c.carpet with
  | none => s
  | some k =>
    match coreFor s (dieOf c.core) (footprint k.ker / 32) k.ker.budget k.pkt.nfib k.pkt.prio (decide (0 < k.ker.cvs)) with
    | (s, none) => s
    | (s, some (core, o)) =>
      let slot := (freeSlot s core).getD 0
      let s := updCush s c.cid (fun d => { d with saved := false, core := core, slot := slot, stripe := o,
                                                  mresumed := (d.mq.head?).any (fun op => op.phase != .queued) })
      let moved (fid : Nat) : Bool := s.fibres.any (fun f => f.fid == fid && f.cush == c.cid && !f.away && !f.task)
      let s := { s with
        fibres := updIf (fun f => f.cush == c.cid && !f.away && !f.task) (fun (f : Fibre) => { f with core := core }) s.fibres
        loads := updIf (fun l => moved l.fid) (fun (l : LoadOp) => { l with core := core }) s.loads
        jobs := updIf (fun j => moved j.fid) (fun (j : WalkerJob) => { j with core := core }) s.jobs
        engines := updIf (fun o => o.cush == c.cid) (fun (o : EngOp) => { o with core := core }) s.engines }
      ranOn (l1Invalidate s core) c.carpet core

/-- A spore that comes back from a saved context stays in the spill area where the record area of its core has no room for it (R46, R350). -/
def spilledBack (s : State) (f : Fibre) : State :=
  if recordUse s f.core ≤ recBytes s f.core then s else { s with spilled := addNew f.fid s.spilled }

/-- Once every cushion is placed: ages count running time only, holds walk again, the context runs, and the spores whose condition was met
meanwhile become ready. -/
def ctxRuns (s : State) (a : Nat) : State :=
  let dt := s.clock - ((s.suspendedAt.find? (fun p => p.1 == a)).map (·.2)).getD s.clock
  let fs := ctxFibres s a
  let back := fs.filter (fun f => f.affinity == 3 && !s.landing.any (fun r => r.fid == f.fid))
  let reqs : List LandReq := back.map (fun f => { fid := f.fid, die := f.tgtDie })
  let s : State := { s with
    suspendedAt := s.suspendedAt.filter (fun p => p.1 != a)
    landing := s.landing ++ reqs
    fibres := updIf (fun f => fs.any (fun g => g.fid == f.fid)) (fun (f : Fibre) => { f with saved := false, age := f.age + dt }) s.fibres }
  let s := fs.foldl spilledBack s
  let s := (s.holds.filter (fun h => h.asid == a)).foldl holdRetry (ctxSet s a 0)
  let met := fs.filter (fun f => f.status == .parked && f.wait == .none)
  ctxGo (wakeAll s (met.map (·.fid))) a

/-- CTX_RESUME: command 2, in state suspended. While STATE reads resuming the step places the cushions that had no room. -/
def execCtxResume (w : CtlWrite) (s : State) : Host.Outcome State Fault Refusal :=
  match ctxCmd w with
  | some (a, 2) =>
    let t := ctxW1C s w a
    if ctxState s a < 2 then .next t
    else
      let t := ((ctxCushions t a).filter (·.saved)).foldl placeSaved (ctxSet t a 3)
      .next (if (ctxCushions t a).any (·.saved) then t else ctxRuns t a)
  | _ => .next s

end Sys2Proof.Machine
end

