-- ==== Sys2Proof/Machine/Fault.lean ====
section
/-! DEFINITION. Fault queues (R369, R370), answers to records (R169, R369, R372), the discard of a carpet (R373), frozen masters
(R374), and interrupts (R21, R424). -/

namespace Sys2Proof.Machine

/-! ## Interrupts (R19, R21, R424) -/

def memberOf (s : State) : Nat := pkgIdOf s % 16
def bridgeMode (s : State) : Bool := ctlB s offLKBRIDGE 4

/-- The bridge takes an interrupt message: BRPEND and MSI-X, which waits while the PCIe link is down. -/
def bridgeIrq (s : State) (member v : Nat) : State :=
  let s := ctlSetB s (offBRPEND v) member true
  if s.hostUp then { s with msix := s.msix ++ [v] } else { s with irqOwed := s.irqOwed ++ [v] }

/-- An interrupt message of this package waits; each queue holds at most one (R21). -/
def holdIrq (s : State) (v : Nat) : State := { s with irqHeld := addNew (memberOf s, v) s.irqHeld }

/-- Send an interrupt message of this package to its group's bridge, or hold it (R21). A message of no core takes its route as log entry 22
says (DESIGN CHOICE). -/
def sendIrq (s : State) (v : Nat) : State :=
  let m := memberOf s
  let b := ctlF s offBRGSEL 0 4
  if !ctlB s offBRGSEL 4 then holdIrq s v
  else if b = m then (if bridgeMode s then bridgeIrq s m v else holdIrq s v)
  else match routePort s noCore (pkgIdOf s / 16 * 16 + b) with
    | some p => { s with linkOut := s.linkOut ++ [(p, .irq m v)] }
    | none => holdIrq s v

/-- An interrupt message arrives: one of this package's own is one that its bridge has sent back; the bridge takes the others, and a package
that is no bridge sends them back (R21). -/
def takeIrq (s : State) (member v : Nat) : State :=
  if member = memberOf s then holdIrq s v
  else if bridgeMode s then bridgeIrq s member v
  else linkSend s (pkgIdOf s / 16 * 16 + member) (.irq member v)

/-- Held messages are sent again (R21). -/
def irqResend (s : State) : State := s.irqHeld.foldl (fun s h => sendIrq s h.2) { s with irqHeld := [] }

/-- INTERRUPT_MESSAGE: a bridge package receives a message, its own among them; a package that is no bridge refuses it (R21). -/
def execInterruptMessage (member vector : Nat) (s : State) : Host.Outcome State Fault Refusal :=
  if 16 ≤ member ∨ 17 ≤ vector then .fault .noSuchUnit
  else .next (if bridgeMode s then bridgeIrq s member vector else takeIrq s member vector)

/-! ## Posting (R370) -/

/-- ARM is 1 and PROD differs from CONS: the vector is raised and ARM clears. -/
def armCheck (s : State) (q : Nat) : State :=
  if ctlB s (offFQ q) 1 && fqProd s q != fqCons s q then sendIrq (ctlSetB s (offFQ q) 1 false) q else s

/-- The eight words of a record (R369). -/
def recWords (r : Rec) (seq : Nat) : List DWord :=
  [ofN64 (r.cls % 256 + r.syn % 2 ^ 16 * 2 ^ 8 + r.asid % 16 * 2 ^ 24 + r.exp.toNat * 2 ^ 28 + r.frozen.toNat * 2 ^ 29 +
      r.esc.toNat * 2 ^ 30 + seq % 2 ^ 32 * 2 ^ 32),
   r.w1, r.w2, r.w3, r.w4, r.w5, r.w6, r.w7]

/-- Waiting records that a queue has room for: what the spilled spores and writes, or the saved cushions, of the context leave of its spill area; 64
of the device queue (R370). -/
def recRoom (s : State) (q : Nat) : Nat :=
  let used := if 2 ≤ ctxState s q then needed s q else spilledBytes (fetchBack s) q
  if q = 16 then 64 else (spillSize s q - used) / 64

/-- Records beyond the room are dropped and counted (R370). -/
def dropRecords (s : State) (q : Nat) : State :=
  let mine := s.queued.filter (fun r => r.queue == q)
  let lost := mine.length - recRoom s q
  if lost = 0 then s
  else
    let s := ctlSetF s (offFQ q + 0x20) 0 32 (min (ctlF s (offFQ q + 0x20) 0 32 + lost) 0xFFFFFFFF)
    { s with queued := s.queued.filter (fun r => r.queue != q) ++ mine.take (recRoom s q) }

/-- What a posted record leaves behind (R369, R374, R375). -/
def postHold (s : State) (q seq : Nat) (h : Hold) : State :=
  match h with
  | .nothing => s
  | .freeze es => es.foldl (fun s e => ctlSet s (offFRZTAB e + 8) (ofN64 seq)) s
  | .device tag => { s with deviceSeq := s.deviceSeq ++ [(tag, seq)] }
  | .sysc _ | .replay _ => { s with posted := s.posted ++ [{ queue := q, seq := seq, hold := h }] }

/-- Write a record to its ring: the bytes, then PROD, then the interrupt. From now on its SEQ names it, and no record of an earlier use of the
ring. -/
def postRecord (s : State) (q : Nat) (r : QRec) : State :=
  let i := fqProd s q
  let pa := (ctlW s (offFQ q + 8)).toNat + 64 * (i % 2 ^ fqLog2 s q)
  let bytes := (recWords r.rec_ i).flatMap (fun w => leBytes 8 w.toNat)
  let cells := (cellsAt pa bytes).filterMap (fun c => (physOf 2 c.1).map (fun a => (a, c.2)))
  let s := homeWrite { s with posted := s.posted.filter (fun p => !(p.queue == q && p.seq == i)) } 0 cells
  armCheck (postHold (ctlSetF s (offFQ q + 0x10) 0 32 (i + 1)) q i r.hold) q

/-- FAULT_RECORD_POST: the oldest waiting record of a queue goes to its ring, if the ring is open and has room (R370). -/
def execFaultRecordPost (queue : Nat) (s : State) : Host.Outcome State Fault Refusal :=
  if 17 ≤ queue then .fault .noSuchUnit
  else match s.queued.find? (fun r => r.queue == queue) with
    | none => .next s
    | some r =>
      if 0 < ringFree s queue then
        .next (postRecord { s with queued := s.queued.erase r } queue r)
      else .next (dropRecords s queue)

/-! ## Queue control and answers (R369) -/

/-- The register a write reaches, with its word's offset and the bits it covers. -/
def writeAt (w : CtlWrite) : Option (CReg × Nat × Nat × Nat) :=
  match ctlCover w.off w.bytes with
  | some (o, lo, n) => (cregAt o).map (fun r => (r, o, lo, n))
  | none => none

/-- A write that stores its fields and does nothing else (R443). -/
def storeFields (s : State) (w : CtlWrite) : State :=
  match writeAt w with
  | some (r, o, lo, n) => ctlSet s o (fieldsWrite (cregFields r) (ctlW s o) (ctlValue w) lo n)
  | none => s

/-- FAULT_QUEUE_CONTROL_WRITE: word 0 (R369). -/
def execFaultQueueControlWrite (w : CtlWrite) (s : State) : Host.Outcome State Fault Refusal :=
  match writeAt w with
  | some (.fq q 0, o, 0, _) =>
    let v := getB w.value 0
    let old := fqV s q
    let log := if old then fqLog2 s q else max 4 (min 16 (getF w.value 2 5))
    let s := if v && !old then ctlSetF (ctlSetF s (o + 0x10) 0 32 0) (o + 0x18) 0 32 0 else s
    .next (armCheck (ctlSetB (ctlSetB (ctlSetF s o 2 5 log) o 0 v) o 1 (getB w.value 1)) q)
  | _ => .next s

/-- A write of the answer word that performs an operation: the state with its fields stored, the queue, the operation. -/
def answerWrite (s : State) (w : CtlWrite) : Option (State × Nat × Nat) :=
  match writeAt w with
  | some (.fq q 6, o, lo, n) =>
    let s := storeFields s w
    if coversField 34 1 lo n && getB (ctlValue w) 34 then some (s, q, ctlF s o 32 2) else none
  | _ => none

def badSeq (s : State) (q : Nat) : State := ctlSetB s (offFQ q + 0x20) 32 true

/-- The record that ANSSEQ names. -/
def answered (s : State) (q : Nat) : Option Posted :=
  s.posted.find? (fun p => p.queue == q && p.seq == ctlF s (offFQ q + 0x30) 0 32)

def unpost (s : State) (p : Posted) : State := { s with posted := s.posted.erase p }

/-- FAULT_ANSWER_SYSCALL: ANSOP 1 (R169, R369). -/
def execFaultAnswerSyscall (w : CtlWrite) (s : State) : Host.Outcome State Fault Refusal :=
  match answerWrite s w with
  | some (t, q, 1) =>
    match answered t q with
    | some p =>
      match p.hold with
      | .sysc fid =>
        match getFibre t fid with
        | some f =>
          if f.wait = .sysc then
            .next (joinDown (updFibre (unpost t p) fid (fun f => setX64 f 0 (ctlW t (offFQ q + 0x28)))) fid)
          else .next (badSeq t q)
        | none => .next (badSeq t q)
      | _ => .next (badSeq t q)
    | none => .next (badSeq t q)
  | _ => .next s

/-- The hold of a replayable record that still holds someone. -/
def heldBy (s : State) (p : Posted) : Option ReplayHold :=
  match p.hold with
  | .replay h => s.holds.find? (fun k => k.id == h && !k.waiters.isEmpty)
  | _ => none

/-- FAULT_RETRY: ANSOP 2 (R369, R372); the waiters of a suspended context walk again when it resumes (R349, R372). -/
def execFaultRetry (w : CtlWrite) (s : State) : Host.Outcome State Fault Refusal :=
  match answerWrite s w with
  | some (t, q, 2) =>
    match answered t q with
    | some p =>
      match heldBy t p with
      | some h => .next (if 2 ≤ ctxState t h.asid then unpost t p else holdRetry (unpost t p) h)
      | none => .next (badSeq t q)
    | none => .next (badSeq t q)
  | _ => .next s

/-- The carpet of a waiter. -/
def waiterCarpet (s : State) (w : Waiter) : Option Nat :=
  match w with
  | .fibre fid _ _ _ => (getFibre s fid).map (·.carpet)
  | .engine op => (getEng s op).map (·.carpet)
  | .matrix cid _ => (getCush s cid).map (·.carpet)

/-- A carpet killed by system software (R368, R369). -/
def killCarpet (s : State) (id : Nat) : State :=
  detect s id (mkRec s 2 0x402 (asidOf s id) 0 (recW2 id 0x1FF 0 0x3FF 0) 0 0) 8 0x1FF none none

/-- FAULT_KILL: ANSOP 3 ends every carpet with a waiter held by the record (R369). The record is answered: a later fault on the page posts
another (R372). -/
def execFaultKill (w : CtlWrite) (s : State) : Host.Outcome State Fault Refusal :=
  match answerWrite s w with
  | some (t, q, 3) =>
    match answered t q with
    | some p =>
      let cs : List Nat := match p.hold, heldBy t p with
        | .sysc fid, _ => ((getFibre t fid).map (·.carpet)).toList
        | _, some h => (h.waiters.filterMap (waiterCarpet t)).dedup
        | _, none => []
      let rest := { unpost t p with holds := t.holds.filter (fun h => p.hold != .replay h.id) }
      if cs.isEmpty then .next (badSeq t q) else .next (cs.foldl killCarpet rest)
    | none => .next (badSeq t q)
  | _ => .next s

/-! ## Frozen masters (R374) -/

/-- Take a free entry of FRZTAB. -/
def freezeEntry (s : State) (kind core slot port asid carpet : Nat) : State × Option Nat :=
  match (List.range 16).find? (fun i => !ctlB s (offFRZTAB i) 0) with
  | none => (s, none)
  | some i =>
    let w := ofN64 (1 + kind * 2 + core % 512 * 2 ^ 4 + slot * 2 ^ 13 + port * 2 ^ 17 + asid * 2 ^ 21 + carpet % 2 ^ 32 * 2 ^ 32)
    (ctlSet (ctlSet s (offFRZTAB i) w) (offFRZTAB i + 8) 0, some i)

/-- A discarded carpet's record goes once no cushion of it is frozen. -/
def dropGone (s : State) : State :=
  { s with carpets := s.carpets.filter (fun k => !k.gone || s.cushions.any (fun c => c.carpet == k.id)) }

/-- Free a frozen cushion and what it kept. -/
def freeCushion (s : State) (cid : Nat) : State :=
  dropGone { s with cushions := s.cushions.filter (fun c => c.cid != cid), fibres := s.fibres.filter (fun f => f.cush != cid) }

/-- FROZEN_MASTER_RELEASE (R374). -/
def execFrozenMasterRelease (w : CtlWrite) (s : State) : Host.Outcome State Fault Refusal :=
  match writeAt w with
  | some (.frztab _ 0, o, 0, _) =>
    if getB w.value 3 && ctlB s o 0 then
      let t := ctlSetB s o 0 false
      match ctlF s o 1 2 with
      | 0 =>
        match s.cushions.find? (fun c => c.frozen && c.core == ctlF s o 4 9 && c.slot == ctlF s o 13 4) with
        | some c => .next (freeCushion t c.cid)
        | none => .next t
      | 1 => .next { t with barFrozen := false }
      | _ => .next { t with portsFrozen := t.portsFrozen.filter (fun p => p != ctlF s o 17 4) }
    else .next s
  | _ => .next s

/-! ## Discard (R373) -/

/-- Detections in the order that decides which is posted: TIME, die, core. -/
def detectBefore (a b : Detect) : Bool :=
  decide (a.rec_.w5.toNat < b.rec_.w5.toNat) || (a.rec_.w5 == b.rec_.w5 && (decide (a.die < b.die) ||
    (a.die == b.die && decide (a.core < b.core))))

/-- Whether a request of a carpet writes at its home. -/
def writesHome (op : HomeOp) : Bool :=
  match op with
  | .write .. | .rmw .. | .ljoin .. => true
  | _ => false

/-- Step 4: the carpet's requests in flight; each write is applied or dropped as the choices say, reads are dropped. -/
def settleWrites (s : State) (id : Nat) (keep : List Bool) : State :=
  let mine := s.reqs.filter (fun r => r.carpet == id)
  let s := { s with reqs := s.reqs.filter (fun r => r.carpet != id), wbs := s.wbs.filter (fun w => !mine.any (fun r => r.id == w.2)) }
  let ws := mine.filter (fun r => writesHome r.op)
  ((List.range ws.length).zip ws).foldl (fun s r => if getD keep r.1 false then applyReq s r.2 else s) s

/-- The SEQ of a device record: as posted, or as it will be posted behind those that wait. -/
def deviceSeqOf (s : State) (tag : Nat) : DWord :=
  match s.deviceSeq.find? (fun p => p.1 == tag) with
  | some p => ofN64 p.2
  | none =>
    let ws := s.queued.filter (fun r => r.queue == 16)
    match ws.findIdx? (fun r => r.hold == .device tag) with
    | some i => ofN64 (fqProd s 16 + i)
    | none => Config.freeValue s.oracle

/-- The cushions that the detections freeze, each with its entry. -/
def freezeCushions (s : State) (ds : List Detect) : State × List (Nat × Nat) :=
  (ds.filterMap (·.freeze)).dedup.foldl (fun (st : State × List (Nat × Nat)) cid =>
    match getCush st.1 cid with
    | none => st
    | some c =>
      match freezeEntry st.1 0 c.core c.slot 0 (asidOf st.1 c.carpet) c.carpet with
      | (s, some i) => (updCush s cid (fun c => { c with frozen := true, mq := [] }), st.2 ++ [(cid, i)])
      | (s, none) => (s, st.2)) (s, [])

/-- Take the carpet's work out of every unit (steps 1 to 3 and 5); what is away is no part of a frozen cushion (R410). -/
def removeWork (s : State) (id : Nat) : State :=
  let cids := (s.cushions.filter (fun c => c.carpet == id)).map (·.cid)
  let frozen (cid : Nat) : Bool := (getCush s cid).any (·.frozen)
  let fids := (s.fibres.filter (fun f => f.carpet == id)).map (·.fid)
  let goes (f : Fibre) : Bool := f.carpet == id && (f.task || f.away || !frozen f.cush)
  let ops := (s.engines.filter (fun o => o.carpet == id)).map (·.id)
  let mops := (s.cushions.filter (fun c => c.carpet == id)).flatMap (fun c => c.mq.map (·.id))
  let loads := (s.loads.filter (fun l => fids.contains l.fid)).map (·.id)
  let syncs := (s.syncs.filter (fun y => fids.contains y.fid)).map (·.id)
  let frs := (s.fronds.filter (fun f => cids.contains f.cush)).map (·.fr)
  let held := s.slots.filter (fun k => k.frond.any (fun f => frs.contains f))
  let waits (w : Waiter) : Bool := match w with
    | .fibre fid _ _ _ => !fids.contains fid
    | .engine op => !ops.contains op
    | .matrix cid _ => !cids.contains cid
  let ackStays (a : Ack) : Bool := match a.tgt with
    | .engine op _ => !ops.contains op
    | .matrix op => !mops.contains op
    | _ => true
  let s := held.foldl (fun s k => endRun s k.core k.slot) s
  let s := cids.foldl returnGrant s
  let holds : List ReplayHold := (s.holds.map (fun h => { h with waiters := h.waiters.filter waits })).filter (fun h => !h.waiters.isEmpty)
  let walks : List Walk := s.walks.map (fun w => { w with waiters := w.waiters.filter waits })
  { s with
    fronds := s.fronds.filter (fun f => !frs.contains f.fr)
    fibres := s.fibres.filter (fun f => !goes f)
    engines := s.engines.filter (fun o => o.carpet != id)
    loads := s.loads.filter (fun l => !loads.contains l.id)
    ldges := s.ldges.filter (fun l => !loads.contains l.op)
    joins := s.joins.filter (fun j => match j.tgt with | .load op => !loads.contains op | _ => true)
    acks := s.acks.filter ackStays
    syncs := s.syncs.filter (fun y => !syncs.contains y.id)
    held := s.held.filter (fun h => !cids.contains h.cush)
    jobs := s.jobs.filter (fun j => !fids.contains j.fid)
    power := s.power.filter (fun p => !cids.contains p.cush)
    landing := s.landing.filter (fun l => !fids.contains l.fid)
    remote := s.remote.filter (fun r => r.2.carpet != id)
    holds := holds
    walks := walks
    cushions := (s.cushions.filter (fun c => c.carpet != id || c.frozen)).map (fun c => if c.carpet = id then { c with mq := [] } else c) }

/-- The one record of a discard, with the count of the others (R373). -/
def discardRecord (s : State) (ds : List Detect) (fz : List (Nat × Nat)) : State :=
  match bestBy detectBefore ds with
  | none => s
  | some d =>
    let r := d.rec_
    let r := { r with w6 := ofN64 (ds.length - 1), frozen := (d.freeze.map (fun c => fz.any (fun p => p.1 == c))).getD false }
    let r := match d.device with | some t => { r with w3 := deviceSeqOf s t } | none => r
    let s := if d.device.isSome then { s with oracle := s.oracle + 1 } else s
    queueRec s r.asid r (if fz.isEmpty then .nothing else .freeze (fz.map (·.2)))

/-- The cores a carpet's work has run on: their L1s may hold its words, those of its cushions that have ended among them. -/
def carpetCores (s : State) (k : Carpet) : List Nat :=
  (k.cores ++ (s.fibres.filter (fun f => f.carpet == k.id && !f.saved)).map (·.core)).dedup

/-- The carpet's held writes and walkers, which would still reach an L1, are no more (R373 steps 2 and 4). -/
def dropHeld (s : State) (k : Carpet) : State :=
  let mine (fid cush : Nat) : Bool := (getFibre s fid).any (fun f => f.carpet == k.id) || (getCush s cush).any (fun c => c.carpet == k.id)
  { s with
    held := s.held.filter (fun h => !mine h.fid h.cush)
    jobs := s.jobs.filter (fun j => !(getFibre s j.fid).any (fun f => f.carpet == k.id)) }

/-- CARPET_DISCARD: the L1 words it has written go to their homes, then it is discarded whole; `keep` says which of its writes in
flight are applied (R373). -/
def execCarpetDiscard (carpet : Nat) (keep : List Bool) (s : State) : Host.Outcome State Fault Refusal :=
  match getCarpet s carpet with
  | none => .next s
  | some k =>
    if !k.dead || k.gone then .next s
    else
      let cores := carpetCores s k
      match k.barrier with
      | none =>
        let s := cores.foldl l1WriteBackAll (dropHeld s k)
        .next (updCarpet s carpet (fun k => { k with barrier := some s.nextId }))
      | some b =>
        if !cores.all (fun c => wbDone s c b) then .next s
        else
          let ds := s.detects.filter (fun d => d.carpet == carpet)
          let fz := freezeCushions s ds
          let s := removeWork (settleWrites fz.1 carpet keep) carpet
          let s := { s with detects := s.detects.filter (fun d => d.carpet != carpet) }
          let s := discardRecord s ds fz.2
          .next (dropGone (updCarpet s carpet (fun k => { k with gone := true })))

end Sys2Proof.Machine
end

