-- ==== Sys2Proof/Machine/Regs.lean ====
section
/-! DEFINITION. Writes and reads of the package control space (R5, R6, R443) for the registers of the power pool (R13, R14), the
bridge (R20, R21), contexts (R200, R348), cores (R59, R201), the crust partition and schedule (R211, R221), translation
invalidation (R217), launch queues (R334), fault queues (R369), watchdogs (R425). -/

namespace Sys2Proof.Machine

/-! ## Power pool, bridge -/

/-- PWPOOL: SIZE is clamped; below INUSE it sets SHRINK (R13, R417). -/
def pwpoolW (s : State) (w : CtlWrite) : State :=
  let s := storeFields s w
  let n := max 48 (min 768 (ctlF s offPWPOOL 0 16))
  let s := ctlSetF s offPWPOOL 0 16 n
  if n < ctlF s offPWPOOL 16 16 then ctlSetB s offPWEVT 0 true else s

/-- PWPOOL_WRITE (R13, R14): grant decisions of the cycle still use the SIZE that its first write found. -/
def execPwpoolWrite (w : CtlWrite) (s : State) : Host.Outcome State Fault Refusal :=
  match writeAt w with
  | some (.pwpool, _, 0, _) => .next (pwpoolW { s with cyc := { cycNow s with pool := some (poolSize s) } } w)
  | _ => .next s

/-- BRWIN_WRITE (R20): it applies to host accesses that arrive after it. -/
def execBrwinWrite (w : CtlWrite) (s : State) : Host.Outcome State Fault Refusal :=
  match writeAt w with
  | some (.brwin, _, _, _) => .next (storeFields s w)
  | _ => .next s

/-- BRGSEL_WRITE: held interrupt messages are sent again (R21). -/
def execBrgselWrite (w : CtlWrite) (s : State) : Host.Outcome State Fault Refusal :=
  match writeAt w with
  | some (.brgsel, _, _, _) => .next (irqResend (storeFields s w))
  | _ => .next s

/-! ## Cores: USCFG (R59) -/

/-- A core holds a cushion. -/
def coreHolds (s : State) (core : Nat) : Bool := s.cushions.any (fun c => c.core == core && !c.saved)

/-- USCFG_WRITE: on a core without a cushion, a changed L1KB first writes back every dirty word (R59). DESIGN CHOICE (log entry 29): a
changing write while the steps of an earlier one run takes its place. -/
def execUscfgWrite (w : CtlWrite) (s : State) : Host.Outcome State Fault Refusal :=
  match writeAt w with
  | some (.uscfg core, _, 0, _) =>
    let kb := max 4 (min 16 (getF w.value 0 5))
    if coreHolds s core || kb == l1KB s core then .next s
    else
      let t := l1WriteBackAll s core
      .next { t with resizes := t.resizes.filter (fun r => r.1 != core) ++ [(core, kb, t.nextId)] }
  | _ => .next s

/-- L1_RESIZE_DONE: the write-backs are acknowledged; the L1 is emptied and its boundary moves (R59). Words that an away fibre has dirtied
since are written back before. The window of an away fibre that the grown L1 portion comes to cover stays where it is: the spec says nothing of it
(DESIGN CHOICE, log entry 38). -/
def execL1ResizeDone (core : Nat) (s : State) : Host.Outcome State Fault Refusal :=
  if 384 ≤ core then .fault .noSuchUnit
  else match s.resizes.find? (fun r => r.1 == core) with
    | none => .next s
    | some (_, kb, b) =>
      if !wbDone s core b then .next s
      else if s.l1.any (fun l => l.core == core && l.dirty != 0) then
        let t := l1WriteBackAll s core
        .next { t with resizes := t.resizes.map (fun r => if r.1 = core then (core, kb, t.nextId) else r) }
      else
        let t := l1Invalidate s core
        .next (ctlSetF { t with l1 := t.l1.filter (fun l => l.core != core), resizes := t.resizes.filter (fun r => r.1 != core) }
          (offUSCFG core) 0 5 kb)

/-! ## Crust partition (R211) -/

def anyRegion (s : State) : Bool :=
  (List.range 16).any (fun a => (List.range 64).any (fun r => regionV s a r || regionReady s a r))

/-- CRPART_WRITE: while no region is active or retiring; the lines of the L2 go back to HBM (R211). -/
def execCrpartWrite (w : CtlWrite) (s : State) : Host.Outcome State Fault Refusal :=
  match writeAt w with
  | some (.crpart, _, 0, _) =>
    if anyRegion s then .next s
    else
      let n := min 8 (getF w.value 0 4)
      if n = ctlF s offCRPART 0 4 then .next s
      else .next (ctlSetF ((s.l2.map (·.line)).foldl l2Evict s) offCRPART 0 4 n)
  | _ => .next s

/-! ## Translation invalidation (R217) -/

/-- Whether an invalidation of a mode, context and page covers a cached translation. -/
def invalCovers (mode asid : Nat) (va : DWord) (x : Xlat) : Bool :=
  match mode with
  | 0 => xlatCovers asid va x
  | 1 => x.asid == asid
  | _ => true

/-- The virtual page that an invalidation of mode 0 names, as the level of its leaf: that of a cached translation of VA, else of the smallest
page. -/
def invalLevel (s : State) (asid : Nat) (va : DWord) : Nat :=
  (((s.dieTlb ++ s.coreTlb).find? (fun e => xlatCovers asid va e.2)).map (·.2.level)).getD 0

/-- XLINV_GO: matching translations leave every cache, walks already begun will be dropped, and not those that are still queued for the pool, BUSY
sets (R216, R217). An unassigned MODE leaves the register unchanged (R6). -/
def execXlinvGo (w : CtlWrite) (s : State) : Host.Outcome State Fault Refusal :=
  match writeAt w with
  | some (.xlinvc, o, 0, _) =>
    if !getB w.value 8 || getF w.value 4 2 == 3 then .next s
    else
      let busy := ctlB s o 9
      let t := storeFields s w
      if busy then .next t
      else
        let mode := getF w.value 4 2
        let asid := getF w.value 0 4
        let va := ctlW s offXLINVA
        let keep (e : Nat × Xlat) : Bool := !invalCovers mode asid va e.2
        let ws : List Walk := t.walks.map (fun k => { k with dropped := k.dropped || walkRuns t k })
        .next (ctlSetB { t with
          coreTlb := t.coreTlb.filter keep, dieTlb := t.dieTlb.filter keep, walks := ws
          inval := some (t.nextId, asid + 16 * mode + 64 * invalLevel t asid va, va) } o 9 true)
  | _ => .next s

/-- An access of n bytes used a translation that the invalidation in progress matches. -/
def invalHits (am : Nat) (page : DWord) (asid : Nat) (va : DWord) (n : Nat) : Bool :=
  let size := 2 ^ pageBits (am / 64)
  let lo := page.toNat / size * size
  match am / 16 % 4 with
  | 0 => asid == am % 16 && decide (va.toNat < lo + size) && decide (lo < va.toNat + n)
  | 1 => asid == am % 16
  | _ => true

/-- A request used a translation that an invalidation matches: by its own address, at most 16 bytes of an access, or by a page of those that go
with it. -/
def reqHits (am : Nat) (page : DWord) (r : Req) : Bool :=
  if r.pages.isEmpty then invalHits am page r.asid r.va (match r.op with | .read (.matrix _ _) _ | .write (.matrix _) _ => 1 | _ => 16)
  else r.pages.any (fun p => invalHits am page r.asid p (2 ^ 16))

/-- XLINV_COMPLETE: no walk begun before GO is left, and no access that used a matching translation still waits for its home (R217). -/
def execXlinvComplete (s : State) : Host.Outcome State Fault Refusal :=
  match s.inval with
  | none => .next s
  | some (seq, am, page) =>
    let heldAsid (h : Held) : Nat := ((getCush s h.cush).map (fun c => asidOf s c.carpet)).getD 0
    let staged (o : EngOp) : Bool := o.stage.any (fun b => decide (b.2.2 < seq) && invalHits am page o.asid b.2.1 1)
    if s.walks.any (·.dropped) || s.reqs.any (fun r => r.carpet != 0 && decide (r.xlated < seq) && reqHits am page r) ||
        s.remote.any (fun r => decide (r.2.xlated < seq) && reqHits am page r.2) ||
        s.held.any (fun h => decide (h.id < seq) && invalHits am page (heldAsid h) h.va 16) || s.engines.any staged then .next s
    else .next (ctlSetB { s with inval := none } offXLINVC 9 false)

/-! ## Launch queues (R334) -/

/-- V may set: the tail is a MAXN32 cell of an active region and the ring is aligned and canonical (R334). -/
def queueArms (s : State) (a q : Nat) : Bool :=
  let tail := lqTail s a q
  (match cellOf s a tail with | some (_, _, ct) => ct == 0 && tail.toNat % 4 == 0 | none => false) &&
    decide ((lqRing s a q).toNat % 128 = 0) && canonicalVA (lqRing s a q)

/-- LAUNCH_QUEUE_WRITE (R334): while V is 1 only V changes; LOG2N 13 to 15 leaves the register unchanged (R6). -/
def execLaunchQueueWrite (w : CtlWrite) (s : State) : Host.Outcome State Fault Refusal :=
  match writeAt w with
  | some (.lq a q 0, o, lo, _) =>
    if lo ≠ 0 then .next s
    else if lqV s a q then .next (ctlSetB s o 0 (getB w.value 0))
    else if 13 ≤ getF w.value 8 4 then .next s
    else
      let t := ctlSetF s o 8 4 (getF w.value 8 4)
      if getB w.value 0 && queueArms t a q then .next (ctlSetB (ctlSetF t (o + 0x18) 0 32 0) o 0 true) else .next t
  | some (.lq a q _, _, _, _) => .next (if lqV s a q then s else storeFields s w)
  | _ => .next s

/-! ## REGISTER_WRITE -/

/-- After a write of an exchange entry: PERIOD 0 stores 1, OFFSET is below PERIOD (R221). -/
def exschedFix (s : State) (o : Nat) : State :=
  let p := max 1 (ctlF s o 24 16)
  ctlSetF (ctlSetF s o 24 16 p) o 40 16 (ctlF s o 40 16 % p)

/-- A write to a register that has no step of its own, or that does nothing a step stands for. -/
def plainW (s : State) (w : CtlWrite) (r : CReg) (o lo n : Nat) : State :=
  match r with
  | .brpend _ => if bridgeMode s then storeFields s w else s
  | .pwevt | .rhstat | .crstat | .xlinva | .heap .. => storeFields s w
  | .route _ => irqResend (storeFields s w)
  | .lkstat _ => if coversField 3 1 lo n && getB (ctlValue w) 3 then s else storeFields s w
  | .ctxmem a _ => if ctxLive s a then s else storeFields s w
  | .exsched _ _ => exschedFix (storeFields s w) o
  | .xlinvc => if getF (ctlValue w) 4 2 = 3 ∨ getB (ctlValue w) 8 = true then s else storeFields s w
  | .vltcfg c =>
    if coreHolds s c || s.fibres.any (fun f => f.core == c && f.status != .resident && !f.saved) then s
    else let s := storeFields s w; if ctlF s o 0 4 = 0 then ctlSetF s o 0 4 1 else s
  | .ctxcb a 0 => if lo = 0 ∧ getF w.value 0 2 = 0 then ctxW1C s w a else s
  | .ctxcb a _ => if ctxLive s a then s else storeFields s w
  | .fq q 1 => if fqV s q then s else storeFields s w
  | .fq q 3 => armCheck (storeFields s w) q
  | .fq _ 4 | .fq _ 5 => storeFields s w
  | .fq _ 6 => if coversField 34 1 lo n && getB (ctlValue w) 34 && ctlF (storeFields s w) o 32 2 != 0 then s else storeFields s w
  | .wdcfg =>
    let s := storeFields s w
    let s := if ctlF s o 0 16 = 0 then ctlSetF s o 0 16 1 else s
    if ctlF s o 16 16 = 0 then ctlSetF s o 16 16 1 else s
  | _ => s

/-- REGISTER_WRITE (R5, R443). -/
def execRegisterWrite (w : CtlWrite) (s : State) : Host.Outcome State Fault Refusal :=
  match writeAt w with
  | some (r, o, lo, n) => .next (plainW s w r o lo n)
  | none => .next s

/-! ## Reads -/

/-- The word a register reads as: stored, or computed where it shows the state of a unit. -/
def ctlShown (s : State) (r : CReg) (o : Nat) : DWord :=
  let w := fieldsRead (cregFields r) (ctlW s o)
  match r with
  | .conn _ => setF w 62 2 (if s.running then getF w 62 2 else 0)
  | .lkstat p => setB w 2 (bridgePort s == some p)
  | .ctxcb a 3 => ofN64 (needed s a)
  | .wdcfg => setB w 32 ((List.range 8).any (fun d => ctlB s offDBGCTL (8 + d)))
  | .brpend _ => if bridgeMode s then w else 0
  | _ => w

/-- A read of the control space: the value, and the state with the RC fields cleared that it covers (R443). Other widths and
misaligned accesses read zero, as do offsets without a register. -/
def ctlRead (s : State) (off bytes : Nat) : State × DWord :=
  match ctlCover off bytes with
  | none => (s, 0)
  | some (o, lo, n) =>
    match cregAt o with
    | none => (s, 0)
    | some r =>
      let v := ofN64 (getF (ctlShown s r o) lo n)
      (ctlSet s o (fieldsAfterRead (cregFields r) (ctlW s o) lo n), v)

/-- RC_FIELD_READ (R5, R443): what was read stands in hostData. -/
def execRcFieldRead (off bytes : Nat) (s : State) : Host.Outcome State Fault Refusal :=
  let r := ctlRead s off bytes
  .next { r.1 with hostData := leBytes bytes r.2.toNat }

end Sys2Proof.Machine
end

