-- ==== Sys2Proof/Machine/CrustCtl.lean ====
section
/-! DEFINITION. Crust regions: activation, loading, retirement (R218, R403); the exchange (R221, R222); the pushes of LSYNC
(R259). -/

namespace Sys2Proof.Machine

/-! ## The region table (R218) -/

def regionSpan (s : State) (a r : Nat) : Nat × Nat := (regionBase s a r, 256 * regionBlocks s a r)
def regionPart (s : State) (a r : Nat) : Nat × Nat := (ctlF s (offCRTAB a r + 8) 16 16, regionBlocks s a r)

def overlaps (x y : Nat × Nat) : Bool := decide (x.1 < y.1 + y.2) && decide (y.1 < x.1 + x.2)

/-- The 64 KiB pages of a region. -/
def regionPages (s : State) (a r : Nat) : List DWord :=
  let b := regionBase s a r
  let n := 256 * regionBlocks s a r
  (List.range (divUp (b % 2 ^ 16 + n) (2 ^ 16))).map (fun i => ofN64 (b / 2 ^ 16 * 2 ^ 16 + 2 ^ 16 * i))

/-- The leaf of a page of a context, none where nothing is mapped: without a page table, or in the near-vault window, whose entries are
ignored (R199, R200). -/
def pageLeaf (s : State) (a : Nat) (va : DWord) : Option Xlat :=
  match preCheck s a .load [(va, 1)], walkTable s a va with
  | none, .ok x => some x
  | _, _ => none

/-- Every page is a crust page of the region's type. -/
def pagesSuit (s : State) (a r : Nat) : Bool :=
  (regionPages s a r).all (fun va => match pageLeaf s a va with
    | some x => leafCR x.leaf && decide (leafCtype x.leaf = regionType s a r)
    | none => false)

/-- The region as its fields stand may be activated. -/
def regionFits (s : State) (a r : Nat) : Bool :=
  let n := regionBlocks s a r
  let part := regionPart s a r
  decide (regionType s a r ≤ 10) && canonicalVA (ofN64 (regionBase s a r)) && decide (1 ≤ n) && decide (n ≤ 32768) &&
    decide (part.1 + n ≤ ctlF s offCRPART 0 4 * 4096) &&
    (List.range 16).all (fun b => (List.range 64).all (fun q =>
      (b == a && q == r) || !(regionV s b q || regionReady s b q) ||
        (!overlaps part (regionPart s b q) && (b != a || !overlaps (regionSpan s a r) (regionSpan s b q))))) &&
    pagesSuit s a r

def refuseRegion (s : State) : State := ctlSetB s offCRSTAT 0 true

/-- A write of word 0 while V and READY are 0: the fields, then V if it may set. -/
def regionSet (s : State) (w : CtlWrite) (a r o lo n : Nat) : State :=
  let t := storeFields s w
  let t0 := ctlSetB t o 0 false
  let setsV := coversField 0 1 lo n && getB (ctlValue w) 0
  if 10 < regionType t a r then (if setsV then refuseRegion s else s)
  else if !setsV then t0
  else if regionFits t0 a r then t
  else refuseRegion t0

/-- CRUST_REGION_WRITE (R218). -/
def execCrustRegionWrite (w : CtlWrite) (s : State) : Host.Outcome State Fault Refusal :=
  match writeAt w with
  | some (.crtab a r 0, o, lo, n) =>
    let v := getB (ctlValue w) 0
    let covers := coversField 0 1 lo n
    if regionV s a r then .next (if covers && !v then ctlSetB s o 0 false else s)
    else if regionReady s a r then .next (if covers && v then refuseRegion s else s)
    else .next (regionSet s w a r o lo n)
  | some (.crtab a r _, _, _, _) => .next (if regionV s a r || regionReady s a r then s else storeFields s w)
  | _ => .next s

/-- The physical byte behind a byte of a region, by its offset: its backing image (R218). -/
def backing (s : State) (a r off : Nat) : Option Nat :=
  let va := ofN64 (regionBase s a r + off)
  (pageLeaf s a va).bind (fun x => physOf (leafKind x.leaf) (leafPA x va))

/-- The region's cells as the backing image holds them. -/
def imageOf (s : State) (a r : Nat) : Memory :=
  (List.range (256 * regionBlocks s a r)).filterMap (fun i =>
    match backing s a r i with
    | some p => if physRead s p = 0 then none else some (i, physRead s p)
    | none => none)

/-- CRUST_REGION_READY: every die has loaded the region (R218). -/
def execCrustRegionReady (asid region : Nat) (s : State) : Host.Outcome State Fault Refusal :=
  if 16 ≤ asid ∨ 64 ≤ region then .fault .noSuchUnit
  else if !regionV s asid region || regionReady s asid region || (List.range 8).any (dieInReset s) then .next s
  else
    let m := imageOf s asid region
    let t := (List.range 8).foldl (fun s d => setReplica s d asid region m) s
    .next (ctlSetB t (offCRTAB asid region) 1 true)

/-- Every replica holds the same cells, and no exchange of the region is in flight. -/
def replicasAgree (s : State) (a r : Nat) : Bool :=
  (List.range 8).all (fun d => !dieInReset s d && replicaOf s d a r == replicaOf s 0 a r) &&
    s.exchanges.all (fun x => x.blocks.all (fun b => !(b.1.asid == a && b.1.region == r)))

/-- An LDGE parked on a cell of a region whose READY clears ends its carpet (R403). -/
def ldgeRetired (region : Nat) (s : State) (l : LdgeWait) : State :=
  match (s.loads.find? (fun k => k.id == l.op)).bind (fun k => getFibre s k.fid) with
  | some f => fatalFibre s f 0x208 (f.pc - 8#64) l.va (ofN64 region) false
  | none => s

/-- CRUST_REGION_RETIRED: the agreed cells go to the backing image and READY clears; queues and waiters on the region stop
(R218, R334, R338, R403). -/
def execCrustRegionRetired (asid region : Nat) (s : State) : Host.Outcome State Fault Refusal :=
  if 16 ≤ asid ∨ 64 ≤ region then .fault .noSuchUnit
  else if regionV s asid region || !regionReady s asid region || !replicasAgree s asid region then .next s
  else
    let span := regionSpan s asid region
    let inside (va : DWord) : Bool := decide (span.1 ≤ va.toNat) && decide (va.toNat < span.1 + span.2)
    let m := replicaOf s 0 asid region
    let cells := (List.range span.2).filterMap (fun i => (backing s asid region i).map (fun p => (p, memRead m i)))
    let mine (l : LdgeWait) : Bool := l.asid == asid && inside l.va
    let waits (p : ReadPacket) : Bool := p.asid == asid && p.readable && p.pkt.scv && inside p.pkt.scAddr
    let stopped := s.ldges.filter mine
    let packets := s.packets.filter waits
    let t := homeWrite s 0 cells
    let t := ctlSetB { t with
      replicas := t.replicas.filter (fun p => !(p.asid == asid && p.region == region))
      dirty := t.dirty.filter (fun d => !(d.blk.asid == asid && d.blk.region == region))
      ldges := t.ldges.filter (fun l => !mine l)
      packets := t.packets.filter (fun p => !waits p) } (offCRTAB asid region) 1 false
    let t := stopped.foldl (ldgeRetired region) t
    let t := packets.foldl (fun s p => failLaunch s p 0x401 (ofN64 p.addr)) t
    .next ((List.range 16).foldl (fun s q => if inside (lqTail s asid q) then ctlSetB s (offLQ asid q) 0 false else s) t)

/-! ## The exchange (R221, R222) -/

def exV (s : State) (d e : Nat) : Bool := ctlB s (offEXSCHED d e) 0
def exLink (s : State) (d e : Nat) : Bool := ctlB s (offEXSCHED d e) 1
def exDie (s : State) (d e : Nat) : Nat := ctlF s (offEXSCHED d e) 2 3
def exPkg (s : State) (d e : Nat) : Nat := ctlF s (offEXSCHED d e) 8 12

/-- CLOCK stands at a firing point of the entry. -/
def exPoint (s : State) (d e : Nat) : Bool :=
  s.clock % (64 * max 1 (ctlF s (offEXSCHED d e) 24 16)) == 64 * ctlF s (offEXSCHED d e) 40 16

/-- The dirty blocks an entry sends: over LINK only those of system-scope regions. -/
def exBlocks (s : State) (d e : Nat) (link : Bool) : List Blk :=
  (s.dirty.filter (fun x => x.die == d && x.entry == e && regionReady s x.blk.asid x.blk.region &&
    (!link || regionSys s x.blk.asid x.blk.region))).map (·.blk)

/-- Both ends of the entry can take part now, and its previous exchange is over. -/
def exClear (s : State) (d e : Nat) : Bool :=
  let link := exLink s d e
  let p := exDie s d e
  !dieHalt s d && !dieInReset s d && !s.exchanges.any (fun x => x.die == d && x.entry == e) &&
    (if link then exPkg s d e != pkgIdOf s && (routePort s noCore (exPkg s d e)).isSome
     else !dieHalt s p && !dieInReset s p && diesConnected s d p)

/-- The message of a block for another package. -/
def crustMsg (s : State) (x : Exchange) (b : Blk) (cells : Memory) : LinkMsg :=
  .crust (pkgIdOf s) x.die x.entry x.id x.path b.asid b.region b.block cells

/-- Send one block to another package; a push for which no route is up waits for one. -/
def linkBlock (s : State) (d e pkg : Nat) (sync : Option Nat) (path : List Nat) (b : Blk) : State :=
  let f := fresh s
  let cells := blockBytes s d b
  let x : Exchange := { id := f.2, die := d, entry := e, dst := d, pkg := some pkg, blocks := [(b, cells)], sync := sync, absorbed := false,
                        unsent := (routePort s noCore pkg).isNone, path := path }
  linkSend { f.1 with exchanges := f.1.exchanges ++ [x] } pkg (crustMsg s x b cells)

/-- Pushes that wait for a route leave once there is one. -/
def linkPending (s : State) : State :=
  (s.exchanges.filter (·.unsent)).foldl (fun s x =>
    match x.pkg, x.blocks with
    | some pkg, [(b, cells)] =>
      if (routePort s noCore pkg).isNone then s
      else
        let xs := updIf (fun (y : Exchange) => y.id == x.id) (fun y => { y with unsent := false }) s.exchanges
        linkSend { s with exchanges := xs } pkg (crustMsg s x b cells)
    | _, _ => s) s

/-- Send the snapshot of some blocks to a die of the package. -/
def dieBlocks (s : State) (d e dst : Nat) (sync : Option Nat) (bs : List Blk) : State :=
  if bs.isEmpty then s
  else
    let f := fresh s
    let x : Exchange := { id := f.2, die := d, entry := e, dst := dst, pkg := none, blocks := bs.map (fun b => (b, blockBytes s d b)),
                          sync := sync, absorbed := false }
    { f.1 with exchanges := f.1.exchanges ++ [x] }

/-- An entry fires, or its firing waits (R222). -/
def fireEntry (s : State) (die entry : Nat) : State :=
  let rest := s.fireDue.filter (fun p => p != (die, entry))
  if !exClear s die entry then { s with fireDue := rest ++ [(die, entry)] }
  else
    let link := exLink s die entry
    let bs := exBlocks s die entry link
    let t := { s with
      fireDue := rest
      dirty := s.dirty.filter (fun x => !(x.die == die && x.entry == entry && bs.contains x.blk)) }
    if link then bs.foldl (fun s b => linkBlock s die entry (exPkg s die entry) none [] b) t
    else dieBlocks t die entry (exDie s die entry) none bs

/-- The entry is at its firing point and has not fired in this cycle. -/
def atPoint (s : State) (die entry : Nat) : Bool := exPoint s die entry && !(cycNow s).fired.contains (die, entry)

def noteFired (s : State) (die entry : Nat) : State :=
  if exPoint s die entry then { s with cyc := { cycNow s with fired := (die, entry) :: (cycNow s).fired } } else s

/-- EXCHANGE_FIRE (R221, R222): at the entry's point, once in the cycle, or when a firing that had to wait can be made. -/
def execExchangeFire (die entry : Nat) (s : State) : Host.Outcome State Fault Refusal :=
  if 8 ≤ die ∨ 16 ≤ entry then .fault .noSuchUnit
  else if !exV s die entry then .next { s with fireDue := s.fireDue.filter (fun p => p != (die, entry)) }
  else if s.fireDue.contains (die, entry) || atPoint s die entry then .next (fireEntry (noteFired s die entry) die entry)
  else .next s

/-- How many firing points of an entry fall into the n cycles from now on; in this cycle it may have fired. -/
def pointsIn (s : State) (die entry n : Nat) : Nat :=
  let p := 64 * max 1 (ctlF s (offEXSCHED die entry) 24 16)
  let o := 64 * ctlF s (offEXSCHED die entry) 40 16
  (s.clock + n - 1 + p - o) / p - (s.clock + p - o - 1) / p - (if exPoint s die entry && !atPoint s die entry then 1 else 0)

/-- An entry's firings in the n cycles that CLOCK leaves behind, and one that waited and can now be made. -/
def firePast (n : Nat) (s : State) (p : Nat × Nat) : State :=
  if !exV s p.1 p.2 then s
  else
    let k := pointsIn s p.1 p.2 n
    let s := if s.fireDue.contains p && exClear s p.1 p.2 then fireEntry s p.1 p.2 else s
    (List.range (min k 2)).foldl (fun s _ => fireEntry s p.1 p.2) s

/-- CLOCK leaves n cycles behind: every entry fires at its points in them (R221, R222, R223), which are multiples of 64, and pushes that
wait for a route leave once there is one. With no block dirty or in flight a firing does nothing. -/
def fireCycles (s : State) (n : Nat) : State :=
  let point := decide ((s.clock + 63) / 64 < (s.clock + n + 63) / 64)
  if n = 0 || (s.fireDue.isEmpty && s.exchanges.isEmpty && (!point || s.dirty.isEmpty)) then s
  else
    let s := linkPending s
    if s.fireDue.isEmpty && !point then s
    else ((List.range 8).flatMap (fun d => (List.range 16).map (fun e => (d, e)))).foldl (firePast n) s

/-- Join the blocks of an exchange into a die's replica. -/
def absorb (s : State) (dst : Nat) (bs : List (Blk × Memory)) : State := bs.foldl (fun s b => blockJoin s dst b.1 b.2) s

/-- EXCHANGE_RECEIVE: the k-th exchange in flight is joined at its partner die (R222). -/
def execExchangeReceive (k : Nat) (s : State) : Host.Outcome State Fault Refusal :=
  match s.exchanges[k]? with
  | none => .next s
  | some x =>
    if x.absorbed || x.pkg.isSome || dieHalt s x.dst || dieInReset s x.dst || !diesConnected s x.die x.dst then .next s
    else
      let t := absorb s x.dst x.blocks
      let xs := updIf (fun (y : Exchange) => y.id == x.id) (fun y => { y with absorbed := true }) t.exchanges
      .next { t with exchanges := xs }

/-! ## LSYNC (R241, R259) -/

/-- The package to which an entry of a die leads over LINK. -/
def linkPartner (s : State) (d e : Nat) : Option Nat :=
  if exV s d e && exLink s d e && exPkg s d e != pkgIdOf s then some (exPkg s d e) else none

/-- Step 3: each die sends the context's changed blocks of system-scope regions over its LINK entries. -/
def linkPush (y : Sync) (s : State) (d : Nat) : State :=
  let bs := (exBlocks s d 17 true).filter (fun b => b.asid == y.asid)
  let pkgs := (List.range 16).filterMap (linkPartner s d)
  if pkgs.isEmpty then s
  else
    let t := { s with dirty := s.dirty.filter (fun x => !(x.die == d && x.entry == 17 && bs.contains x.blk)) }
    pkgs.foldl (fun s p => bs.foldl (fun s b => linkBlock s d 16 p (some y.id) [pkgIdOf s] b) s) t

/-- A push that has come from another package goes on, as it now stands on each die, to the partners it has not come through. The blocks stay
dirty, since those it has come through do not get this package's own changes by it. -/
def linkForward (y : Sync) (s : State) (d : Nat) : State :=
  match y.blk with
  | none => s
  | some b =>
    let pkgs := ((List.range 16).filterMap (linkPartner s d)).filter (fun p => !y.path.contains p)
    pkgs.foldl (fun s p => linkBlock s d 16 p (some y.id) (y.path ++ [pkgIdOf s]) b) s

/-- A sync whose pushes are all absorbed goes on over LINK entries at system scope, then is answered. A sync of this package awaits what it sends
and the pushes of its context that are under way over LINK entries already; one that serves a push from elsewhere awaits the pushes by which it
sends that block on, whether or not it has changed here, so that no push waits for one that waits for it, packages in a ring among them
(DEDUCED, log entry 31). -/
def syncStep (s : State) (y : Sync) : State :=
  if !y.dies.isEmpty || !y.exch.isEmpty then s
  else if y.sc = .system ∧ y.linked = false then
    let first := s.nextId
    let t := (List.range 8).foldl (if y.back.isSome then linkForward y else linkPush y) s
    let old := (s.exchanges.filter (fun x => x.entry == 16 && x.pkg.isSome && y.back.isNone && x.blocks.any (fun b => b.1.asid == y.asid))).map (·.id)
    let new := (t.exchanges.filter (fun x => decide (first ≤ x.id))).map (·.id)
    { t with syncs := updIf (fun (z : Sync) => z.id == y.id) (fun z => { z with linked := true, exch := old ++ new }) t.syncs }
  else match y.back with
    | some (pkg, die, x) => linkSend { s with syncs := s.syncs.filter (fun z => z.id != y.id) } pkg (.syncAck x die)
    | none => if s.replies.any (fun r => r.what == .absorbed y.id 0) then s else addReply s noDie (.absorbed y.id 0)

/-- Look at every sync again; a sync that goes on over links and has nothing to send is answered at the second look. -/
def syncPump (s : State) : State :=
  let go (s : State) : State := s.syncs.foldl (fun s y => syncStep s ((s.syncs.find? (fun z => z.id == y.id)).getD y)) s
  if s.syncs.isEmpty then s else go (go s)

/-- The one die whose absorption a sync awaits, none when it awaits every die's (R241, R259). -/
def syncDie (s : State) (y : Sync) : Option Nat :=
  if y.sc = .die ∧ y.back.isNone then (getFibre s y.fid).map (fun f => dieOf f.core) else none

/-- A die pushes the context's changed blocks to every other die for a sync, which awaits the pushes to the dies of its scope, those already
under way among them. -/
def pushBlocks (s : State) (die : Nat) (y : Sync) : State :=
  let bs := (exBlocks s die 16 false).filter (fun b => b.asid == y.asid)
  let awaits (x : Exchange) : Bool := match syncDie s y with | some d => x.dst == d | none => true
  let old := s.exchanges.filter (fun x => x.die == die && x.entry == 16 && x.pkg.isNone && x.blocks.any (fun b => b.1.asid == y.asid))
  let first := s.nextId
  let t := { s with dirty := s.dirty.filter (fun x => !(x.die == die && x.entry == 16 && bs.contains x.blk)) }
  let t := (List.range 8).foldl (fun s d => if d = die then s else dieBlocks s die 16 d (some y.id) bs) t
  let new := t.exchanges.filter (fun x => decide (first ≤ x.id))
  let upd : Sync → Sync := fun z =>
    { z with dies := z.dies.filter (fun d => d != die), exch := z.exch ++ ((old ++ new).filter awaits).map (·.id) }
  { t with syncs := updIf (fun z => z.id == y.id) upd t.syncs }

/-- A die has accepted an LSYNC request. -/
def askedAt (s : State) (id : Nat) (r : Req) : State :=
  { s with syncs := updIf (fun (y : Sync) => y.id == id) (fun y => { y with asked := y.asked ++ [(r.die, r.sent)] }) s.syncs }

/-- CRUST_SYNC_REQUEST: the k-th LSYNC request in flight reaches its die's crust controller (R259), which takes it as a home takes a request
(R347, R427). -/
def execCrustSyncRequest (k : Nat) (s : State) : Host.Outcome State Fault Refusal :=
  match (s.reqs.filter (fun r => isSync r.op))[k]? with
  | none => .next s
  | some r =>
    if 0 < r.refused ∧ r.taken = false ∧ s.clock < r.retryAt then .next s
    else match takeReq s r with
      | (t, false) => .next t
      | (t, true) =>
        let t := { t with reqs := t.reqs.filter (fun q => q.id != r.id) }
        match r.op with
        | .sync id =>
          match t.syncs.find? (fun y => y.id == id) with
          | some y => .next (syncPump (pushBlocks (askedAt t id r) r.die y))
          | none => .next t
        | _ => .next s

/-- An exchange is over: its blocks are no longer in flight. -/
def exchangeOver (s : State) (id : Nat) : State :=
  let ys := s.syncs.map (fun (y : Sync) => { y with exch := y.exch.filter (fun x => x != id) })
  syncPump { s with exchanges := s.exchanges.filter (fun x => x.id != id), syncs := ys }

/-- EXCHANGE_ACK: the acknowledgement of the k-th exchange in flight arrives (R222), once there is a way from its partner (R421). -/
def execExchangeAck (k : Nat) (s : State) : Host.Outcome State Fault Refusal :=
  match s.exchanges[k]? with
  | some x => .next (if x.absorbed && (x.pkg.isSome || diesConnected s x.dst x.die) then exchangeOver s x.id else s)
  | none => .next s

/-- An exchange lost on its way, or its acknowledgement: its blocks are dirty again (R222, R421, R423). A push is only delayed: its LSYNC goes on
waiting for it. -/
def exchangeLost (s : State) (x : Exchange) : State :=
  if x.entry = 16 then
    if x.pkg.isNone then { s with exchanges := updIf (fun (y : Exchange) => y.id == x.id) (fun y => { y with absorbed := false }) s.exchanges }
    else linkPending { s with exchanges := updIf (fun (y : Exchange) => y.id == x.id) (fun y => { y with unsent := true }) s.exchanges }
  else
    let d := x.blocks.foldl (fun l b => addNew { die := x.die, entry := x.entry, blk := b.1 } l) s.dirty
    { exchangeOver s x.id with dirty := d }

end Sys2Proof.Machine
end

