-- ==== Sys2Proof/Machine/Link.lean ====
section
/-! DEFINITION. Rhizoid circuits (R23 to R26, R420 to R422), link ports (R15, R423), and the watchdogs (R425). -/

namespace Sys2Proof.Machine

/-! ## Device faults and the carpets they touch (R375) -/

/-- Post a device record and touch some carpets. -/
def deviceFault (s : State) (syn : Nat) (core : Option Nat) (w3 w4 : DWord) (carpets : List Nat) : State :=
  let tag := s.nextId
  carpets.dedup.foldl (fun s c => touchCarpet s c (some tag)) (deviceRec s syn core w3 w4)

/-- The carpets with a patch on a die. -/
def carpetsOn (s : State) (die : Nat) : List Nat :=
  ((s.cushions.filter (fun c => !c.frozen && dieOf c.core == die)).map (·.carpet)).dedup

/-! ## Connection table (R23 to R26) -/

def connSPort (w : DWord) : Nat := getF w 4 3
def connDPort (w : DWord) : Nat := getF w 10 3

def connSetState (s : State) (i n : Nat) : State := ctlSetF s (offCONN i) 62 2 n

/-- A wavelength of the written entry is in use at its transmit or receive port by another entry, open or opening (R25). -/
def wavesClash (s : State) (i : Nat) (w : DWord) : Bool :=
  (List.range 256).any (fun j =>
    let v := ctlW s (offCONN j)
    j != i && (connState s j == 1 || connState s j == 2) && decide (getF v 16 32 &&& getF w 16 32 ≠ 0) &&
      ((getF v 1 3 == getF w 1 3 && connSPort v == connSPort w) || (getF v 7 3 == getF w 7 3 && connDPort v == connDPort w)))

/-- The entry is the only open circuit between its dies. -/
def lastCircuit (s : State) (i : Nat) : Bool :=
  connState s i == 2 && !(List.range 256).any (fun j => j != i && connState s j == 2 && connSDie s j == connSDie s i && connDDie s j == connDDie s i)

/-- CONN_ENTRY_WRITE (R25). Of a write to an open entry only V acts: what else it changes is ignored, and is no refusal (DESIGN CHOICE, log entry
43). Writes of one cycle arrive in the order of their paths, the lower first (log entry
2), and the second to an entry is refused. -/
def execConnEntryWrite (w : CtlWrite) (s : State) : Host.Outcome State Fault Refusal :=
  match writeAt w with
  | some (.conn i, o, lo, n) =>
    let v := fieldsWrite (cregFields (.conn i)) (ctlW s o) (ctlValue w) lo n
    let bad := (cycNow s).conn.contains i || connState s i == 1 || connState s i == 3 || getF v 1 3 == getF v 7 3 ||
      (getB v 0 && getF v 16 32 == 0) || wavesClash s i v || (!getB v 0 && lastCircuit s i)
    let s : State := { s with cyc := { cycNow s with conn := i :: (cycNow s).conn } }
    if bad then .next (ctlSetB s offRHSTAT 0 true)
    else if connState s i = 2 then
      .next (if getB v 0 then s else connSetState (ctlSetB s o 0 false) i 3)
    else
      let t := ctlSet s o v
      .next (if getB v 0 then connSetState t i 1 else t)
  | _ => .next s

/-- CIRCUIT_OPENED (R25). -/
def execCircuitOpened (entry : Nat) (s : State) : Host.Outcome State Fault Refusal :=
  if 256 ≤ entry then .fault .noSuchUnit else .next (if connState s entry = 1 then connSetState s entry 2 else s)

/-- CIRCUIT_CLOSED (R25, R26). -/
def execCircuitClosed (entry : Nat) (s : State) : Host.Outcome State Fault Refusal :=
  if 256 ≤ entry then .fault .noSuchUnit else .next (if connState s entry = 3 then connSetState s entry 0 else s)

/-- CIRCUIT_OPEN_FAIL (R421, R422). -/
def execCircuitOpenFail (entry : Nat) (s : State) : Host.Outcome State Fault Refusal :=
  if 256 ≤ entry then .fault .noSuchUnit
  else if connState s entry = 1 then
    .next (ctlSetF (ctlSetB (connSetState s entry 0) offRHSTAT 3 true) offRHSTAT 8 8 entry)
  else .next s

/-- The carpets that wait for an L1 write-back of a core (R207, R236, R242, R246, R260). -/
def wbWaiters (s : State) (core id : Nat) : List Nat :=
  let after (b : Option Nat) : Bool := match b with | some b => decide (id < b) | none => false
  let fence (f : Fibre) : Bool := match f.wait with | .fence _ b _ => after b | _ => false
  let fs := (s.fibres.filter (fun f => f.core == core && (fence f || after f.claim))).map (·.carpet)
  let hs := (s.held.filter (fun h => h.core == core && after h.barrier)).filterMap (fun h => (getCush s h.cush).map (·.carpet))
  let es := (s.engines.filter (fun o => o.core == core && o.phase == .fork && decide (id < o.barrier))).map (·.carpet)
  let ms := (s.cushions.filter (fun c => c.core == core && c.mq.any (fun o => after o.barrier))).map (·.carpet)
  let ks := (s.carpets.filter (fun k => after k.barrier)).map (·.id)
  (fs ++ hs ++ es ++ ms ++ ks).dedup

/-- A request in flight between two dies: not one that stands in its core, refused or behind a ticket, nor one that its home has accepted (R347,
R421). -/
def reqInFlight (s : State) (a b : Nat) (r : Req) : Bool :=
  srcDie r.src == a && r.die == b && !r.taken && r.refused == 0 && !ticketHeld s r

/-- Dies a and b are disconnected: requests and replies on their way from a to b are dropped, their carpets touched, and
exchanges become dirty again (R421). With an L1 write-back, which belongs to no carpet, the carpets that wait for it are touched (DESIGN CHOICE,
log entry 40). -/
def disconnect (entry : Nat) (s : State) (p : Nat × Nat) : State :=
  let a := p.1
  let b := p.2
  let ends (o : Option (Nat × Nat)) : Bool := match o with | some p => dieOf p.1 == b | none => false
  let lostReply (r : Reply) : Bool := r.die == a && ends (replyOwner s r.what)
  let lostAck (k : Ack) : Bool := k.die == a && (match k.tgt with | .writeBack c => dieOf c == b | t => ends (ackOwner s t))
  let reqs := s.reqs.filter (reqInFlight s a b)
  let acks := s.acks.filter lostAck
  let wbs := s.wbs.filter (fun w => reqs.any (fun r => r.id == w.2) || acks.any (fun k => k.id == w.2))
  let cs := (reqs.map (·.carpet)).filter (fun c => c != 0) ++
    ((s.replies.filter lostReply).filterMap (fun r => replyOwner s r.what)).map (·.2) ++
    (acks.filterMap (fun k => ackOwner s k.tgt)).map (·.2) ++ wbs.flatMap (fun w => wbWaiters s w.1 w.2)
  let xs := s.exchanges.filter (fun x => x.pkg.isNone && ((x.die == a && x.dst == b && !x.absorbed) || (x.dst == a && x.die == b && x.absorbed)))
  let t := { s with
    reqs := s.reqs.filter (fun r => !reqInFlight s a b r)
    replies := s.replies.filter (fun r => !lostReply r)
    acks := s.acks.filter (fun k => !lostAck k)
    wbs := s.wbs.filter (fun w => !wbs.contains w) }
  let t := ctlSetB (xs.foldl exchangeLost t) offRHSTAT 2 true
  deviceFault t 0x343 none 0 (ofN64 (a + b * 16 + entry * 256)) cs

/-- The pairs of dies that could reach each other before and cannot now. -/
def cutPairs (s t : State) : List (Nat × Nat) :=
  ((List.range 8).flatMap (fun x => (List.range 8).map (fun y => (x, y)))).filter (fun p => diesConnected s p.1 p.2 && !diesConnected t p.1 p.2)

/-- RHIZOID_CIRCUIT_LOST (R420, R421): the entry closes; its traffic goes over another circuit, or a relay; of every pair of dies that is left
without either, it is dropped. -/
def execRhizoidCircuitLost (entry : Nat) (s : State) : Host.Outcome State Fault Refusal :=
  if 256 ≤ entry then .fault .noSuchUnit
  else if connState s entry < 2 then .next s
  else
    let a := connSDie s entry
    let b := connDDie s entry
    let t := ctlSetB (connSetState s entry 0) (offCONN entry) 0 false
    let t := ctlSetF (ctlSetB t offRHSTAT 1 true) offRHSTAT 8 8 entry
    let u := if circuitOpen t a b then deviceFault t 0x342 none 0 (ofN64 entry) []
      else match relayDie t a b with
        | some c => deviceFault t 0x342 none 0 (ofN64 (entry + c * 256 + 2048)) []
        | none => t
    .next ((cutPairs s t).foldl (disconnect entry) u)

/-! ## Link ports (R423) -/

/-- A message that is lost with the port in whose buffers it stands: requests, responses and management flits. Crust exchange is not dropped; a
request of this package that is answered stands there no more (R15, R423). Of an interrupt message in those buffers R423 says nothing: it may be lost
as the others are (DESIGN CHOICE, log entry 22). -/
def losable (s : State) (m : LinkMsg) : Bool :=
  match m with
  | .request _ tag _ _ _ => s.remote.any (fun r => r.1 == tag)
  | .bar2 _ tag _ _ _ _ => s.bar2.any (fun g => g.1 == tag)
  | .bar4 _ tag _ _ _ => s.bar4.any (fun g => g.1 == tag)
  | .crust .. | .crustAck _ | .syncAck .. => false
  | _ => true

/-- A forwarded host access that is lost with the port it left by: BAR 4 as R423 says; one through BAR 2, of which the spec says nothing, ends
without data (DESIGN CHOICE, log entry 32). -/
def forwardLost (s : State) (m : LinkMsg) : State :=
  match m with
  | .bar4 _ tag _ _ _ =>
    match s.bar4.find? (fun g => g.1 == tag) with
    | some (_, bytes, write) =>
      let t := deviceRec { s with bar4 := s.bar4.filter (fun g => g.1 != tag) } 0x345 none 0 3
      if write then t else { t with hostData := List.replicate bytes 255 }
    | none => s
  | .bar2 _ tag _ _ _ _ =>
    match s.bar2.find? (fun g => g.1 == tag) with
    | some (_, _, _, write) =>
      let t := { s with bar2 := s.bar2.filter (fun g => g.1 != tag) }
      if write then t else { t with hostData := [] }
    | none => s
  | _ => s

/-- A port is lost: which of the messages that left by it stand in its buffers is a free value (R423). -/
def portLost (s : State) (port : Nat) : State :=
  let ms := (List.range s.linkOut.length).zip s.linkOut
  let pick := Config.freeValue s.oracle
  let drops := ms.filter (fun m => m.2.1 == port && losable s m.2.2 && pick.getLsbD (m.1 % 64))
  let gone (r : Nat × Req) : Bool := drops.any (fun m => match m.2.2 with | .request _ tag _ _ _ => tag == r.1 | _ => false)
  let xs := s.exchanges.filter (fun x => match x.pkg with | some p => routePort s noCore p == some port | none => false)
  let t := ctlSetB (ctlSetB { s with oracle := s.oracle + 1 } (offLKSTAT port) 0 false) (offLKSTAT port) 1 true
  let t := { t with
    remote := t.remote.filter (fun r => !gone r)
    linkOut := (ms.filter (fun m => !drops.any (fun d => d.1 == m.1))).map (·.2)
    training := t.training.filter (fun p => p != port) }
  let t := xs.foldl exchangeLost t
  let cs := ((s.remote.filter gone).map (fun r => r.2.carpet)).filter (fun c => c != 0)
  let t := deviceFault t 0x344 none 0 (ofN64 (port + min drops.length 0xFFFF * 2 ^ 16)) cs
  drops.foldl (fun s m => forwardLost s m.2.2) t

/-- LINK_PORT_LOST (R423). -/
def execLinkPortLost (port : Nat) (s : State) : Host.Outcome State Fault Refusal :=
  if 16 ≤ port then .fault .noSuchUnit else .next (if portUp s port then portLost s port else s)

/-- LINK_RETRAIN: RETRAIN starts training (R423). -/
def execLinkRetrain (w : CtlWrite) (s : State) : Host.Outcome State Fault Refusal :=
  match writeAt w with
  | some (.lkstat p, _, lo, n) =>
    if coversField 3 1 lo n && getB (ctlValue w) 3 then
      let t := storeFields s w
      .next { t with training := addNew p t.training }
    else .next s
  | _ => .next s

/-- LINK_TRAINING_DONE: UP sets, and held interrupt messages have a route again; or the port is lost (R21, R423). -/
def execLinkTrainingDone (port : Nat) (ok : Bool) (s : State) : Host.Outcome State Fault Refusal :=
  if 16 ≤ port then .fault .noSuchUnit
  else if !s.training.contains port then .next s
  else
    let t := { s with training := s.training.filter (fun p => p != port), linkFails := s.linkFails.filter (fun p => p.1 != port) }
    if ok then .next (irqResend (ctlSetB t (offLKSTAT port) 0 true)) else .next (portLost t port)

/-! ## Watchdogs (R425, R427) -/

/-- A time limit in units of 4,096 cycles has passed since a request was sent, and the watchdogs are not frozen. -/
def timedOut (s : State) (sent units : Nat) : Bool := s.haltSince.isNone && decide (sent + units * 4096 ≤ s.clock)

/-- A request of a die has had no reply in time: the record, and the carpets touched: those on the die, whose state is unreliable, and the
requester's (R375, R425). `t`: the state without it. -/
def dieLate (s t : State) (die sent : Nat) (cs : List Nat) : State :=
  if die < 8 ∧ timedOut s sent (ctlF s offWDCFG 0 16) = true then deviceFault t 0x346 none 0 (ofN64 die) (carpetsOn s die ++ cs) else s

/-- DIE_TIMEOUT: the k-th request of a home without a reply, be it on its way there or waiting for a circuit, or accepted, with its reply, its
acknowledgement, its release or the absorption of an LSYNC still to come (R425). -/
def execDieTimeout (k : Nat) (s : State) : Host.Outcome State Fault Refusal :=
  let i := k - s.reqs.length
  let j := i - s.replies.length
  let l := j - s.acks.length
  let m := l - s.joins.length
  let owner (o : Option (Nat × Nat)) : List Nat := (o.map (·.2)).toList
  if k < s.reqs.length then
    match s.reqs[k]? with
    | some r =>
      .next (dieLate s { s with reqs := s.reqs.filter (fun q => q.id != r.id), wbs := s.wbs.filter (fun w => w.2 != r.id) } r.die r.sent
        (if r.carpet = 0 then wbWaiters s (r.src % 384) r.id else [r.carpet]))
    | none => .next s
  else if i < s.replies.length then
    match s.replies[i]? with
    | some r => .next (dieLate s { s with replies := s.replies.filter (fun q => q.id != r.id) } r.die r.sent (owner (replyOwner s r.what)))
    | none => .next s
  else if j < s.acks.length then
    match s.acks[j]? with
    | some a =>
      .next (dieLate s { s with acks := s.acks.filter (fun q => q.id != a.id), wbs := s.wbs.filter (fun w => w.2 != a.id) } a.die a.sent
        (match a.tgt with | .writeBack c => wbWaiters s c a.id | t => owner (ackOwner s t)))
    | none => .next s
  else if l < s.joins.length then
    match s.joins[l]? with
    | some w =>
      .next (dieLate s { s with joins := s.joins.erase w } w.die w.sent (match w.tgt with | .load op => owner (loadOwner s op) | .link _ _ => []))
    | none => .next s
  else if m < s.ldges.length then
    match s.ldges[m]? with
    | some w => .next (dieLate s { s with ldges := s.ldges.erase w } w.die w.sent [w.carpet])
    | none => .next s
  else
    match (s.syncs.flatMap (fun y => y.asked.map (fun a => (y, a))))[m - s.ldges.length]? with
    | some (y, a) =>
      let ys := updIf (fun (z : Sync) => z.id == y.id) (fun z => { z with asked := z.asked.filter (fun b => b.1 != a.1) }) s.syncs
      .next (dieLate s { s with syncs := ys } a.1 a.2 (owner (fibreOwner s y.fid)))
    | none => .next s

/-- LINK_TIMEOUT: the k-th request to another package has had no reply (R425). -/
def execLinkTimeout (k : Nat) (s : State) : Host.Outcome State Fault Refusal :=
  match s.remote[k]? with
  | none => .next s
  | some (tag, r) =>
    if timedOut s r.sent (ctlF s offWDCFG 16 16) then
      let t := { s with remote := s.remote.filter (fun q => q.1 != tag) }
      .next (fatalReq t r 0x307 (ofN64 (r.die - 8)) false)
    else .next s

end Sys2Proof.Machine
end

