-- ==== Sys2Proof/Machine/Device.lean ====
section
/-! DEFINITION. Reset of a die and of the package (R16, R24, R375, R376, R428), debug (R168, R426, R427), soft errors (R418, R419),
the power manager (R417), and the PCIe link of the bridge (R424). -/

namespace Sys2Proof.Machine

/-! ## Die reset (R376, R428) -/

/-- The carpets that a die reset ends: those with a patch on the die, and those with a fibre on one of its cores. -/
def resetTouches (s : State) (die : Nat) : List Nat :=
  (carpetsOn s die ++ (s.fibres.filter (fun f => !f.saved && dieOf f.core == die)).map (·.carpet)).dedup

/-- Frozen cushions of the die go with their entries. -/
def dropFrozen (s : State) (die : Nat) : State :=
  (s.cushions.filter (fun c => c.frozen && dieOf c.core == die)).foldl (fun s c =>
    let s := (List.range 16).foldl (fun s i =>
      let w := ctlW s (offFRZTAB i)
      if getB w 0 && getF w 1 2 == 0 && getF w 4 9 == c.core && getF w 13 4 == c.slot then ctlSetB s (offFRZTAB i) 0 false else s) s
    freeCushion s c.cid) s

/-- What a reset clears of a die's cores, vault die, L2 slices and queues; dirty L2 sectors are lost, HBM stays (R376). A request that the die had
accepted and not yet applied is on its way again. -/
def clearDie (s : State) (die : Nat) : State :=
  let core (c : Nat) : Bool := dieOf c == die
  let vault (a : Nat) : Bool := isVault a && homeDie a == die
  let gone := (s.l2.filter (fun l => (l2Place l).1 == die)).map (·.line)
  { s with
    mem := s.mem.filter (fun c => !vault c.1)
    l2data := s.l2data.filter (fun c => !gone.contains (c.1 / 256))
    l2 := s.l2.filter (fun l => !gone.contains l.line)
    poison := s.poison.filter (fun p => !(vault (64 * p.1) || (p.2 == 2 && homeDie (64 * p.1) == die)))
    l1 := s.l1.filter (fun l => !core l.core)
    meta_ := s.meta_.filter (fun l => !core l.core)
    wbs := s.wbs.filter (fun w => !core w.1)
    reqs := (s.reqs.filter (fun r => !(r.carpet == 0 && r.src < 384 && core r.src))).map
      (fun r => if r.die = die then { r with taken := false } else r)
    coreTlb := s.coreTlb.filter (fun e => !core e.1)
    dieTlb := s.dieTlb.filter (fun e => e.1 != die)
    walks := s.walks.filter (fun w => w.die != die)
    packets := s.packets.filter (fun p => p.q % 8 != die)
    resizes := s.resizes.filter (fun r => !core r.1)
    replicas := s.replicas.filter (fun r => r.die != die)
    dirty := s.dirty.filter (fun d => d.die != die) }

/-- Reset one die: its carpets end, its state goes, its launch queues stop, and what they launched and has not retired makes no completion join
(R428); its Rhizoid entries are those of R24. -/
def resetDie (s : State) (die : Nat) : State :=
  let s := (resetTouches s die).foldl (fun s c => touchCarpet s c none) s
  let s := { s with carpets := updIf (fun k => k.q % 8 == die) (fun (k : Carpet) => { k with noJoin := true }) s.carpets }
  let s := clearDie (dropFrozen s die) die
  let s := (List.range 16).foldl (fun s a => (List.range 16).foldl (fun s q =>
    if q % 8 = die then ctlSetB s (offLQ a q) 0 false else s) s) s
  let s := (List.range 8).foldl (fun s p => ctlSet s (offCONN (8 * die + p)) (connDefault (8 * die + p))) s
  let s := ctlSetB s offRSTCTL (8 + die) true
  if (List.range 8).all (fun d => ctlB s offRSTCTL (8 + d)) then { s with imageReload := List.range 8 } else s

/-- DIE_RESET: DIERST (R375, R376). -/
def execDieReset (w : CtlWrite) (s : State) : Host.Outcome State Fault Refusal :=
  match writeAt w with
  | some (.rstctl, _, 0, _) =>
    .next ((List.range 8).foldl (fun s d => if getB w.value d && !ctlB s offRSTCTL (8 + d) then resetDie s d else s) s)
  | _ => .next s

/-- The regions whose replicas a die must hold. -/
def readyRegions (s : State) : List (Nat × Nat) :=
  (List.range 16).flatMap (fun a => ((List.range 64).filter (fun r => regionReady s a r)).map (fun r => (a, r)))

/-- The die a reset die reloads its replicas from (R376). -/
def reloadSource (s : State) (die : Nat) : Option Nat :=
  let ok (c : Nat) : Bool := c != die && !dieInReset s c && diesConnected s die c
  if ok (die ^^^ 1) then some (die ^^^ 1) else (List.range 8).find? ok

/-- Reload the replicas of a die from a source die, or from the backing images. -/
def reload (s : State) (die : Nat) (src : Option Nat) : State :=
  (readyRegions s).foldl (fun s p =>
    setReplica s die p.1 p.2 (match src with | some c => replicaOf s c p.1 p.2 | none => imageOf s p.1 p.2)) s

/-- DIE_RESET_DONE: INRST clears and the replicas are reloaded once their source is available: a die of the package, or, after all dies were in
reset at once, the backing images; or the reset fails (R376, R428). -/
def execDieResetDone (die : Nat) (ok : Bool) (s : State) : Host.Outcome State Fault Refusal :=
  if 8 ≤ die then .fault .noSuchUnit
  else if !ctlB s offRSTCTL (8 + die) then .next s
  else
    let t : State := { s with imageReload := s.imageReload.filter (fun d => d != die) }
    if !ok then
      .next (deviceFault (ctlSetB (ctlSetB t offRSTCTL (8 + die) false) offDEVSTAT die true) 0x347 none 0 (ofN64 die) [])
    else
      let up (t : State) : State := ctlSetB (ctlSetB t offRSTCTL (8 + die) false) offDEVSTAT die false
      if s.imageReload.contains die then .next (up (reload t die none))
      else match reloadSource s die with
        | some c => .next (up (reload t die (some c)))
        | none => .next s

/-- PACKAGE_RESET: PKGRST acts as reset does (R376). The agenda and the model's own counters go on; bytes of HBM are as if nothing
had written them. -/
def execPackageReset (w : CtlWrite) (s : State) : Host.Outcome State Fault Refusal :=
  match writeAt w with
  | some (.rstctl, _, 0, _) =>
    .next (if getB w.value 16 then { State.reset with nextId := s.nextId, oracle := s.oracle, agenda := s.agenda } else s)
  | _ => .next s

/-- RESET_RELEASE: firmware has set PKGID and LKBRIDGE (R16, R18); the default circuits then read open (R24). -/
def execResetRelease (pkgid : BitVec 12) (lkbridge : BitVec 5) (s : State) : Host.Outcome State Fault Refusal :=
  .next (if s.running then s
    else { ctlSet (ctlSet s offPKGID (pkgid.setWidth 64)) offLKBRIDGE (lkbridge.setWidth 64) with running := true })

/-! ## Debug (R168, R426, R427) -/

/-- Release every fibre of a context that is parked at BRK. -/
def brkFree (s : State) (a : Nat) : State :=
  wakeAll s ((s.fibres.filter (fun f => f.wait == .brk && asidOf s f.carpet == a)).map (·.fid))

/-- When the halt since t ends, the time that a request has waited by the watchdogs is what it had waited by t (R427). -/
def laterSent (s : State) (t sent : Nat) : Nat := if sent < t then sent + (s.clock - t) else s.clock

/-- The watchdogs stand still while a HALT bit is set. -/
def haltClock (s : State) : State :=
  let any := ctlF s offDBGCTL 0 8 ≠ 0
  match s.haltSince with
  | none => if any then { s with haltSince := some s.clock } else s
  | some t =>
    if any then s
    else
      let req (r : Req) : Req := { r with sent := laterSent s t r.sent }
      { s with
        haltSince := none
        reqs := s.reqs.map req
        remote := s.remote.map (fun p => (p.1, req p.2))
        replies := s.replies.map (fun r => { r with sent := laterSent s t r.sent })
        acks := s.acks.map (fun a => { a with sent := laterSent s t a.sent })
        joins := s.joins.map (fun j => { j with sent := laterSent s t j.sent })
        syncs := s.syncs.map (fun y => { y with asked := y.asked.map (fun a => (a.1, laterSent s t a.2)) })
        ldges := s.ldges.map (fun l => { l with sent := laterSent s t l.sent }) }

/-- A write of DBGCTL (R426): a cleared HALT bit clears HALTED, a cleared ATTACH bit and RELBRK release BRK-parked fibres. -/
def dbgWrite (s : State) (w : CtlWrite) (lo n : Nat) : State :=
  let t := storeFields s w
  let t := (List.range 8).foldl (fun t d => if ctlB t offDBGCTL d then t else ctlSetB t offDBGCTL (8 + d) false) t
  let t := haltClock t
  let t := (List.range 16).foldl (fun t a => if ctlB s offDBGCTL (16 + a) && !ctlB t offDBGCTL (16 + a) then brkFree t a else t) t
  if coversField 36 1 lo n && getB (ctlValue w) 36 then brkFree t (ctlF t offDBGCTL 32 4) else t

/-- DEBUG_HALT_WRITE (R427). -/
def execDebugHaltWrite (w : CtlWrite) (s : State) : Host.Outcome State Fault Refusal :=
  match writeAt w with
  | some (.dbgctl, _, lo, n) => .next (if coversField 0 8 lo n then dbgWrite s w lo n else s)
  | _ => .next s

/-- DEBUG_ATTACH_WRITE (R168, R426). -/
def execDebugAttachWrite (w : CtlWrite) (s : State) : Host.Outcome State Fault Refusal :=
  match writeAt w with
  | some (.dbgctl, _, lo, n) => .next (if coversField 16 16 lo n then dbgWrite s w lo n else s)
  | _ => .next s

/-- BRK_RELEASE (R426). -/
def execBrkRelease (w : CtlWrite) (s : State) : Host.Outcome State Fault Refusal :=
  match writeAt w with
  | some (.dbgctl, _, lo, n) => .next (if coversField 32 4 lo n then dbgWrite s w lo n else s)
  | _ => .next s

/-- DIE_HALTED: the engines of a halting die stand at their stop points (R427). -/
def execDieHalted (die : Nat) (s : State) : Host.Outcome State Fault Refusal :=
  if 8 ≤ die then .fault .noSuchUnit
  else if dieHalt s die && s.engines.all (fun o => o.die != die || engSettled o) &&
      s.cushions.all (fun c => dieOf c.core != die || c.saved || matSettled s c) then
    .next (ctlSetB s offDBGCTL (8 + die) true)
  else .next s

/-! ## Soft errors (R418, R419) -/

/-- Count an uncorrectable error (R419). -/
def countUE (s : State) (st die pa : Nat) : State :=
  let o := offECCSTAT die
  ctlSetF (ctlSetF (ctlSetF s o 32 16 (min (ctlF s o 32 16 + 1) 0xFFFF)) o 48 4 st) (o + 8) 0 39 pa

/-- An uncorrectable error in a sole copy of the unified store poisons the word (R418): a register of a resident fibre, a word of scratch, a word of
a channel's queue, whose entries the model places in their order from the first slot on (log entry 40). `u`: the unified-store address, or 2^41
plus the physical address of a dirty word of the L1. A word that nobody holds has no reader. -/
def poisonStore (s : State) (core u : Nat) : State :=
  if 2 ^ 41 ≤ u then
    let a := u - 2 ^ 41
    { s with l1 := updIf (fun l => l.core == core && l.line == a / 64) (fun (l : Line) => { l with bad := l.bad ||| wordBit (a / 4 % 16) }) s.l1 }
  else
    let bank := u / 0x8000
    let off := u % 0x8000
    let inWindow (f : Fibre) : Bool := f.core == core && f.status == .resident && f.lane == bank && decide (f.winOff ≤ off) &&
      decide (off < f.winOff + 64 * f.winSize)
    let hit (c : Cushion) : Cushion :=
      match getCarpet s c.carpet with
      | none => c
      | some k =>
        let o := (off - c.stripe) / 4 * 128 + bank * 4
        if off < c.stripe ∨ footprint k.ker ≤ o then c
        else if o < k.ker.scratch then { c with bad := addNew (o / 4) c.bad }
        else { c with chans := ((List.range 16).zip c.chans).map (fun p =>
          let base := k.ker.scratch + sumBy (fun h => if h < p.1 ∧ k.ker.chMask.getLsbD h then 132 * chanDepth k.ker h else 0) (List.range 16)
          let n := 128 * chanDepth k.ker p.1
          let at_ := if o < base + n then (o - base) / 128 else (o - base - n) / 4
          if k.ker.chMask.getLsbD p.1 && decide (base ≤ o) && decide (o < base + 132 * chanDepth k.ker p.1) then
            ((List.range p.2.length).zip p.2).map (fun e => if e.1 = at_ then { e.2 with bad := true } else e.2)
          else p.2) }
    { s with
      fibres := updIf inWindow (fun (f : Fibre) => { f with bad := addNew ((off - f.winOff) / 4) f.bad }) s.fibres
      cushions := updIf (fun c => c.core == core && !c.saved) hit s.cushions }

/-- Carpets that an uncorrectable error touches at once: of the structures whose words belong to one owner (R418). -/
def errorTouches (s : State) (st unit : Nat) : List Nat :=
  match st with
  | 5 => ((s.cushions.filter (fun c => c.core == unit && !c.saved && (getCarpet s c.carpet).any (fun k => decide (0 < k.ker.cvs)))).map (·.carpet))
  | 6 => ((s.cushions.filter (fun c => c.core == unit / 16 && c.slot == unit % 16 && !c.saved)).map (·.carpet))
  | 7 =>
    match (getSlot s (unit / 4) (unit % 4)).bind (·.frond) with
    | some fr => (((getFrond s fr).bind (fun f => getCush s f.cush)).map (·.carpet)).toList
    | none => []
  | 8 => ((getFibre s unit).map (·.carpet)).toList
  | _ => []

/-- The spores of which a 64 B unit may hold bytes: those in the record area, or in the spill area, that it lies in (R41, R46). -/
def unitSpores (s : State) (u : Nat) : List Fibre :=
  let a := 64 * u
  if isVault a then
    s.fibres.filter (fun f => decide (2 ^ 22 - recBytes s (vaultCore a) ≤ vaultOff a) && f.core == vaultCore a && f.status != .resident && !f.saved &&
      !s.spilled.contains f.fid)
  else
    let pa := stripedPA a
    s.fibres.filter (fun f =>
      let b := (ctlW s (offCTXCB (asidOf s f.carpet) + 8)).toNat
      decide (b ≤ pa) && decide (pa < b + spillSize s (asidOf s f.carpet)) && (f.saved || (f.status != .resident && s.spilled.contains f.fid)))

/-- A unit is poisoned, and with it the spore that it holds bytes of. Which spore that is, if any, is a free value, since the spec does not place
spores within an area (DESIGN CHOICE, log entries 17 and 40). -/
def poisonUnit (s : State) (u st : Nat) : State :=
  let s := { s with poison := addNew (u, st) s.poison }
  match unitSpores s u with
  | [] => s
  | fs =>
    let t := { s with oracle := s.oracle + 1 }
    match fs[(Config.freeValue s.oracle).toNat % (fs.length + 1)]? with
    | some f => updFibre t f.fid (fun f => { f with poisoned := some (u, st) })
    | none => t

/-- Invalidate or poison the unit (R418). -/
def errorUnit (s : State) (st die unit pa : Nat) (sole : Bool) : State :=
  match st with
  | 0 =>
    if sole then poisonStore s unit pa
    else { s with l1 := (updIf (fun l => l.core == unit && l.line == pa / 64) (fun (l : Line) =>
      { l with valid := if l.dirty.getLsbD (pa / 4 % 16) then l.valid else l.valid &&& ~~~(wordBit (pa / 4 % 16)) }) s.l1).filter (fun l => l.valid != 0) }
  | 1 | 4 => poisonUnit s (pa / 64) st
  | 2 =>
    if sole then poisonUnit s (pa / 64) st
    else { s with l2 := updIf (fun l => l.line == pa / 256) (fun (l : L2Line) =>
      { l with valid := l.valid &&& (l.dirty ||| ~~~(BitVec.ofNat 4 (2 ^ (pa / 64 % 4)))) }) s.l2 }
  | 3 => { s with meta_ := s.meta_.filter (fun l => !(l.core == unit && l.line == pa / 64)) }
  | 9 =>
    if unit < 384 then { s with coreTlb := s.coreTlb.filter (fun e => !(e.1 == unit && e.2.base == pa)) }
    else { s with dieTlb := s.dieTlb.filter (fun e => !(e.1 == die && e.2.base == pa)) }
  | _ => s

/-- UNCORRECTABLE_ERROR (R418, R419). `unit`: the core for structures 0, 3, 5 and 9, where 384 stands for the cache of the die; 16 core + cushion
slot for 6; 4 core + issue slot for 7; the fibre for 8. `pa`: the byte's address as Machine/Phys numbers it for 1, 2, 3 and 4 and a clean L1 word;
the place that `poisonStore` says of a sole copy there; the page for 9. -/
def execUncorrectableError (structure_ die unit pa : Nat) (sole : Bool) (s : State) : Host.Outcome State Fault Refusal :=
  if 10 ≤ structure_ ∨ 8 ≤ die then .fault .noSuchUnit
  else
    let phys := decide (structure_ = 1) || decide (structure_ = 2) || decide (structure_ = 4)
    let core : Option Nat := match structure_ with
      | 0 | 3 | 5 => some unit
      | 8 => (getFibre s unit).map (·.core)
      | 9 => if unit < 384 then some unit else none
      | 6 => some (unit / 16)
      | 7 => some (unit / 4)
      | _ => none
    let poisoned := decide (structure_ = 1) || decide (structure_ = 4) || (sole && (decide (structure_ = 0) || decide (structure_ = 2)))
    let shown : DWord := if phys then shownPA pa else 0
    let cs := errorTouches s structure_ unit
    let t := errorUnit (countUE s structure_ die shown.toNat) structure_ die unit pa sole
    .next (deviceFault t 0x340 core shown (ofN64 (structure_ + die * 16 + poisoned.toNat * 128)) cs)

/-- SCRUB: a unit is read and, if need be, corrected in place (R419). -/
def execScrub (structure_ die : Nat) (corrected : Bool) (s : State) : Host.Outcome State Fault Refusal :=
  if 10 ≤ structure_ ∨ 8 ≤ die then .fault .noSuchUnit
  else .next (if corrected then ctlSetF s (offECCSTAT die) 0 32 (min (ctlF s (offECCSTAT die) 0 32 + 1) 0xFFFFFFFF) else s)

/-! ## Power manager (R14, R417) -/

/-- POWER_CAP_EVENT: the manager lowers SIZE or sets the gate; CAPPED says that it has reduced one of them, and SHRINK that SIZE is now below
INUSE (R417). -/
def execPowerCapEvent (size : BitVec 16) (gate : Nat) (s : State) : Host.Outcome State Fault Refusal :=
  if gate = 0 ∨ 4 < gate then .fault .noSuchUnit
  else
    let old := ctlF s offPWPOOL 0 16
    let n := min old (max 48 (min 768 size.toNat))
    let capped := decide (n < old) || decide (gate < ctlF s offPWEVT 8 3)
    let s : State := { s with cyc := { cycNow s with pool := some (poolSize s) } }
    let t := ctlSetF (ctlSetF s offPWPOOL 0 16 n) offPWEVT 8 3 gate
    let t := ctlSetB t offPWEVT 2 (decide (gate < 4))
    let t := if capped then ctlSetB t offPWEVT 1 true else t
    .next (if n < old ∧ n < ctlF t offPWPOOL 16 16 then ctlSetB t offPWEVT 0 true else t)

/-! ## The PCIe link (R424) -/

/-- HOST_LINK_DOWN. -/
def execHostLinkDown (s : State) : Host.Outcome State Fault Refusal :=
  .next (if bridgeMode s && s.hostUp then deviceFault { s with hostUp := false } 0x345 none 0 1 [] else s)

/-- HOST_LINK_UP: interrupts owed are sent. -/
def execHostLinkUp (s : State) : Host.Outcome State Fault Refusal :=
  .next (if s.hostUp then s else { s with hostUp := true, msix := s.msix ++ s.irqOwed, irqOwed := [] })

end Sys2Proof.Machine
end

