-- ==== Sys2Proof/Machine/HostPort.lean ====
section
/-! DEFINITION. What reaches the package from outside: control-space accesses of any register (R19, R443), the host's BAR 2 and BAR 4
(R20, R22), and messages on link ports (R15, R21, R214, R222, R259, R374, R418). -/

namespace Sys2Proof.Machine

/-! ## A control-space write, whatever the register -/

/-- The state a step leaves. -/
def landed (o : Host.Outcome State Fault Refusal) (s : State) : State := match o with | .next t => t | _ => s

/-- A write of any register, with the behaviour the register has. -/
def ctlWrite (s : State) (w : CtlWrite) : State :=
  match writeAt w with
  | none => s
  | some (r, o, lo, n) =>
    let plain := plainW s w r o lo n
    match r with
    | .pwpool => landed (execPwpoolWrite w s) s
    | .brwin => storeFields s w
    | .brgsel => landed (execBrgselWrite w s) s
    | .conn _ => landed (execConnEntryWrite w s) s
    | .uscfg _ => landed (execUscfgWrite w s) s
    | .crpart => landed (execCrpartWrite w s) s
    | .crtab .. => landed (execCrustRegionWrite w s) s
    | .lq .. => landed (execLaunchQueueWrite w s) s
    | .lkstat _ => if coversField 3 1 lo n && getB (ctlValue w) 3 then landed (execLinkRetrain w s) s else plain
    | .xlinvc => if lo = 0 ∧ getB w.value 8 = true then landed (execXlinvGo w s) s else plain
    | .ctxcb _ 0 =>
      if lo ≠ 0 then s
      else match getF w.value 0 2 with
        | 1 => landed (execCtxSuspend w s) s
        | 2 => landed (execCtxResume w s) s
        | _ => plain
    | .fq _ 0 => landed (execFaultQueueControlWrite w s) s
    | .fq _ 6 =>
      match answerWrite s w with
      | some (_, _, 1) => landed (execFaultAnswerSyscall w s) s
      | some (_, _, 2) => landed (execFaultRetry w s) s
      | some (_, _, 3) => landed (execFaultKill w s) s
      | _ => plain
    | .frztab .. => landed (execFrozenMasterRelease w s) s
    | .rstctl => if lo = 0 ∧ getB w.value 16 = true then landed (execPackageReset w s) s else landed (execDieReset w s) s
    | .dbgctl => dbgWrite s w lo n
    | _ => plain

/-! ## BAR 2 (R20, R22) -/

/-- What becomes of a host access: bytes read, done, refused with a reason of 0x0345, poisoned data, or it waits. -/
inductive HostRes where
  | bytes (bs : List Byte)
  | done
  | refused (reason : Nat) (violation : Bool)
  | poisoned
  | waits
  deriving DecidableEq, Repr

/-- A host write into an active crust region: whole cells of one page part, joined at the serving die (R22). -/
def hostJoin (s : State) (die asid : Nat) (va : DWord) (data : List Byte) : State × HostRes :=
  let bad : State × HostRes := (s, .refused 5 true)
  match cellOf s asid va with
  | none => (s, .refused 4 false)
  | some (_, _, ct) =>
    let n := cellSize ct
    if ct = 10 then
      if data.length = 4 ∧ va.toNat % 32 = 0 then
        match cellOf s asid va with
        | some (r, off, ct) => (crustJoin s die asid r off ct (ofBytes data), .done)
        | none => bad
      else bad
    else if va.toNat % n ≠ 0 ∨ data.length % n ≠ 0 ∨ data.isEmpty then bad
    else
      let cells := (List.range (data.length / n)).map (fun i => (va + ofN64 (n * i), ofBytes ((data.drop (n * i)).take n)))
      if cells.any (fun c => (cellOf s asid c.1).isNone) then (s, .refused 4 false)
      else
        (cells.foldl (fun s c => match cellOf s asid c.1 with
          | some (r, off, ct) => crustJoin s die asid r off ct c.2
          | none => s) s, .done)

/-- Serve physical bytes at their homes, in place of L1s (R20). -/
def hostMem (s : State) (die : Nat) (as : List Nat) (write : Option (List Byte)) : State × HostRes :=
  if as.any (fun a => dieInReset s (homeDie a) || dieHalt s (homeDie a)) then (s, .waits)
  else match write with
    | some data => (homeWrite s (48 * die) (as.zip data), .done)
    | none =>
      match poisonedAt s as with
      | some p => (poisonRead s p 2 none none, .poisoned)
      | none => (l2TouchAll die 0 false s as, .bytes (as.map (physRead s)))

/-- A host access in virtual mode, served at a die (R20). -/
def hostVirtual (s : State) (die asid : Nat) (va : DWord) (n : Nat) (write : Option (List Byte)) : State × HostRes :=
  let w := write.isSome
  match xlateWalk s die asid { kind := .load, va := va, n := n, r := !w, w := w, x := false, crust := none } with
  | (s, .busy a) => (queueWalk s die asid a [] none, .waits)
  | (s, .poisoned p) => (poisonRead s p 2 none none, .poisoned)
  | (s, .pageFault _ _) => (s, .refused 4 false)
  | (s, .fail e) => (s, .refused 4 (e.syn == 0x201))
  | (s, .ok xs) =>
    if xs.any (fun x => leafRmt x.2.2.leaf) then (s, .refused 4 false)
    else if xs.any (fun x => leafCR x.2.2.leaf) then
      if xs.any (fun x => !leafCR x.2.2.leaf) then (s, if w then .refused 5 true else .refused 4 false)
      else if dieInReset s die || dieHalt s die then (s, .waits)
      else match write with
        | some data => hostJoin s die asid va data
        | none =>
          let vas := (List.range n).map (fun i => va + ofN64 i)
          if vas.any (fun a => (cellOf s asid a).isNone) then (s, .refused 4 false)
          else (s, .bytes (vas.map (fun a => match cellOf s asid a with
            | some (r, off, _) => memRead (replicaOf s die asid r) off
            | none => 0)))
    else hostMem s die ((placesOf s xs).map memAddr) write

/-- A host access at the member that serves it. -/
def hostServe (s : State) (die asid : Nat) (phys : Bool) (a : DWord) (n : Nat) (write : Option (List Byte)) : State × HostRes :=
  if phys then
    if getF a 39 18 ≠ 0 ∨ 2 ^ 39 < getF a 0 39 + n then (s, .refused 4 false)
    else hostMem s die ((List.range n).map (fun i => getF a 0 39 + i)) write
  else hostVirtual s die asid ((a.setWidth 57).signExtend 64) n write

def bridgeDie (s : State) : Nat := ((bridgePort s).getD 0) / 2

/-- Post 0x0345 for a BAR 2 access of a context; a protection violation freezes BAR 2 ingress, if FRZTAB has a free entry (R374). -/
def barRefused (s : State) (a : DWord) (asid reason : Nat) (violation : Bool) : State :=
  let rec3 := mkRec s 3 0x345 0 0 (recW2 0 0x1FF 0 0x3FF 0) a (ofN64 reason)
  if !violation then queueRec s 16 rec3 .nothing
  else match freezeEntry s 1 0 0 ((bridgePort s).getD 0) asid 0 with
    | (s, some i) => queueRec { s with barFrozen := true } 16 { rec3 with frozen := true } (.freeze [i])
    | (s, none) => queueRec s 16 rec3 .nothing

/-- The end of a host access at the bridge. A read that gives no data leaves none; a write leaves what the last read returned. -/
def hostEnd (s : State) (a : DWord) (asid : Nat) (write : Bool) (r : HostRes) : State :=
  let bare (s : State) : State := if write then s else { s with hostData := [] }
  match r with
  | .bytes bs => { s with hostData := bs }
  | .done | .waits => s
  | .refused reason v => bare (barRefused s a asid reason v)
  | .poisoned => bare s

/-- The address of a BAR 2 offset (R20). -/
def barAddr (s : State) (off : Nat) : DWord := ofN64 (ctlF s offBRWIN 30 27 * 2 ^ 30 + off)

/-- Perform a received access: here, or forward it to its member, and whether it could be taken so far; one that waits keeps its place. A member
to which no route is up is answered as a refused access, reason 4 (DESIGN CHOICE, log entry 32). Once BAR 2 ingress is frozen, writes are
dropped (R374). -/
def barServe (s : State) (q : BarAcc) : State × Bool :=
  let pkg := pkgIdOf s / 16 * 16 + q.member
  if s.barFrozen && q.write.isSome then (s, true)
  else if q.member = memberOf s then
    match hostServe s (bridgeDie s) q.asid q.phys q.addr q.bytes q.write with
    | (t, .waits) => (t, false)
    | (t, r) => (hostEnd t q.addr q.asid q.write.isSome r, true)
  else if (routePort s noCore pkg).isNone then (hostEnd s q.addr q.asid q.write.isSome (.refused 4 false), true)
  else
    let f := fresh s
    let op : LinkOp := match q.write with | some d => .write (cellsAt 0 d) | none => .read q.bytes
    (linkSend { f.1 with bar2 := f.1.bar2 ++ [(f.2, q.addr, q.asid, q.write.isSome)] } pkg (.bar2 (pkgIdOf s) f.2 q.asid q.phys q.addr op), true)

/-- Perform the accesses received through BAR 2 in their order, until one waits, or a forwarded one is unanswered (R20, R242). -/
def barPump (s : State) : State :=
  (s.barWait.foldl (fun (st : State × Bool) q =>
    if st.2 || !st.1.bar2.isEmpty then (st.1, true)
    else match barServe st.1 q with
      | (t, true) => ({ t with barWait := t.barWait.drop 1 }, false)
      | (t, false) => (t, true)) (s, false)).1

/-- Receive an access through BAR 2: it keeps the window as BRWIN places it now (R20). -/
def hostBar2 (s : State) (off n : Nat) (write : Option (List Byte)) : State :=
  let q : BarAcc := { addr := barAddr s off, member := ctlF s offBRWIN 0 4, asid := ctlF s offBRWIN 4 4, phys := ctlB s offBRWIN 8,
                      bytes := n, write := write }
  barPump { s with barWait := s.barWait ++ [q] }

/-- HOST_BAR2_READ (R20, R22). -/
def execHostBar2Read (off n : Nat) (s : State) : Host.Outcome State Fault Refusal :=
  if 2 ^ 34 < off + n then .fault .noSuchUnit
  else .next (if bridgeMode s && s.hostUp && s.running && decide (0 < n) then hostBar2 s off n none else s)

/-- HOST_BAR2_WRITE (R20, R22, R374, R424): a poisoned or malformed write is dropped, with its record. -/
def execHostBar2Write (off : Nat) (data : List Byte) (flaw : HostFlaw) (s : State) : Host.Outcome State Fault Refusal :=
  if 2 ^ 34 < off + data.length then .fault .noSuchUnit
  else if !(bridgeMode s && s.hostUp && s.running) || s.barFrozen then .next s
  else match flaw with
    | .poisoned => .next (deviceFault s 0x345 none 0 0 [])
    | .malformed => .next (deviceFault s 0x345 none 0 2 [])
    | .sound => .next (if data.isEmpty then s else hostBar2 s off data.length (some data))

/-! ## BAR 4 (R19, R423) -/

/-- A control-space access here: a read's value, and the state. -/
def ctlAccess (s : State) (off bytes : Nat) (write : Option DWord) : State × DWord :=
  match write with
  | some v => (ctlWrite s { off := off, bytes := bytes, value := v }, 0)
  | none => ctlRead s off bytes

/-- HOST_BAR4_ACCESS: window m reaches member m's control space; a forwarded access without a route is lost (R19, R423). -/
def execHostBar4Access (off bytes : Nat) (write : Option DWord) (s : State) : Host.Outcome State Fault Refusal :=
  if 2 ^ 22 ≤ off then .fault .noSuchUnit
  else if !(bridgeMode s && s.hostUp && s.running) then .next s
  else
    let m := off / 2 ^ 18
    if m = memberOf s then
      let r := ctlAccess s (off % 2 ^ 18) bytes write
      .next { r.1 with hostData := if write.isSome then r.1.hostData else leBytes bytes r.2.toNat }
    else
      let pkg := pkgIdOf s / 16 * 16 + m
      if (routePort s noCore pkg).isNone then
        let t := deviceFault s 0x345 none 0 3 []
        .next (if write.isSome then t else { t with hostData := List.replicate bytes 255 })
      else
        let f := fresh s
        .next (linkSend { f.1 with bar4 := f.1.bar4 ++ [(f.2, bytes, write.isSome)] } pkg
          (.bar4 (pkgIdOf s) f.2 write (off % 2 ^ 18) bytes))

/-! ## Link ports (R15, R214, R423) -/

/-- The requester that a port stands for in the order of requests at a home (R26, R347). -/
def portSrc (port : Nat) : Nat := 1152 + 48 * (port / 2) + port % 2

/-- The addresses that a remote request names. -/
def remoteAddrs (pa : Nat) (op : LinkOp) : List Nat :=
  match op with
  | .read n | .rmw _ n _ _ => (List.range n).map (pa + ·)
  | .gather pas => pas
  | .write d => d.map (·.1)
  | .joinZero => (List.range 4).map (pa + ·)

/-- The bytes a remote request reaches; none when the target is refused (R202, R374). -/
def remoteBytes (s : State) (kind : Nat) (pas : List Nat) : Option (List Nat) :=
  let as := pas.filterMap (physOf kind)
  let inRecord (a : Nat) : Bool := isVault a && decide (2 ^ 22 - recBytes s (vaultCore a) ≤ vaultOff a)
  if as.length = pas.length ∧ as.all (fun a => !inRecord a) = true then some as else none

/-- A refused target freezes the port's request channel, if FRZTAB has a free entry (R374). The spec names no record that a refused request
posts here: the model posts 0x0204 to the device queue, with the physical address (DESIGN CHOICE, log entry 33). -/
def refuseRequest (s : State) (port pkg tag pa : Nat) : State :=
  let r := mkRec s 3 0x204 0 0 (recW2 0 0x1FF 0 0x3FF 0) (ofN64 pa) 0
  let t := match freezeEntry s 2 0 0 port 0 0 with
    | (s, some i) => queueRec { s with portsFrozen := addNew port s.portsFrozen } 16 { r with frozen := true } (.freeze [i])
    | (s, none) => queueRec s 16 r .nothing
  linkSend t pkg (.refusal tag)

/-- A request of another package becomes a request at its home here. -/
def remoteRequest (s : State) (port pkg tag kind pa : Nat) (op : LinkOp) : State :=
  let pas := remoteAddrs pa op
  match remoteBytes s kind pas with
  | none => refuseRequest s port pkg tag (pas.headD pa)
  | some as =>
    let a := as.headD 0
    let h : HomeOp := match op with
      | .read _ | .gather _ => .read (.link pkg tag) (as.map (fun x => (x, x)))
      | .write d => .write (.link pkg tag) (as.zip (d.map (·.2)))
      | .rmw aop n b cmp => .rmw (.link pkg tag) aop a n b cmp
      | .joinZero => .join (.link pkg tag) a
    pushReq s (mkReq s (portSrc port) (homeDie a) 0 0 0 0 0 h)

/-- The answer to a request of this package (R44, R45, R253); it is no request of a home's tracker (R347). -/
def remoteReply (s : State) (tag : Nat) (data : List Byte) : State :=
  match s.remote.find? (fun r => r.1 == tag) with
  | none => s
  | some (_, r) =>
    let t := { s with remote := s.remote.filter (fun q => q.1 != tag) }
    match r.op with
    | .read tgt bs => addReply t noDie (.bytes tgt ((bs.map (·.2)).zip data))
    | .write tgt _ => addAck t noDie tgt
    | .rmw (.load op) aop _ n b cmp => addReply t noDie (.old op (ofN64 (ofBytes data)) (aopNew aop n (ofN64 (ofBytes data)) b cmp).2)
    | .join (.load op) _ => addReply t noDie (.done op)
    | _ => t

/-- A refused request touches its carpet; the SEQ is of a record elsewhere, a free value here (R418). -/
def remoteRefused (s : State) (tag : Nat) : State :=
  match s.remote.find? (fun r => r.1 == tag) with
  | none => s
  | some (_, r) =>
    let t := { s with remote := s.remote.filter (fun q => q.1 != tag) }
    touchCarpet t r.carpet (some t.nextId)

/-- A block of another package: joined here, and acknowledged; a push first goes on within the package and over LINK entries (R222, R259).
Cells of a region that is not active here at system scope are neither joined nor acknowledged (log entry 31). -/
def remoteCrust (s : State) (pkg die entry id : Nat) (path : List Nat) (b : Blk) (cells : Memory) : State :=
  if !(regionReady s b.asid b.region && regionSys s b.asid b.region) then s
  else
    let t := blockJoin s die b cells
    if entry < 16 then linkSend t pkg (.crustAck id)
    else
      let f := fresh t
      let y : Sync := { id := f.2, fid := 0, asid := b.asid, sc := .system, dies := [], exch := [], linked := false,
                        back := some (pkg, die, id), blk := some b, path := path }
      syncPump (pushBlocks { f.1 with syncs := f.1.syncs ++ [y] } die y)

/-- A host access that the group's bridge forwards to this member (R20): performed, or it waits behind a die that is halted or in reset. -/
def remoteBar2 (s : State) (port pkg tag asid : Nat) (phys : Bool) (a : DWord) (op : LinkOp) : State :=
  let r := match op with
    | .read n => hostServe s (port / 2) asid phys a n none
    | .write d => hostServe s (port / 2) asid phys a d.length (some (d.map (fun (x : Nat × Byte) => x.2)))
    | _ => (s, .done)
  match r with
  | (t, .waits) => { t with linkWait := t.linkWait ++ [(port, .bar2 pkg tag asid phys a op)] }
  | (t, .bytes bs) => linkReply t pkg tag bs
  | (t, .done) => linkReply t pkg tag []
  | (t, .refused reason v) => linkSend t pkg (.bar2Refusal tag (some reason) v)
  | (t, .poisoned) => linkSend t pkg (.bar2Refusal tag none false)

/-- The end of a forwarded BAR 2 access, under the context it was received for; the next is performed. -/
def bar2End (s : State) (tag : Nat) (r : HostRes) : State :=
  match s.bar2.find? (fun p => p.1 == tag) with
  | none => s
  | some (_, a, asid, write) => barPump (hostEnd { s with bar2 := s.bar2.filter (fun p => p.1 != tag) } a asid write r)

/-- The end of a forwarded BAR 4 access: a read leaves its half or its register (R443). -/
def bar4End (s : State) (tag : Nat) (v : DWord) : State :=
  match s.bar4.find? (fun p => p.1 == tag) with
  | none => s
  | some (_, bytes, write) =>
    let t := { s with bar4 := s.bar4.filter (fun p => p.1 != tag) }
    if write then t else { t with hostData := leBytes bytes v.toNat }

/-- A message that cannot be taken yet: cells for the crust controller of a die that is halted or in reset, and a forwarded host access behind
one that waits (R20, R376, R427). -/
def linkWaits (s : State) (m : LinkMsg) : Bool :=
  match m with
  | .crust _ die .. => dieHalt s (die % 8) || dieInReset s (die % 8)
  | .bar2 .. => s.linkWait.any (fun q => match q.2 with | .bar2 .. => true | _ => false)
  | _ => false

/-- A message that passed its check. -/
def linkTake (s : State) (port : Nat) (m : LinkMsg) : State :=
  if linkWaits s m then { s with linkWait := s.linkWait ++ [(port, m)] }
  else match m with
  | .request pkg tag kind pa op => if s.portsFrozen.contains port then s else remoteRequest s port pkg tag kind.toNat pa op
  | .reply tag data =>
    if s.bar2.any (fun p => p.1 == tag) then bar2End s tag (if data.isEmpty then .done else .bytes data) else remoteReply s tag data
  | .refusal tag => remoteRefused s tag
  | .crust pkg die entry id path asid region block cells => remoteCrust s pkg (die % 8) entry id path ⟨asid, region, block⟩ cells
  | .crustAck id => if s.exchanges.any (fun x => x.id == id && x.pkg.isSome) then exchangeOver s id else s
  | .syncAck x _ => exchangeOver s x
  | .irq member v => takeIrq s (member % 16) (v % 17)
  | .bar4 pkg tag write off bytes =>
    let r := ctlAccess s off bytes write
    linkSend r.1 pkg (.bar4Reply tag r.2)
  | .bar4Reply tag v => bar4End s tag v
  | .bar2 pkg tag asid phys a op => remoteBar2 s port pkg tag (asid % 16) phys a op
  | .bar2Refusal tag reason v =>
    bar2End s tag (match reason with | some r => .refused r v | none => .poisoned)

/-- Take the messages that wait, in the order received; those that still cannot be taken wait on. -/
def linkPump (s : State) : State := s.linkWait.foldl (fun s q => linkTake s q.1 q.2) { s with linkWait := [] }

/-- LINK_FLIT_RECEIVE: a flit that fails its check is asked for again and counted; one that passes is taken (R423). -/
def execLinkFlitReceive (port : Nat) (bad : Bool) (m : LinkMsg) (s : State) : Host.Outcome State Fault Refusal :=
  if 16 ≤ port then .fault .noSuchUnit
  else if !portUp s port then .next s
  else
    let n := ((s.linkFails.find? (fun p => p.1 == port)).map (·.2)).getD 0
    let rest := s.linkFails.filter (fun p => p.1 != port)
    if bad then
      let t := ctlSetF s (offLKSTAT port) 16 16 (min (ctlF s (offLKSTAT port) 16 16 + 1) 0xFFFF)
      -- the ninth failure is the eighth failed replay
      .next (if n + 1 < 9 then { t with linkFails := rest ++ [(port, n + 1)] } else portLost { t with linkFails := rest } port)
    else .next (linkTake { s with linkFails := rest } port m)

end Sys2Proof.Machine
end

