-- ==== Sys2Proof/Machine/Dispatch.lean ====
section
/-! DEFINITION. exec: one arm per constructor of Instr, each a call of the meaning. -/

namespace Sys2Proof.Machine

def exec (i : Instr) (s : State) : Host.Outcome State Fault Refusal :=
  match i with
  | .nop h => Sys2Proof.Machine.execNop h s
  | .yield h => Sys2Proof.Machine.execYield h s
  | .brk h code => Sys2Proof.Machine.execBrk h code s
  | .trap h code => Sys2Proof.Machine.execTrap h code s
  | .sysc h code => Sys2Proof.Machine.execSysc h code s
  | .eret h => Sys2Proof.Machine.execEret h s
  | .csrr h d csr => Sys2Proof.Machine.execCsrr h d csr s
  | .csrw h a csr => Sys2Proof.Machine.execCsrw h a csr s
  | .bra h disp => Sys2Proof.Machine.execBra h disp s
  | .call h disp => Sys2Proof.Machine.execCall h disp s
  | .brx h a => Sys2Proof.Machine.execBrx h a s
  | .callx h a => Sys2Proof.Machine.execCallx h a s
  | .ret h => Sys2Proof.Machine.execRet h s
  | .exit h => Sys2Proof.Machine.execExit h s
  | .fork h disp a e => Sys2Proof.Machine.execFork h disp a e s
  | .spawn h disp a e home => Sys2Proof.Machine.execSpawn h disp a e home s
  | .join h a => Sys2Proof.Machine.execJoin h a s
  | .bar h n => Sys2Proof.Machine.execBar h n s
  | .reform h => Sys2Proof.Machine.execReform h s
  | .resize h n => Sys2Proof.Machine.execResize h n s
  | .iadd h m d a b => Sys2Proof.Machine.execIadd h m d a b s
  | .isub h m d a b => Sys2Proof.Machine.execIsub h m d a b s
  | .imul h m d a b => Sys2Proof.Machine.execImul h m d a b s
  | .imulh h m d a b => Sys2Proof.Machine.execImulh h m d a b s
  | .imad h m d a b c => Sys2Proof.Machine.execImad h m d a b c s
  | .imadw h sgn sat d a b c => Sys2Proof.Machine.execImadw h sgn sat d a b c s
  | .idiv h m d a b => Sys2Proof.Machine.execIdiv h m d a b s
  | .irem h m d a b => Sys2Proof.Machine.execIrem h m d a b s
  | .ineg h m d a => Sys2Proof.Machine.execIneg h m d a s
  | .iabs h m d a => Sys2Proof.Machine.execIabs h m d a s
  | .imin h m d a b => Sys2Proof.Machine.execImin h m d a b s
  | .imax h m d a b => Sys2Proof.Machine.execImax h m d a b s
  | .and h m d a b => Sys2Proof.Machine.execAnd h m d a b s
  | .or h m d a b => Sys2Proof.Machine.execOr h m d a b s
  | .xor h m d a b => Sys2Proof.Machine.execXor h m d a b s
  | .andn h m d a b => Sys2Proof.Machine.execAndn h m d a b s
  | .shl h m d a b => Sys2Proof.Machine.execShl h m d a b s
  | .shr h m d a b => Sys2Proof.Machine.execShr h m d a b s
  | .sar h m d a b => Sys2Proof.Machine.execSar h m d a b s
  | .rot h m d a b => Sys2Proof.Machine.execRot h m d a b s
  | .bfx h m d a b => Sys2Proof.Machine.execBfx h m d a b s
  | .bfi h m d a b c => Sys2Proof.Machine.execBfi h m d a b c s
  | .popc h m d a => Sys2Proof.Machine.execPopc h m d a s
  | .clz h m d a => Sys2Proof.Machine.execClz h m d a s
  | .brev h m d a => Sys2Proof.Machine.execBrev h m d a s
  | .sel h m d a b c => Sys2Proof.Machine.execSel h m d a b c s
  | .mov h m d a => Sys2Proof.Machine.execMov h m d a s
  | .addmin h m d a b c => Sys2Proof.Machine.execAddmin h m d a b c s
  | .addmax h m d a b c => Sys2Proof.Machine.execAddmax h m d a b c s
  | .iaddImm h m d a imm => Sys2Proof.Machine.execIaddImm h m d a imm s
  | .andImm h m d a imm => Sys2Proof.Machine.execAndImm h m d a imm s
  | .orImm h m d a imm => Sys2Proof.Machine.execOrImm h m d a imm s
  | .xorImm h m d a imm => Sys2Proof.Machine.execXorImm h m d a imm s
  | .shlImm h m d a imm => Sys2Proof.Machine.execShlImm h m d a imm s
  | .shrImm h m d a imm => Sys2Proof.Machine.execShrImm h m d a imm s
  | .sarImm h m d a imm => Sys2Proof.Machine.execSarImm h m d a imm s
  | .iminImm h m d a imm => Sys2Proof.Machine.execIminImm h m d a imm s
  | .imaxImm h m d a imm => Sys2Proof.Machine.execImaxImm h m d a imm s
  | .icmpImm h c d a imm => Sys2Proof.Machine.execIcmpImm h c d a imm s
  | .movi h d imm => Sys2Proof.Machine.execMovi h d imm s
  | .moviS64 h d imm => Sys2Proof.Machine.execMoviS64 h d imm s
  | .movhi h d imm => Sys2Proof.Machine.execMovhi h d imm s
  | .lea h sgn sh d a b => Sys2Proof.Machine.execLea h sgn sh d a b s
  | .add64 h d a b => Sys2Proof.Machine.execAdd64 h d a b s
  | .sub64 h d a b => Sys2Proof.Machine.execSub64 h d a b s
  | .icmp h c w64 d a b => Sys2Proof.Machine.execIcmp h c w64 d a b s
  | .fcmp h c t d a b => Sys2Proof.Machine.execFcmp h c t d a b s
  | .pset h table d a b => Sys2Proof.Machine.execPset h table d a b s
  | .pmovGet h d => Sys2Proof.Machine.execPmovGet h d s
  | .pmovSet h a => Sys2Proof.Machine.execPmovSet h a s
  | .fadd h t r d a b => Sys2Proof.Machine.execFadd h t r d a b s
  | .fsub h t r d a b => Sys2Proof.Machine.execFsub h t r d a b s
  | .fmul h t r d a b => Sys2Proof.Machine.execFmul h t r d a b s
  | .ffma h t r d a b c => Sys2Proof.Machine.execFfma h t r d a b c s
  | .fmin h t d a b => Sys2Proof.Machine.execFmin h t d a b s
  | .fmax h t d a b => Sys2Proof.Machine.execFmax h t d a b s
  | .fdiv h t r d a b => Sys2Proof.Machine.execFdiv h t r d a b s
  | .fsqrt h t r d a => Sys2Proof.Machine.execFsqrt h t r d a s
  | .fclass h t d a => Sys2Proof.Machine.execFclass h t d a s
  | .fscale h t r d a b => Sys2Proof.Machine.execFscale h t r d a b s
  | .frnd h t r d a => Sys2Proof.Machine.execFrnd h t r d a s
  | .frcp h t d a => Sys2Proof.Machine.execFrcp h t d a s
  | .frsq h t d a => Sys2Proof.Machine.execFrsq h t d a s
  | .fexp2 h t d a => Sys2Proof.Machine.execFexp2 h t d a s
  | .flog2 h t d a => Sys2Proof.Machine.execFlog2 h t d a s
  | .fsin h t d a => Sys2Proof.Machine.execFsin h t d a s
  | .fcos h t d a => Sys2Proof.Machine.execFcos h t d a s
  | .cvt h dt st r sat d a => Sys2Proof.Machine.execCvt h dt st r sat d a s
  | .hadd2 h bf r d a b => Sys2Proof.Machine.execHadd2 h bf r d a b s
  | .hmul2 h bf r d a b => Sys2Proof.Machine.execHmul2 h bf r d a b s
  | .hfma2 h bf r d a b c => Sys2Proof.Machine.execHfma2 h bf r d a b c s
  | .shfl h m d a b => Sys2Proof.Machine.execShfl h m d a b s
  | .gath h d a b => Sys2Proof.Machine.execGath h d a b s
  | .vote h v a => Sys2Proof.Machine.execVote h v a s
  | .redn h op t d a => Sys2Proof.Machine.execRedn h op t d a s
  | .scan h op t excl d a => Sys2Proof.Machine.execScan h op t excl d a s
  | .confl h d a => Sys2Proof.Machine.execConfl h d a s
  | .elect h d => Sys2Proof.Machine.execElect h d s
  | .expand h a b => Sys2Proof.Machine.execExpand h a b s
  | .exstep h d => Sys2Proof.Machine.execExstep h d s
  | .segred h op t d a => Sys2Proof.Machine.execSegred h op t d a s
  | .lds h sz win d base imm => Sys2Proof.Machine.execLds h sz win d base imm s
  | .sts h sz win data base imm => Sys2Proof.Machine.execSts h sz win data base imm s
  | .atoms h op sz win d base off b => Sys2Proof.Machine.execAtoms h op sz win d base off b s
  | .ld h sz acq sc d base imm => Sys2Proof.Machine.execLd h sz acq sc d base imm s
  | .st h sz rel sc data base imm => Sys2Proof.Machine.execSt h sz rel sc data base imm s
  | .ldn h sz d base imm => Sys2Proof.Machine.execLdn h sz d base imm s
  | .stn h sz data base imm => Sys2Proof.Machine.execStn h sz data base imm s
  | .atom h op sz o sc d base off b => Sys2Proof.Machine.execAtom h op sz o sc d base off b s
  | .red h op sz rel sc base off b => Sys2Proof.Machine.execRed h op sz rel sc base off b s
  | .ljoin h sz rel sc base off b => Sys2Proof.Machine.execLjoin h sz rel sc base off b s
  | .ldge h sz sc d base off b => Sys2Proof.Machine.execLdge h sz sc d base off b s
  | .lsync h sc => Sys2Proof.Machine.execLsync h sc s
  | .fence h o sc => Sys2Proof.Machine.execFence h o sc s
  | .pref h l2 base off => Sys2Proof.Machine.execPref h l2 base off s
  | .cline h op sc base off => Sys2Proof.Machine.execCline h op sc base off s
  | .migrate h base off => Sys2Proof.Machine.execMigrate h base off s
  | .cload h d a => Sys2Proof.Machine.execCload h d a s
  | .cnext h d => Sys2Proof.Machine.execCnext h d s
  | .cseek h ge d a => Sys2Proof.Machine.execCseek h ge d a s
  | .cdesc h d a => Sys2Proof.Machine.execCdesc h d a s
  | .coit h union d a b => Sys2Proof.Machine.execCoit h union d a b s
  | .ccrd h d a => Sys2Proof.Machine.execCcrd h d a s
  | .cval h t d a => Sys2Proof.Machine.execCval h t d a s
  | .capp h d a b => Sys2Proof.Machine.execCapp h d a b s
  | .cfin h d => Sys2Proof.Machine.execCfin h d s
  | .csave h a b => Sys2Proof.Machine.execCsave h a b s
  | .crest h d a => Sys2Proof.Machine.execCrest h d a s
  | .cheap h d a => Sys2Proof.Machine.execCheap h d a s
  | .mwld h t a c => Sys2Proof.Machine.execMwld h t a c s
  | .mma h t ovw d a c => Sys2Proof.Machine.execMma h t ovw d a c s
  | .mmag h t ovw d a b c => Sys2Proof.Machine.execMmag h t ovw d a b c s
  | .mhad h n d a c => Sys2Proof.Machine.execMhad h n d a c s
  | .mcond h t d a b c => Sys2Proof.Machine.execMcond h t d a b c s
  | .mzero h d c => Sys2Proof.Machine.execMzero h d c s
  | .mrd h t d a b c => Sys2Proof.Machine.execMrd h t d a b c s
  | .mqnt h t d a b c => Sys2Proof.Machine.execMqnt h t d a b c s
  | .mxrd h a b c => Sys2Proof.Machine.execMxrd h a b c s
  | .mxadd h d a c => Sys2Proof.Machine.execMxadd h d a c s
  | .mprog h n d => Sys2Proof.Machine.execMprog h n d s
  | .tldef h d a b => Sys2Proof.Machine.execTldef h d a b s
  | .tlstat h d a => Sys2Proof.Machine.execTlstat h d a s
  | .tlrel h a => Sys2Proof.Machine.execTlrel h a s
  | .cvset h d a => Sys2Proof.Machine.execCvset h d a s
  | .cpy h a b c tk => Sys2Proof.Machine.execCpy h a b c tk s
  | .cpytLd h d a b tk => Sys2Proof.Machine.execCpytLd h d a b tk s
  | .cpytSt h a b tk => Sys2Proof.Machine.execCpytSt h a b tk s
  | .cpytTt h d a tk => Sys2Proof.Machine.execCpytTt h d a tk s
  | .cpyd h d a b tk => Sys2Proof.Machine.execCpyd h d a b tk s
  | .wait h mask => Sys2Proof.Machine.execWait h mask s
  | .tkset h d a => Sys2Proof.Machine.execTkset h d a s
  | .tkrd h d a => Sys2Proof.Machine.execTkrd h d a s
  | .route h a tk => Sys2Proof.Machine.execRoute h a tk s
  | .chcnt h d a => Sys2Proof.Machine.execChcnt h d a s
  | .forcedPark fibre => Sys2Proof.Machine.execForcedPark fibre s
  | .runStart core slot => Sys2Proof.Machine.execRunStart core slot s
  | .frondMerge a b => Sys2Proof.Machine.execFrondMerge a b s
  | .replyLand k => Sys2Proof.Machine.execReplyLand k s
  | .storeAck k => Sys2Proof.Machine.execStoreAck k s
  | .homeRequest k => Sys2Proof.Machine.execHomeRequest k s
  | .requestRetry k => Sys2Proof.Machine.execRequestRetry k s
  | .translationWalkComplete k => Sys2Proof.Machine.execTranslationWalkComplete k s
  | .walkerComplete fibre => Sys2Proof.Machine.execWalkerComplete fibre s
  | .sporeRestore core bank => Sys2Proof.Machine.execSporeRestore core bank s
  | .sporeAgePromote fibre => Sys2Proof.Machine.execSporeAgePromote fibre s
  | .landingReserveGrant die => Sys2Proof.Machine.execLandingReserveGrant die s
  | .sporeLand fibre => Sys2Proof.Machine.execSporeLand fibre s
  | .cushionEnd cushion => Sys2Proof.Machine.execCushionEnd cushion s
  | .carpetRetire carpet => Sys2Proof.Machine.execCarpetRetire carpet s
  | .launchPacketRead asid q => Sys2Proof.Machine.execLaunchPacketRead asid q s
  | .launchAccept asid q => Sys2Proof.Machine.execLaunchAccept asid q s
  | .patchPlace die => Sys2Proof.Machine.execPatchPlace die s
  | .powerGrant => Sys2Proof.Machine.execPowerGrant s
  | .powerGrantReturn cushion => Sys2Proof.Machine.execPowerGrantReturn cushion s
  | .matrixOpStart cushion => Sys2Proof.Machine.execMatrixOpStart cushion s
  | .matrixSourceReadDone cushion => Sys2Proof.Machine.execMatrixSourceReadDone cushion s
  | .matrixOpComplete cushion => Sys2Proof.Machine.execMatrixOpComplete cushion s
  | .copyDescriptorRead op => Sys2Proof.Machine.execCopyDescriptorRead op s
  | .copyBytesApplied op => Sys2Proof.Machine.execCopyBytesApplied op s
  | .copyComplete op => Sys2Proof.Machine.execCopyComplete op s
  | .unfurlBlockDecode die => Sys2Proof.Machine.execUnfurlBlockDecode die s
  | .routeRun die => Sys2Proof.Machine.execRouteRun die s
  | .exchangeFire die entry => Sys2Proof.Machine.execExchangeFire die entry s
  | .exchangeReceive k => Sys2Proof.Machine.execExchangeReceive k s
  | .exchangeAck k => Sys2Proof.Machine.execExchangeAck k s
  | .crustSyncRequest k => Sys2Proof.Machine.execCrustSyncRequest k s
  | .faultRecordPost queue => Sys2Proof.Machine.execFaultRecordPost queue s
  | .carpetDiscard carpet keep => Sys2Proof.Machine.execCarpetDiscard carpet keep s
  | .registerWrite w => Sys2Proof.Machine.execRegisterWrite w s
  | .rcFieldRead off bytes => Sys2Proof.Machine.execRcFieldRead off bytes s
  | .pwpoolWrite w => Sys2Proof.Machine.execPwpoolWrite w s
  | .brwinWrite w => Sys2Proof.Machine.execBrwinWrite w s
  | .brgselWrite w => Sys2Proof.Machine.execBrgselWrite w s
  | .interruptMessage member vector => Sys2Proof.Machine.execInterruptMessage member vector s
  | .hostBar2Read off n => Sys2Proof.Machine.execHostBar2Read off n s
  | .hostBar2Write off data flaw => Sys2Proof.Machine.execHostBar2Write off data flaw s
  | .hostBar4Access off bytes write => Sys2Proof.Machine.execHostBar4Access off bytes write s
  | .connEntryWrite w => Sys2Proof.Machine.execConnEntryWrite w s
  | .circuitOpened entry => Sys2Proof.Machine.execCircuitOpened entry s
  | .circuitClosed entry => Sys2Proof.Machine.execCircuitClosed entry s
  | .circuitOpenFail entry => Sys2Proof.Machine.execCircuitOpenFail entry s
  | .rhizoidCircuitLost entry => Sys2Proof.Machine.execRhizoidCircuitLost entry s
  | .linkFlitReceive port bad m => Sys2Proof.Machine.execLinkFlitReceive port bad m s
  | .linkPortLost port => Sys2Proof.Machine.execLinkPortLost port s
  | .linkRetrain w => Sys2Proof.Machine.execLinkRetrain w s
  | .linkTrainingDone port ok => Sys2Proof.Machine.execLinkTrainingDone port ok s
  | .hostLinkDown => Sys2Proof.Machine.execHostLinkDown s
  | .uscfgWrite w => Sys2Proof.Machine.execUscfgWrite w s
  | .l1ResizeDone core => Sys2Proof.Machine.execL1ResizeDone core s
  | .crpartWrite w => Sys2Proof.Machine.execCrpartWrite w s
  | .xlinvGo w => Sys2Proof.Machine.execXlinvGo w s
  | .xlinvComplete => Sys2Proof.Machine.execXlinvComplete s
  | .crustRegionWrite w => Sys2Proof.Machine.execCrustRegionWrite w s
  | .crustRegionReady asid region => Sys2Proof.Machine.execCrustRegionReady asid region s
  | .crustRegionRetired asid region => Sys2Proof.Machine.execCrustRegionRetired asid region s
  | .launchQueueWrite w => Sys2Proof.Machine.execLaunchQueueWrite w s
  | .ctxSuspend w => Sys2Proof.Machine.execCtxSuspend w s
  | .ctxSuspendComplete asid => Sys2Proof.Machine.execCtxSuspendComplete asid s
  | .ctxResume w => Sys2Proof.Machine.execCtxResume w s
  | .faultQueueControlWrite w => Sys2Proof.Machine.execFaultQueueControlWrite w s
  | .faultAnswerSyscall w => Sys2Proof.Machine.execFaultAnswerSyscall w s
  | .faultRetry w => Sys2Proof.Machine.execFaultRetry w s
  | .faultKill w => Sys2Proof.Machine.execFaultKill w s
  | .frozenMasterRelease w => Sys2Proof.Machine.execFrozenMasterRelease w s
  | .dieReset w => Sys2Proof.Machine.execDieReset w s
  | .dieResetDone die ok => Sys2Proof.Machine.execDieResetDone die ok s
  | .packageReset w => Sys2Proof.Machine.execPackageReset w s
  | .debugHaltWrite w => Sys2Proof.Machine.execDebugHaltWrite w s
  | .dieHalted die => Sys2Proof.Machine.execDieHalted die s
  | .debugAttachWrite w => Sys2Proof.Machine.execDebugAttachWrite w s
  | .brkRelease w => Sys2Proof.Machine.execBrkRelease w s
  | .dieTimeout k => Sys2Proof.Machine.execDieTimeout k s
  | .linkTimeout k => Sys2Proof.Machine.execLinkTimeout k s
  | .uncorrectableError st die unit pa sole => Sys2Proof.Machine.execUncorrectableError st die unit pa sole s
  | .scrub st die corrected => Sys2Proof.Machine.execScrub st die corrected s
  | .powerCapEvent size gate => Sys2Proof.Machine.execPowerCapEvent size gate s
  | .hostLinkUp => Sys2Proof.Machine.execHostLinkUp s
  | .resetRelease pkgid lkbridge => Sys2Proof.Machine.execResetRelease pkgid lkbridge s
  | .engineReadReply op => Sys2Proof.Machine.execEngineReadReply op s

end Sys2Proof.Machine
end

