-- ==== Sys2Proof/Machine/Fetch.lean ====
section
/-! DEFINITION. Fetching an instruction (R68, R397, R398, R400): translation with X, the bytes, the overlay of patched immediates
(R73), and the fate of a word that holds no assigned instruction (R91, R386). -/

namespace Sys2Proof.Machine

def fetchAccess (pc : DWord) : Access := { kind := .fetch, va := pc, n := 8, r := false, w := false, x := true, crust := none }

/-! ## Patched immediates (R71, R73) -/

/-- The patch entry that names a code offset. -/
def patchAt (c : Carpet) (pc : DWord) : Option DWord :=
  c.ker.patches.find? (fun e => ofN64 (getF e 0 32) == pc - codeBase c)

/-- The value a patch entry takes from the parameter copy, in a field of `n` bits (R73). -/
def patchValue (c : Carpet) (e : DWord) (n : Nat) : Nat :=
  let width := getF e 36 4
  let v := ofBytes ((c.params.drop (getF e 48 12)).take width)
  if getB e 40 && decide (2 ^ (8 * width) ≤ 2 * v) then v + (2 ^ n - 2 ^ (8 * width)) else v

/-- The fetched copy of a word, overlaid before decode (R73). -/
def overlay (c : Carpet) (pc : DWord) (w : DWord) : DWord :=
  match patchAt c pc with
  | none => w
  | some e => if getF e 32 4 = 0 then setF w 8 24 (patchValue c e 24) else setF w 10 32 (patchValue c e 32)

/-! ## The fetch -/

/-- What a fetch gives: the state with the word, or the state in which the frond does not issue. -/
inductive FetchRes where
  | stop (s : State)
  | word (s : State) (w : DWord)
  deriving DecidableEq, Repr

/-- The fetch of a frond misses: every member parks at the address being fetched, and fetches again (R400). No instruction parks there: the
live-set table says what is live once the instruction at an offset has issued (R354), so everything is saved (R43; log entry 35). -/
def fetchMiss (s : State) (ex : Ex) (va : DWord) : State :=
  let s := ex.lanes.foldl (fun s f => parkFibre s ex.frond.fr f
    { at_ := none, resume := ex.pc, wait := .walk, join := 1, dstG := 0, dstK := 0 }
    (fun s => joinWalk s (dieOf f.core) ex.car.asid va (.fibre f.fid va (fetchAccess ex.pc) ex.pc))) s
  endRun s ex.core ex.slot

/-- A failed check of a fetch ends the carpet of every member (R400). -/
def fetchFail (s : State) (ex : Ex) (e : AccFail) : State :=
  endRun (ex.lanes.foldl (fun s f => failFibre s f ex.pc e) s) ex.core ex.slot

/-- A byte of code that lies in a crust page: the replica of the die; none where no active region covers it. -/
def crustByte (s : State) (die asid : Nat) (va : DWord) : Option Byte :=
  (cellOf s asid va).map (fun c => memRead (replicaOf s die asid c.1) c.2.1)

/-- The word at the frond's pc (R68, R400), through the L2 (R210). Bytes of another package's memory are free values; with no route to it the fetch
is the link fault of the carpet (R17, R423). -/
def fetchWord (s : State) (ex : Ex) : FetchRes :=
  match xlate s ex.core ex.car.asid (fetchAccess ex.pc) with
  | (s, .miss va) => .stop (fetchMiss s ex va)
  | (s, .fail e) => .stop (fetchFail s ex e)
  | (s, .ok xs) =>
    let ps := placesOf s xs
    let as := ps.filterMap (fun p => match p with | .mem _ a => some a | _ => none)
    match poisonedAt s as with
    | some p => .stop (endRun (poisonRead s p 0 (some ex.car.id) (some ex.core)) ex.core ex.slot)
    | none =>
      if ps.any (fun p => match p with | .crust va => (crustByte s (dieOf ex.core) ex.car.asid va).isNone | _ => false) then
        .stop (fetchFail s ex (accFail 0x208 ex.pc (ofN64 (regionNear s ex.car.asid ex.pc))))
      else if ps.any (fun p => match p with | .remote .. => true | _ => false) then
        match unrouted s ex.core ps with
        | some pkg => .stop (fetchFail s ex (accFail 0x306 ex.pc (ofN64 pkg)))
        | none => .word { s with oracle := s.oracle + 1 } (overlay ex.car ex.pc (Config.freeValue s.oracle))
      else
        let bs := ps.map (fun p => match p with
          | .mem _ a => physRead s a
          | .crust va => (crustByte s (dieOf ex.core) ex.car.asid va).getD 0
          | .remote .. => 0)
        .word (l2TouchAll (srcDie ex.core) (srcSlice ex.core) false s as) (overlay ex.car ex.pc (ofN64 (ofBytes bs)))

/-- A word with an unassigned field traps in each true-guard slot: 0x0100, W3 the word, the detail the field's lowest and
highest bit (R91, R386). -/
def unassignedExec (w : DWord) (lo hi : Nat) (s : State) : State :=
  match focusEx s with
  | none => s
  | some ex =>
    let h := wordHdr w
    let acts := ex.lanes.filter (guardOf h)
    let s := setPc s ((ex.lanes.filter (fun f => !guardOf h f)).map (·.fid)) (ex.pc + 8#64)
    settleRun (applyTraps s ex (acts.map (fun f => (f, viol 0x100 0 w (lo + hi * 64))))) ex.core ex.slot (h.er || !acts.isEmpty)

end Sys2Proof.Machine
end

