-- ==== Sys2Proof/Machine/Turn.lean ====
section
/-! DEFINITION. One turn of the machine: an issue slot issues its frond's next instruction, or a step that no word encodes takes
place (spec/95_what_each_step_holds.md). The model's own order when the agenda is empty (log entry 2). -/

namespace Sys2Proof.Machine

/-- An issue slot may issue: its carpet lives in a running context and its die is neither halted nor in reset (R349, R373, R376,
R427). -/
def issueRuns (s : State) (ex : Ex) : Bool := carpetRuns s ex.car.id && coreRuns s ex.core

/-- Fetch, decode and execute in the focused slot. -/
def issueFocused (s : State) : Host.Outcome State Fault Refusal :=
  match focusEx s with
  | none => .next s
  | some ex =>
    if issueRuns s ex then
      match fetchWord s ex with
      | .stop t => .next t
      | .word t w =>
        match decodeWord w with
        | .ok i => exec i t
        | .bad lo hi => .next (unassignedExec w lo hi t)
    else .next s

/-- One instruction of the frond that a slot holds (R37, R68, R346). A slot that holds none has no effect. -/
def issueSlot (core slot : Nat) (s : State) : Host.Outcome State Fault Refusal :=
  if 384 ≤ core ∨ 4 ≤ slot then .fault .noSuchUnit else issueFocused { s with focus := some (core, slot) }

/-- CLOCK moves on: host accesses and link messages that wait are tried again (R20, R424, R427), and the exchange fires in the cycles it leaves
behind (R221). -/
def tick (s : State) (n : Nat) : State := { fireCycles (linkPump (barPump s)) n with clock := s.clock + n }

/-- An issue slot issues once in a cycle, and after the lower slots of its core (R298, R311): a turn that comes out of that order falls into
the next cycle. -/
def turnCycles (s : State) (t : Turn) : Nat :=
  match t.act with
  | .issue core slot => if t.dt = 0 ∧ (cycNow s).issued.any (fun p => p.1 == core && decide (slot ≤ p.2)) = true then 1 else t.dt
  | .event _ => t.dt

def noteIssued (s : State) (core slot : Nat) : State := { s with cyc := { cycNow s with issued := (core, slot) :: (cycNow s).issued } }

/-- A turn: CLOCK moves on, then its act. Only an issue slot executes a word instruction. -/
def takeTurn (t : Turn) (s : State) : Host.Outcome State Fault Refusal :=
  let s := tick s (turnCycles s t)
  match t.act with
  | .issue core slot => issueSlot core slot (noteIssued s core slot)
  | .event i => if (encode i).isSome then .next s else exec i s

/-! ## The order when the agenda is empty -/

/-- Steps of messages in flight. -/
def messageSteps (s : State) : List Instr :=
  let a : List Instr := (List.range s.replies.length).flatMap (fun k => [Instr.replyLand k, Instr.engineReadReply k])
  let b : List Instr := (List.range s.acks.length).map (fun k => Instr.storeAck k)
  let c : List Instr := (List.range s.reqs.length).flatMap
    (fun k => [Instr.homeRequest k, Instr.requestRetry k, Instr.crustSyncRequest k])
  let d : List Instr := (List.range s.walks.length).map (fun k => Instr.translationWalkComplete k)
  let e : List Instr := (List.range s.exchanges.length).flatMap (fun k => [Instr.exchangeReceive k, Instr.exchangeAck k])
  [a, b, c, d, e].flatten

/-- Steps of fibres, fronds and cushions. The model pre-empts only for a suspension (R349); a pre-emption of another kind is a turn of
the agenda. -/
def fibreSteps (s : State) : List Instr :=
  let cores := (s.fibres.map (·.core) ++ s.cushions.map (·.core)).dedup
  let a : List Instr := s.jobs.map (fun j => Instr.walkerComplete j.fid)
  let b : List Instr := s.fibres.flatMap (fun f => [Instr.sporeAgePromote f.fid, Instr.sporeLand f.fid])
  let c : List Instr := cores.flatMap (fun c => (List.range 32).map (fun k => Instr.sporeRestore c k))
  let d : List Instr := cores.flatMap (fun c => (List.range 4).map (fun k => Instr.runStart c k))
  let e : List Instr := s.fronds.flatMap (fun x => s.fronds.map (fun y => Instr.frondMerge x.fr y.fr))
  let f : List Instr := s.cushions.flatMap (fun c => [Instr.matrixOpStart c.cid, Instr.matrixSourceReadDone c.cid,
    Instr.matrixOpComplete c.cid, Instr.powerGrantReturn c.cid, Instr.cushionEnd c.cid] ++
    c.mq.map (fun o => Instr.copyBytesApplied o.id))
  let g : List Instr := s.carpets.flatMap (fun c => [Instr.carpetRetire c.id, Instr.carpetDiscard c.id []])
  let h : List Instr := (s.fibres.filter (fun f => f.status == .resident && decide (ctxState s (asidOf s f.carpet) = 1))).map
    (fun f => Instr.forcedPark f.fid)
  [a, b, c, d, e, f, g, h].flatten

/-- Steps of the dies' units, the launch units and the control space. -/
def unitSteps (s : State) : List Instr :=
  let dies := List.range 8
  let asids := List.range 16
  let a : List Instr := dies.flatMap (fun d => [Instr.landingReserveGrant d, Instr.patchPlace d, Instr.unfurlBlockDecode d,
    Instr.routeRun d, Instr.dieHalted d, Instr.dieResetDone d true])
  let b : List Instr := asids.flatMap (fun a => (List.range 16).flatMap
    (fun q => [Instr.launchPacketRead a q, Instr.launchAccept a q]))
  let c : List Instr := s.engines.flatMap (fun e => [Instr.copyDescriptorRead e.id, Instr.copyBytesApplied e.id,
    Instr.copyComplete e.id])
  let d : List Instr := dies.flatMap (fun d => (List.range 16).map (fun e => Instr.exchangeFire d e))
  let e : List Instr := (List.range 17).map (fun q => Instr.faultRecordPost q)
  let f : List Instr := s.resizes.map (fun r => Instr.l1ResizeDone r.1)
  let g : List Instr := asids.flatMap (fun a =>
    if ctxState s a = 3 then [Instr.ctxResume { off := offCTXCB a, bytes := 4, value := 2 }] else [Instr.ctxSuspendComplete a])
  let h : List Instr := asids.flatMap (fun a => (List.range 64).flatMap
    (fun r => [Instr.crustRegionReady a r, Instr.crustRegionRetired a r]))
  let i : List Instr := (List.range 256).flatMap (fun e => [Instr.circuitOpened e, Instr.circuitClosed e])
  [[Instr.powerGrant, Instr.xlinvComplete], a, b, c, d, e, f, g, h, i].flatten

/-- The package's own steps that could take place: those of requests, replies and units that hold work. -/
def ownSteps (s : State) : List Instr := messageSteps s ++ fibreSteps s ++ unitSteps s

/-- The turns of one cycle that the package could take by itself. -/
def ownTurns (s : State) : List Turn :=
  (s.slots.filter (fun k => k.frond.isSome)).map (fun k => { dt := 1, act := .issue k.core k.slot }) ++
  (ownSteps s).map (fun i => { dt := 1, act := .event i })

/-- A turn that changes more than what a cycle without it would leave, but for the focus and what is noted of the cycle. -/
def turnActs (s : State) (t : Turn) : Bool :=
  let idle := tick s (turnCycles s t)
  match takeTurn t s with
  | .next u => decide ({ u with focus := idle.focus, cyc := idle.cyc } ≠ idle)
  | _ => false

/-- The model's own order: round the turns that act, from a place that CLOCK moves on; nothing to do is an idle cycle. -/
def ownTurn (s : State) : Option Turn :=
  let ts := ownTurns s
  let k := s.clock % ts.length
  (ts.drop k ++ ts.take k).find? (turnActs s)

/-- The next turn: the head of the agenda, or the model's own. -/
def runTurn (s : State) : Host.Outcome State Fault Refusal :=
  match s.agenda with
  | t :: rest => takeTurn t { s with agenda := rest }
  | [] =>
    match ownTurn s with
    | some t => takeTurn t s
    | none => .next (tick s 1)

end Sys2Proof.Machine
end

