-- ==== Sys2Proof/Machine/Step.lean ====
section
/-! DEFINITION. step, and the state in which the next step runs one given instruction (log entry 4: how a program comes to run). -/

namespace Sys2Proof.Machine

/-- One step of the package: the turn at the head of the agenda, or with an empty agenda the model's own order (log entry 2). -/
def step (s : State) : Host.Outcome State Fault Refusal := runTurn s

/-! ## A state that runs a given instruction next -/

/-- Address of the placed word: byte 0x80 of a kernel at 0x1000_0000. -/
def probePc : DWord := 0x10000080#64

/-- A packet of one fibre; its kernel stands at 0x1000_0000. -/
def probePacket : Packet where
  addr := 0
  kernel := 0x10000000#64
  param := 0
  px := 1
  py := 1
  pz := 1
  stages := 3
  width := 1
  nfib := 1
  prodLo := 0
  prodHi := 0
  prio := 0
  scv := false
  cjv := false
  dieMask := 1
  die0 := 0
  asid := 0
  scAddr := 0
  scThr := 0
  scType := 0
  cjAddr := 0
  cjVal := 0
  cjType := 0
  reservedBad := false

/-- A kernel that declares every resource and has a handler. -/
def probeKernel : Kernel where
  codeOff := 0x80
  codeSize := 0x1000
  entry := 0
  handler := 0x400
  budget := 16
  stages := 3
  tiles := 64
  cvs := 16
  tokMask := 0xFF
  chMask := 0xFFFF
  scratch := 0x4000
  chDepth := List.replicate 16 0
  paramSize := 0
  live := []
  patches := []
  funcs := []

def probeCarpet (id : Nat) : Carpet where
  id := id
  asid := 0
  q := 0
  pkt := probePacket
  ker := probeKernel
  params := []
  accepted := 0
  placed := 1
  dead := false
  barrier := none
  gone := false
  cores := [0]

/-- The middle one of three stages, so that its channels have neighbours on both sides; on core 0 (R58). -/
def probeCushion (cid carpet : Nat) : Cushion := { startCushion cid carpet with stage := 1 }
where
  /-- A cushion as it starts (R58). -/
  startCushion (cid carpet : Nat) : Cushion :=
    { cid := cid, carpet := carpet, core := 0, slot := 0, px := 0, py := 0, pz := 0, stage := 0, pos := 0, patch := 0, stripe := 0,
      scratch := [], g := List.replicate 64 0, fsr := 0, fctl := 0, chans := List.replicate 16 [],
      tiles := List.replicate 64 { w0 := 0, w1 := 0, st := .empty, relpend := false, wclaim := false, readers := 0, live := 0 },
      cvs := List.replicate 16 { expected := 0, count := 0, word := 0 }, tks := List.replicate 8 0,
      accs := List.replicate 8 { tag := .z, elems := [], longs := [] }, panel := none, mq := [], mp0 := 0, mdone := 0, mqueued := 0,
      mresumed := false, grant := 0, mlast := 0,
      exp := { phase := .idle, parts := [], later := [], total := 0, folded := 0, contrib := [] },
      retired := 0, frozen := false, saved := false }

/-- Fibre 0 of the cushion, resident in bank 0 with a window of 256 registers, all zero. -/
def probeFibre (fid : Nat) (cu : Cushion) : Fibre :=
  { newFibre fid cu 0 16 probePc 0 0 with status := .resident, winOff := 0x800 }

/-- The translation of the code page: HBM die-local frame 0x1000, with R, W and X. -/
def probeXlat : Xlat := { asid := 0, base := 0x10000000, level := 0, leaf := 0x1000003F#64 }

/-- The same machine about to run a given instruction: the word stands in HBM at `probePc` in a page that core 0 has a translation
of; a carpet of context 0 with every resource declared has one fibre there, whose frond issue slot 0 of core 0 holds; the next
turn issues it. Context 0, die 0 and the page are made fit to run. -/
def State.withFetchWord (s : State) (nbits w : Nat) : State :=
  let n := s.nextId
  let cu := probeCushion (n + 1) (n + 3)
  let s := ctlSetB s (offCTXMEM 0) 0 true
  let s := ctlSetF s (offCTXMEM 0 + 8) 22 42 0
  let s := ctlSetF s (offCTXCB 0) 2 2 0
  let s := ctlSetB (ctlSetB (ctlSetB s offRSTCTL 8 false) offDEVSTAT 0 false) offDBGCTL 0 false
  let inWord (a : Nat) : Bool := decide (0x10000080 ≤ a) && decide (a < 0x10000088)
  let frond : Frond := { fr := n + 2, core := 0, cush := n + 1, away := false, members := [n], age := 0, split := n + 2, order := 0 }
  let slot : IssueSlot := { core := 0, slot := 0, frond := some (n + 2), latches := [], lastCush := 0 }
  { s with
    nextId := n + 4
    mem := memWriteAll s.mem (cellsAt 0x10000080 (leBytes 8 (w % 2 ^ nbits)))
    l2data := s.l2data.filter (fun c => !inWord c.1)
    poison := s.poison.filter (fun p => p.1 != 0x10000080 / 64)
    coreTlb := (0, probeXlat) :: s.coreTlb
    carpets := probeCarpet (n + 3) :: s.carpets
    cushions := cu :: s.cushions
    fibres := probeFibre n cu :: s.fibres
    fronds := frond :: s.fronds
    slots := slot :: s.slots.filter (fun k => !(k.core == 0 && k.slot == 0))
    agenda := { dt := 1, act := .issue 0 0 } :: s.agenda }

end Sys2Proof.Machine
end

