-- ==== Sys2Proof/Safety.lean ====
section
/-! DEFINITION. What counts as a sound state and a safe step, in the terms the statements use: when the frond of the focused issue
slot may execute an instruction, what a lane reads, and what an instruction leaves unchanged. -/

namespace Sys2Proof.Safety

open Sys2Proof.Machine

/-- A step stops the machine. -/
def Stops (s : State) : Prop := ∃ f, step s = .fault f

/-- The bytes of the vaults and of HBM, of each cushion's scratch and of each replica are in canonical form: equal memories are equal data.
The bytes of dirty L2 sectors rise in address, and all are HBM's: no vault byte is in the L2 (R209, R210). The control registers that have
been written are listed in order. -/
def MemCanon (s : State) : Prop :=
  s.mem.wf = true ∧ s.l2data.Pairwise (fun a b => a.1 < b.1) ∧ (∀ c ∈ s.l2data, c.1 < 2 ^ 40) ∧ s.ctl.Pairwise (fun a b => a.1 < b.1) ∧
    (∀ c ∈ s.cushions, c.scratch.wf = true) ∧ (∀ r ∈ s.replicas, r.bytes.wf = true)

/-! ## Legal operands (R379, R388) -/

/-- The registers a field names: an even first one of a pair, a multiple of four of a quad, all in the window. -/
def regOk (f : Fibre) (i words : Nat) : Bool := decide (i % words = 0) && decide (i + words ≤ 16 * f.winSize)

/-- A source field may be used by a lane: its class suits the field; x registers lie in the window; a g register is not used away; the
latch holds the lane's value; the channel is declared, has a producer, and is not used away. -/
def srcOk (ex : Ex) (f : Fibre) (u : SrcU) : Bool :=
  match u.src with
  | .x i => !u.gOnly && regOk f i.toNat u.words
  | .g i => decide (u.words ≠ 4) && decide (i.toNat % u.words = 0) && !f.away
  | .b i => u.latch && !u.gOnly && (latchVal ex i.toNat f.lane).isSome
  | .h i _ => u.chan && ex.car.ker.chMask.getLsbD i.toNat && decide (ex.cush.stage ≠ 0) && !f.away

/-- A destination field may be used by a lane. -/
def dstOk (ex : Ex) (f : Fibre) (ws : Bool) (u : DstU) : Bool :=
  match u.dst with
  | .x i => regOk f i.toNat u.words
  | .g i => !u.xOnly && decide (i.toNat % u.words = 0) && !f.away
  | .h i => u.chan && decide (u.words = 1) && ex.car.ker.chMask.getLsbD i.toNat &&
      (ws || decide (ex.cush.stage + 1 ≠ ex.car.ker.stages)) && !f.away
  | .none => !u.xOnly || (ws && u.wsNone)

/-- A tile, convergence register, token or channel that a field names is declared, and is not used away. -/
def resOk (ex : Ex) (f : Fibre) (u : ResU) : Bool :=
  (match u.kind with
    | 0 => decide (u.idx < ex.car.ker.tiles)
    | 1 => decide (u.idx < ex.car.ker.cvs)
    | 2 => ex.car.ker.tokMask.getLsbD u.idx
    | _ => ex.car.ker.chMask.getLsbD u.idx) && !f.away

/-- Every operand of an instruction may be used by a lane. -/
def laneOk (ex : Ex) (h : Hdr) (sh : Shape) (f : Fibre) : Bool :=
  sh.srcs.all (srcOk ex f) && (match sh.dst with | some u => dstOk ex f h.ws u | none => true) && sh.res.all (resOk ex f) &&
    !(sh.held && f.away)

/-- The channel that an instruction pushes to, if any, has room at the next stage (R85). -/
def pushRoom (s : State) (ex : Ex) (h : Hdr) (sh : Shape) : Bool :=
  match sh.dst, h.ws with
  | some { dst := .h c, .. }, false =>
    match nextStage s ex.cush with
    | some d => decide ((getD d.chans c.toNat []).length < chanDepth ex.car.ker c.toNat)
    | none => true
  | _, _ => true

/-- No register of a true slot, or of any slot for an instruction that may read them all, and no channel entry that the instruction reads
holds a poisoned word (R418). -/
def soundReads (ex : Ex) (h : Hdr) (sh : Shape) : Bool :=
  ex.lanes.all (fun f => !(sh.across || guardOf h f) || !readBad sh f) &&
    (match (chanReads sh.srcs ex.cush.chans).1 with | some p => p.1.all (fun e => !e.2.bad) | none => true)

/-- The focused issue slot holds the frond `ex`; some member's guard is true; no such member uses an operand illegally; no channel that
the instruction reads is empty, and the one it pushes to has room; nothing it reads is poisoned. -/
def ready (s : State) (ex : Ex) (h : Hdr) (sh : Shape) : Bool :=
  decide (focusEx s = some ex) && ex.lanes.any (guardOf h) && ex.lanes.all (fun f => !guardOf h f || laneOk ex h sh f) &&
    (chanReads sh.srcs ex.cush.chans).1.isSome && pushRoom s ex h sh && soundReads ex h sh

/-- The members whose guard is true, in ascending slots. -/
def actives (ex : Ex) (h : Hdr) : List Fibre := ex.lanes.filter (guardOf h)

/-- The operand values of a lane (R84, R85). -/
def operands (ex : Ex) (srcs : List SrcU) (f : Fibre) : List DWord :=
  srcs.map (srcVal ex f (match (chanReads srcs ex.cush.chans).1 with | some p => p.1 | none => []))

/-! ## What an instruction leaves unchanged -/

/-- No source or destination of an instruction is a channel. -/
def noChan (sh : Shape) : Bool :=
  sh.srcs.all (fun u => match u.src with | .h _ _ => false | _ => true) &&
    (match sh.dst with | some { dst := .h _, .. } => false | _ => true)

def xDst (ws : Bool) : Dst → Option Nat
  | .x i => if ws then none else some i.toNat
  | _ => none

def gDst (ws : Bool) : Dst → Option Nat
  | .g i => if ws then none else some i.toNat
  | _ => none

/-- A register list without register i and, of a pair, i + 1. -/
def regsRest (l : List Word) (i : Option Nat) (w64 : Bool) : List Word :=
  match i with
  | some i => if w64 then setAt 0 (setAt 0 l i 0) (i + 1) 0 else setAt 0 l i 0
  | none => l

/-- A list of poisoned registers without register i and, of a pair, i + 1. -/
def badRest (l : List Nat) (i : Option Nat) (w64 : Bool) : List Nat :=
  match i with
  | some i => l.filter (fun j => j != i && !(w64 && j == i + 1))
  | none => l

/-- A fibre without the pc, the destination registers, and the flags it holds while away; every other field stays. -/
def fibreRest (f : Fibre) (i : Option Nat) (w64 : Bool) : Fibre :=
  { f with pc := 0, awFlags := 0, x := regsRest f.x i w64, bad := badRest f.bad i w64 }

/-- A cushion without the destination registers and without FSR and what is noted of its flags (R64). -/
def cushRest (c : Cushion) (i : Option Nat) (w64 : Bool) : Cushion := { c with fsr := 0, fsrNew := none, g := regsRest c.g i w64 }

/-- An issue slot without its latches and its run. -/
def slotRest (k : IssueSlot) : IssueSlot := { k with frond := none, latches := [], endedAt := none }

/-- The package without its fibres, cushions and issue slots: control registers, memory, caches, translations, carpets, fronds,
messages, engines, faults, time. -/
def runless (s : State) : State := { s with fibres := [], cushions := [], slots := [] }

/-- Only fibres, cushions and issue slots differ. -/
def onlyRun (s t : State) : Prop := runless t = runless s

/-- Fibres that are no members of the frond, and other issue slots, stay as they are. -/
def othersStay (s : State) (ex : Ex) (t : State) : Prop :=
  (∀ fid, fid ∉ ex.lanes.map (·.fid) → getFibre t fid = getFibre s fid) ∧
  (∀ core slot, (core, slot) ≠ (ex.core, ex.slot) → getSlot t core slot = getSlot s core slot) ∧
  (getSlot t ex.core ex.slot).map slotRest = (getSlot s ex.core ex.slot).map slotRest

/-- The run of the frond goes on with these latches, or ends with ER: the slot is free and its latches are empty (R82, R84). -/
def runAfter (ex : Ex) (er : Bool) (latches : List Latch) (t : State) : Prop :=
  ∃ k, getSlot t ex.core ex.slot = some k ∧
    if er then k.frond = none ∧ k.latches = [] else k.frond = some ex.frond.fr ∧ k.latches = latches

/-! ## Instructions that compute one value a lane -/

/-- An instruction whose true slots each compute a value, with its flags, from FCTL, the fibre and the operands. -/
structure ValueRow where
  h : Hdr
  srcs : List SrcU
  dst : Dst
  w64 : Bool
  val : BitVec 4 → Fibre → List DWord → DWord × BitVec 5

def ValueRow.shape (r : ValueRow) : Shape := Machine.shape r.srcs (some (dW r.w64 r.dst))

/-- The value and the flags of a lane. -/
def ValueRow.out (r : ValueRow) (s : State) (ex : Ex) (f : Fibre) : DWord × BitVec 5 := r.val (fctlOf s f) f (operands ex r.srcs f)

/-- The value as a result of 32 or 64 bits. -/
def ValueRow.res (r : ValueRow) (s : State) (ex : Ex) (f : Fibre) : DWord :=
  if r.w64 then (r.out s ex f).1 else zext (lo32 (r.out s ex f).1)

/-- The latch entry of a result: one value for each true slot's lane (R83). -/
def ValueRow.latch (r : ValueRow) (s : State) (ex : Ex) : Latch :=
  { w64 := r.w64, vals := (List.range 32).map (fun l => ((actives ex r.h).find? (fun f => f.lane == l)).map (r.res s ex)) }

/-- The channel entry of a pushed result (R85). -/
def ValueRow.entry (r : ValueRow) (s : State) (ex : Ex) : ChanEntry :=
  { words := (List.range 32).map (fun l => (((actives ex r.h).find? (fun f => f.lane == l)).map (fun f => lo32 (r.res s ex f))).getD 0)
    mask := (actives ex r.h).foldl (fun m f => m ||| BitVec.ofNat 32 (2 ^ f.lane)) 0#32 }

def orAll (l : List (BitVec 5)) : BitVec 5 := l.foldl (· ||| ·) 0

/-- What the instruction does: every member goes on at the next instruction; each true slot's value is in its x register, or the highest
true slot's in the g register, or one entry with all of them is at the tail of the channel of the next stage, or with WS nowhere but in
the latch; the flags are raised; the result latch has it; ER ends the run (R64, R81 to R83, R144, R165). -/
def ValueDone (r : ValueRow) (s : State) (ex : Ex) (t : State) : Prop :=
  (∀ f ∈ ex.lanes, ∃ g, getFibre t f.fid = some g ∧ g.pc = ex.pc + 8#64) ∧
  (∀ i, r.dst = .x i → r.h.ws = false → ∀ f ∈ actives ex r.h, ∃ g, getFibre t f.fid = some g ∧
    (if r.w64 then getX64 g i.toNat else zext (getX g i.toNat)) = r.res s ex f) ∧
  (∀ i, r.dst = .g i → r.h.ws = false → ∀ f, (actives ex r.h).getLast? = some f → ∃ c, getCush t ex.cush.cid = some c ∧
    (if r.w64 then pair64 (getD c.g i.toNat 0) (getD c.g (i.toNat + 1) 0) else zext (getD c.g i.toNat 0)) = r.res s ex f) ∧
  (∀ c, r.dst = .h c → r.h.ws = false → ∀ d, nextStage s ex.cush = some d → d.cid ≠ ex.cush.cid →
    ∃ d', nextStage t ex.cush = some d' ∧ getD d'.chans c.toNat [] = getD d.chans c.toNat [] ++ [r.entry s ex]) ∧
  (∀ cid c, getCush s cid = some c → ∃ c', getCush t cid = some c' ∧
    c'.fsr = c.fsr ||| orAll (((actives ex r.h).filter (fun f => f.cush == cid && !f.away)).map (fun f => (r.out s ex f).2))) ∧
  (∀ f ∈ actives ex r.h, ∃ g, getFibre t f.fid = some g ∧
    g.awFlags = if f.away then f.awFlags ||| (r.out s ex f).2 else f.awFlags) ∧
  runAfter ex r.h.er ((r.latch s ex :: ex.latches).take 4) t

/-- What the instruction leaves unchanged, with no channel among its operands: all but the destination registers of the true slots, the
flags, the pc of the members, and the run with its latches. -/
def ValueFrame (r : ValueRow) (s : State) (ex : Ex) (t : State) : Prop :=
  onlyRun s t ∧ othersStay s ex t ∧
  (∀ f ∈ ex.lanes, ∃ g, getFibre t f.fid = some g ∧
    if guardOf r.h f then fibreRest g (xDst r.h.ws r.dst) r.w64 = fibreRest f (xDst r.h.ws r.dst) r.w64 else g = { f with pc := ex.pc + 8#64 }) ∧
  (∀ cid, (getCush t cid).map (fun c => cushRest c (if cid = ex.cush.cid then gDst r.h.ws r.dst else none) r.w64) =
    (getCush s cid).map (fun c => cushRest c (if cid = ex.cush.cid then gDst r.h.ws r.dst else none) r.w64))

end Sys2Proof.Safety
end

