-- ==== Sys2Proof/WellFormed.lean ====
section
/-! DEFINITION. Which instructions and steps are well formed: an instruction is when its fields are a combination that some word
has (R387), a step when its arguments name units the package has (R10, R27) and an access that the control space takes (R443). -/

namespace Sys2Proof

/-- A control access of 4 or 8 aligned bytes inside the 256 KiB of the control space (R443, R19). -/
def ctlSpan (off bytes : Nat) : Bool :=
  (decide (bytes = 4) || decide (bytes = 8)) && decide (off % bytes = 0) && decide (off + bytes ≤ 0x40000)

def CtlWrite.wf (w : CtlWrite) : Bool := ctlSpan w.off w.bytes

def Instr.wf : Instr → Bool
  | .nop _ | .yield _ | .brk _ _ | .trap _ _ | .sysc _ _ | .eret _ | .csrr _ _ _ | .csrw _ _ _ | .bra _ _ | .call _ _
  | .brx _ _ | .callx _ _ | .ret _ | .exit _ | .fork _ _ _ _ | .spawn _ _ _ _ _ | .join _ _ | .bar _ _ | .reform _
  | .resize _ _ | .iadd _ _ _ _ _ | .isub _ _ _ _ _ | .imul _ _ _ _ _ | .imulh _ _ _ _ _ | .imad _ _ _ _ _ _
  | .imadw _ _ _ _ _ _ _ | .idiv _ _ _ _ _ | .irem _ _ _ _ _ | .ineg _ _ _ _ | .iabs _ _ _ _ | .imin _ _ _ _ _
  | .imax _ _ _ _ _ | .and _ _ _ _ _ | .or _ _ _ _ _ | .xor _ _ _ _ _ | .andn _ _ _ _ _ | .shl _ _ _ _ _
  | .shr _ _ _ _ _ | .sar _ _ _ _ _ | .rot _ _ _ _ _ | .bfx _ _ _ _ _ | .bfi _ _ _ _ _ _ | .popc _ _ _ _ | .clz _ _ _ _
  | .brev _ _ _ _ | .sel _ _ _ _ _ _ | .mov _ _ _ _ | .addmin _ _ _ _ _ _ | .addmax _ _ _ _ _ _ | .iaddImm _ _ _ _ _
  | .andImm _ _ _ _ _ | .orImm _ _ _ _ _ | .xorImm _ _ _ _ _ | .shlImm _ _ _ _ _ | .shrImm _ _ _ _ _ | .sarImm _ _ _ _ _
  | .iminImm _ _ _ _ _ | .imaxImm _ _ _ _ _ | .icmpImm _ _ _ _ _ | .movi _ _ _ | .moviS64 _ _ _ | .movhi _ _ _
  | .lea _ _ _ _ _ _ | .add64 _ _ _ _ | .sub64 _ _ _ _ | .icmp _ _ _ _ _ _ | .fcmp _ _ _ _ _ _ | .pset _ _ _ _ _
  | .pmovGet _ _ | .pmovSet _ _ | .fadd _ _ _ _ _ _ | .fsub _ _ _ _ _ _ | .fmul _ _ _ _ _ _ | .ffma _ _ _ _ _ _ _
  | .fmin _ _ _ _ _ | .fmax _ _ _ _ _ | .fdiv _ _ _ _ _ _ | .fsqrt _ _ _ _ _ | .fclass _ _ _ _ | .fscale _ _ _ _ _ _
  | .frnd _ _ _ _ _ | .frcp _ _ _ _ | .frsq _ _ _ _ | .fexp2 _ _ _ _ | .flog2 _ _ _ _ | .fsin _ _ _ _ | .fcos _ _ _ _ => true
  | .cvt _ dty sty r _ _ _ => dty.scalar && sty.scalar && (match r with | .mode _ => true | .sr _ => dty.isFloat)
  | .hadd2 _ _ _ _ _ _ | .hmul2 _ _ _ _ _ _ | .hfma2 _ _ _ _ _ _ _ | .shfl _ _ _ _ _ | .gath _ _ _ _ | .vote _ _ _ => true
  | .redn _ op t _ _ => redLegal op t
  | .scan _ op t _ _ _ => redLegal op t
  | .confl _ _ _ | .elect _ _ | .expand _ _ _ | .exstep _ _ => true
  | .segred _ op t _ _ => redLegal op t
  | .lds _ _ _ _ _ _ | .sts _ _ _ _ _ _ => true
  | .atoms _ op sz _ _ _ _ _ => aopSizeLegal op sz
  | .ld _ _ _ _ _ _ _ | .st _ _ _ _ _ _ _ | .ldn _ _ _ _ _ | .stn _ _ _ _ _ => true
  | .atom _ op sz _ _ _ _ _ _ => aopSizeLegal op sz
  | .red _ op sz _ _ _ _ _ => aopSizeLegal op sz && decide (op ≠ .exch) && decide (op ≠ .cas)
  | .ljoin _ _ _ _ _ _ _ | .ldge _ _ _ _ _ _ _ | .lsync _ _ | .fence _ _ _ | .pref _ _ _ _ | .cline _ _ _ _ _
  | .migrate _ _ _ | .cload _ _ _ | .cnext _ _ | .cseek _ _ _ _ | .cdesc _ _ _ | .coit _ _ _ _ _ | .ccrd _ _ _ => true
  | .cval _ t _ _ => t.scalar
  | .capp _ _ _ _ | .cfin _ _ | .csave _ _ _ | .crest _ _ _ | .cheap _ _ _ => true
  | .mwld _ t _ _ => t.matrix
  | .mma _ t _ _ _ _ => t.matrix
  | .mmag _ t _ _ _ _ _ => t.matrix
  | .mhad _ _ _ _ _ => true
  | .mcond _ t _ _ _ _ => t.matrix
  | .mzero _ _ _ | .mrd _ _ _ _ _ _ | .mqnt _ _ _ _ _ _ | .mxrd _ _ _ _ | .mxadd _ _ _ _ | .mprog _ _ _ | .tldef _ _ _ _
  | .tlstat _ _ _ | .tlrel _ _ | .cvset _ _ _ | .cpy _ _ _ _ _ | .cpytLd _ _ _ _ _ | .cpytSt _ _ _ _ | .cpytTt _ _ _ _
  | .cpyd _ _ _ _ _ | .wait _ _ | .tkset _ _ _ | .tkrd _ _ _ | .route _ _ _ | .chcnt _ _ _ | .forcedPark _ => true
  | .runStart core slot => decide (core < 384) && decide (slot < 4)
  | .frondMerge _ _ | .replyLand _ | .storeAck _ | .homeRequest _ | .requestRetry _ | .translationWalkComplete _
  | .walkerComplete _ => true
  | .sporeRestore core bank => decide (core < 384) && decide (bank < 32)
  | .sporeAgePromote _ => true
  | .landingReserveGrant die => decide (die < 8)
  | .sporeLand _ | .cushionEnd _ | .carpetRetire _ => true
  | .launchPacketRead asid q => decide (asid < 16) && decide (q < 16)
  | .launchAccept asid q => decide (asid < 16) && decide (q < 16)
  | .patchPlace die => decide (die < 8)
  | .powerGrant | .powerGrantReturn _ | .matrixOpStart _ | .matrixSourceReadDone _ | .matrixOpComplete _
  | .copyDescriptorRead _ | .copyBytesApplied _ | .copyComplete _ => true
  | .unfurlBlockDecode die => decide (die < 8)
  | .routeRun die => decide (die < 8)
  | .exchangeFire die entry => decide (die < 8) && decide (entry < 16)
  | .exchangeReceive _ | .exchangeAck _ | .crustSyncRequest _ => true
  | .faultRecordPost queue => decide (queue < 17)
  | .carpetDiscard _ _ => true
  | .registerWrite w => w.wf
  | .rcFieldRead off bytes => ctlSpan off bytes
  | .pwpoolWrite w => w.wf
  | .brwinWrite w => w.wf
  | .brgselWrite w => w.wf
  | .interruptMessage member vector => decide (member < 16) && decide (vector ≤ 16)
  | .hostBar2Read off n => decide (off + n ≤ 2 ^ 34)
  | .hostBar2Write off data _ => decide (off + data.length ≤ 2 ^ 34)
  | .hostBar4Access off bytes _ => decide (off + bytes ≤ 2 ^ 22)
  | .connEntryWrite w => w.wf
  | .circuitOpened entry => decide (entry < 256)
  | .circuitClosed entry => decide (entry < 256)
  | .circuitOpenFail entry => decide (entry < 256)
  | .rhizoidCircuitLost entry => decide (entry < 256)
  | .linkFlitReceive port _ _ => decide (port < 16)
  | .linkPortLost port => decide (port < 16)
  | .linkRetrain w => w.wf
  | .linkTrainingDone port _ => decide (port < 16)
  | .hostLinkDown => true
  | .uscfgWrite w => w.wf
  | .l1ResizeDone core => decide (core < 384)
  | .crpartWrite w => w.wf
  | .xlinvGo w => w.wf
  | .xlinvComplete => true
  | .crustRegionWrite w => w.wf
  | .crustRegionReady asid region => decide (asid < 16) && decide (region < 64)
  | .crustRegionRetired asid region => decide (asid < 16) && decide (region < 64)
  | .launchQueueWrite w => w.wf
  | .ctxSuspend w => w.wf
  | .ctxSuspendComplete asid => decide (asid < 16)
  | .ctxResume w => w.wf
  | .faultQueueControlWrite w => w.wf
  | .faultAnswerSyscall w => w.wf
  | .faultRetry w => w.wf
  | .faultKill w => w.wf
  | .frozenMasterRelease w => w.wf
  | .dieReset w => w.wf
  | .dieResetDone die _ => decide (die < 8)
  | .packageReset w => w.wf
  | .debugHaltWrite w => w.wf
  | .dieHalted die => decide (die < 8)
  | .debugAttachWrite w => w.wf
  | .brkRelease w => w.wf
  | .dieTimeout _ | .linkTimeout _ => true
  | .uncorrectableError _ die _ _ _ => decide (die < 8)
  | .scrub _ die _ => decide (die < 8)
  | .powerCapEvent _ gate => decide (1 ≤ gate) && decide (gate ≤ 4)
  | .hostLinkUp | .resetRelease _ _ | .engineReadReply _ => true

end Sys2Proof
end

