-- ==== Sys2Proof/Certificates/Slice0/Obligations.lean ====
section
/-! DEFINITION. The statements for the provers, with the tables and predicates that they are made of. A table gives for each
instruction of a group its operand fields and the value that the rule gives it, written from the rule's own formula. -/

namespace Sys2Proof.Stmt

open Sys2Proof.Machine Sys2Proof.Safety

/-! ## Integer arithmetic (R147 to R153) -/

/-- v(z): the low 32 or 64 bits, read with sign or without (R147). -/
def num (w64 sgn : Bool) (z : DWord) : Int :=
  match w64, sgn with
  | true, true => z.toInt
  | true, false => z.toNat
  | false, true => (lo32 z).toInt
  | false, false => (lo32 z).toNat

/-- The greatest and the least value of the type. -/
def topOf (w64 sgn : Bool) : Int := match w64, sgn with
  | true, true => 0x7FFFFFFFFFFFFFFF
  | true, false => 0xFFFFFFFFFFFFFFFF
  | false, true => 0x7FFFFFFF
  | false, false => 0xFFFFFFFF
def botOf (w64 sgn : Bool) : Int := if sgn then -(topOf w64 sgn) - 1 else 0

/-- The low 32 or 64 bits of an integer. -/
def cut (w64 : Bool) (z : Int) : DWord := if w64 then BitVec.ofInt 64 z else zext (BitVec.ofInt 32 z)

/-- res(z): wrap, or clamp to the type (R147). -/
def fit (w64 sgn sat : Bool) (z : Int) : DWord :=
  cut w64 (if sat && decide (topOf w64 sgn < z) then topOf w64 sgn else if sat && decide (z < botOf w64 sgn) then botOf w64 sgn else z)

/-- A function of 32-bit or of 64-bit words. -/
def wide (w64 : Bool) (f : Word → Word) (g : DWord → DWord) (a : DWord) : DWord := if w64 then g a else zext (f (lo32 a))

/-- The quotient q and the remainder r of R148. -/
def quotRem (w64 sgn sat : Bool) (a b : DWord) : Int × Int :=
  if num w64 sgn b = 0 then ((if w64 then 0xFFFFFFFFFFFFFFFF else 0xFFFFFFFF), num w64 sgn a)
  else if sgn = true ∧ num w64 sgn a = botOf w64 true ∧ num w64 sgn b = -1 then (if sat then topOf w64 true else botOf w64 true, 0)
  else (Int.tdiv (num w64 sgn a) (num w64 sgn b), Int.tmod (num w64 sgn a) (num w64 sgn b))

/-- The amount of a shift: B at 32 bits (R149). -/
def amount (b : DWord) : Nat := (lo32 b).toNat

/-- BFX (R149): the field of len bits at pos, with sign or without. -/
def field (w64 sgn : Bool) (a b : DWord) : DWord :=
  let len := min ((lo32 b).toNat / 256 % 256) (if w64 then 64 else 32)
  let f := num w64 sgn a / 2 ^ ((lo32 b).toNat % 256)
  cut w64 (if sgn then (BitVec.ofInt len f).toInt else ((BitVec.ofInt len f).toNat : Int))

/-- BFI (R149): a into the field of c. -/
def insertF (w64 : Bool) (a b c : DWord) : DWord :=
  let pos := (lo32 b).toNat % 256
  let len := min ((lo32 b).toNat / 256 % 256) (if w64 then 64 else 32)
  let m : DWord := BitVec.ofNat 64 (2 ^ len - 1) <<< pos
  cut w64 ((((a <<< pos) &&& m) ||| (c &&& ~~~m)).toNat)

/-- The leading zeros of the low w bits. -/
def leadZeros (a : DWord) : Nat → Nat
  | 0 => 0
  | w + 1 => if a.getLsbD w then 0 else 1 + leadZeros a w

/-- The value of a row that raises no flag. -/
def pure1 (g : DWord → DWord) : BitVec 4 → Fibre → List DWord → DWord × BitVec 5 := fun _ _ v => (g (opv v 0), 0)
def pure2 (g : DWord → DWord → DWord) : BitVec 4 → Fibre → List DWord → DWord × BitVec 5 := fun _ _ v => (g (opv v 0) (opv v 1), 0)
def pure3 (g : DWord → DWord → DWord → DWord) : BitVec 4 → Fibre → List DWord → DWord × BitVec 5 :=
  fun _ _ v => (g (opv v 0) (opv v 1) (opv v 2), 0)

/-- IALU (R147 to R149): the operands and the result of each minor. -/
inductive IaluRow : Instr → ValueRow → Prop
  | iadd h m d a b : IaluRow (.iadd h m d a b) ⟨h, [sW m.w64 1 a, sW m.w64 2 b], d, m.w64,
      pure2 fun a b => fit m.w64 m.sgn m.sat (num m.w64 m.sgn a + num m.w64 m.sgn b)⟩
  | isub h m d a b : IaluRow (.isub h m d a b) ⟨h, [sW m.w64 1 a, sW m.w64 2 b], d, m.w64,
      pure2 fun a b => fit m.w64 m.sgn m.sat (num m.w64 m.sgn a - num m.w64 m.sgn b)⟩
  | imul h m d a b : IaluRow (.imul h m d a b) ⟨h, [sW m.w64 1 a, sW m.w64 2 b], d, m.w64,
      pure2 fun a b => fit m.w64 m.sgn m.sat (num m.w64 m.sgn a * num m.w64 m.sgn b)⟩
  | imulh h m d a b : IaluRow (.imulh h m d a b) ⟨h, [sW m.w64 1 a, sW m.w64 2 b], d, m.w64,
      pure2 fun a b => cut m.w64 (num m.w64 m.sgn a * num m.w64 m.sgn b / 2 ^ (if m.w64 then 64 else 32))⟩
  | imad h m d a b c : IaluRow (.imad h m d a b c) ⟨h, [sW m.w64 1 a, sW m.w64 2 b, sW m.w64 3 c], d, m.w64,
      pure3 fun a b c => fit m.w64 m.sgn m.sat (num m.w64 m.sgn a * num m.w64 m.sgn b + num m.w64 m.sgn c)⟩
  | imadw h sgn sat d a b c : IaluRow (.imadw h sgn sat d a b c) ⟨h, [s32 1 a, s32 2 b, s64 3 c], d, true,
      pure3 fun a b c => fit true sgn sat (num false sgn a * num false sgn b + num true sgn c)⟩
  | idiv h m d a b : IaluRow (.idiv h m d a b) ⟨h, [sW m.w64 1 a, sW m.w64 2 b], d, m.w64,
      pure2 fun a b => cut m.w64 (quotRem m.w64 m.sgn m.sat a b).1⟩
  | irem h m d a b : IaluRow (.irem h m d a b) ⟨h, [sW m.w64 1 a, sW m.w64 2 b], d, m.w64,
      pure2 fun a b => cut m.w64 (quotRem m.w64 m.sgn false a b).2⟩
  | ineg h m d a : IaluRow (.ineg h m d a) ⟨h, [sW m.w64 1 a], d, m.w64, pure1 fun a => fit m.w64 m.sgn m.sat (-(num m.w64 m.sgn a))⟩
  | iabs h m d a : IaluRow (.iabs h m d a) ⟨h, [sW m.w64 1 a], d, m.w64, pure1 fun a => fit m.w64 m.sgn m.sat |num m.w64 m.sgn a|⟩
  | imin h m d a b : IaluRow (.imin h m d a b) ⟨h, [sW m.w64 1 a, sW m.w64 2 b], d, m.w64,
      pure2 fun a b => if num m.w64 m.sgn b < num m.w64 m.sgn a then b else a⟩
  | imax h m d a b : IaluRow (.imax h m d a b) ⟨h, [sW m.w64 1 a, sW m.w64 2 b], d, m.w64,
      pure2 fun a b => if num m.w64 m.sgn a < num m.w64 m.sgn b then b else a⟩
  | and h m d a b : IaluRow (.and h m d a b) ⟨h, [sW m.w64 1 a, sW m.w64 2 b], d, m.w64, pure2 (· &&& ·)⟩
  | or h m d a b : IaluRow (.or h m d a b) ⟨h, [sW m.w64 1 a, sW m.w64 2 b], d, m.w64, pure2 (· ||| ·)⟩
  | xor h m d a b : IaluRow (.xor h m d a b) ⟨h, [sW m.w64 1 a, sW m.w64 2 b], d, m.w64, pure2 (· ^^^ ·)⟩
  | andn h m d a b : IaluRow (.andn h m d a b) ⟨h, [sW m.w64 1 a, sW m.w64 2 b], d, m.w64, pure2 fun a b => a &&& ~~~b⟩
  | shl h m d a b : IaluRow (.shl h m d a b) ⟨h, [sW m.w64 1 a, s32 2 b], d, m.w64,
      pure2 fun a b => wide m.w64 (· <<< amount b) (· <<< amount b) a⟩
  | shr h m d a b : IaluRow (.shr h m d a b) ⟨h, [sW m.w64 1 a, s32 2 b], d, m.w64,
      pure2 fun a b => wide m.w64 (· >>> amount b) (· >>> amount b) a⟩
  | sar h m d a b : IaluRow (.sar h m d a b) ⟨h, [sW m.w64 1 a, s32 2 b], d, m.w64,
      pure2 fun a b => wide m.w64 (·.sshiftRight (amount b)) (·.sshiftRight (amount b)) a⟩
  | rot h m d a b : IaluRow (.rot h m d a b) ⟨h, [sW m.w64 1 a, s32 2 b], d, m.w64,
      pure2 fun a b => wide m.w64 (·.rotateLeft (amount b)) (·.rotateLeft (amount b)) a⟩
  | bfx h m d a b : IaluRow (.bfx h m d a b) ⟨h, [sW m.w64 1 a, s32 2 b], d, m.w64, pure2 (field m.w64 m.sgn)⟩
  | bfi h m d a b c : IaluRow (.bfi h m d a b c) ⟨h, [sW m.w64 1 a, s32 2 b, sW m.w64 3 c], d, m.w64, pure3 (insertF m.w64)⟩
  | popc h m d a : IaluRow (.popc h m d a) ⟨h, [sW m.w64 1 a], d, m.w64,
      pure1 fun a => BitVec.ofNat 64 ((List.range (if m.w64 then 64 else 32)).countP (fun i => a.getLsbD i))⟩
  | clz h m d a : IaluRow (.clz h m d a) ⟨h, [sW m.w64 1 a], d, m.w64,
      pure1 fun a => BitVec.ofNat 64 (leadZeros a (if m.w64 then 64 else 32))⟩
  | brev h m d a : IaluRow (.brev h m d a) ⟨h, [sW m.w64 1 a], d, m.w64, pure1 (wide m.w64 (·.reverse) (·.reverse))⟩
  | sel h m d a b c : IaluRow (.sel h m d a b c) ⟨h, [sW m.w64 1 a, sW m.w64 2 b], d, m.w64,
      fun _ f v => (if c = 0#3 ∨ f.pred.getLsbD c.toNat then opv v 0 else opv v 1, 0)⟩
  | mov h m d a : IaluRow (.mov h m d a) ⟨h, [sW m.w64 1 a], d, m.w64, pure1 id⟩
  | addmin h m d a b c : IaluRow (.addmin h m d a b c) ⟨h, [sW m.w64 1 a, sW m.w64 2 b, sW m.w64 3 c], d, m.w64,
      pure3 fun a b c =>
        let t := fit m.w64 m.sgn m.sat (num m.w64 m.sgn a + num m.w64 m.sgn b)
        if num m.w64 m.sgn c < num m.w64 m.sgn t then c else t⟩
  | addmax h m d a b c : IaluRow (.addmax h m d a b c) ⟨h, [sW m.w64 1 a, sW m.w64 2 b, sW m.w64 3 c], d, m.w64,
      pure3 fun a b c =>
        let t := fit m.w64 m.sgn m.sat (num m.w64 m.sgn a + num m.w64 m.sgn b)
        if num m.w64 m.sgn t < num m.w64 m.sgn c then c else t⟩

/-- IALUI, MOVI, MOVHI and ADDR (R150, R152, R153). -/
inductive ImmRow : Instr → ValueRow → Prop
  | iadd h m d a imm : ImmRow (.iaddImm h m d a imm) ⟨h, [sW m.w64 1 a], d, m.w64, pure1 fun a => a + imm.signExtend 64⟩
  | and h m d a imm : ImmRow (.andImm h m d a imm) ⟨h, [sW m.w64 1 a], d, m.w64, pure1 fun a => a &&& imm.signExtend 64⟩
  | or h m d a imm : ImmRow (.orImm h m d a imm) ⟨h, [sW m.w64 1 a], d, m.w64, pure1 fun a => a ||| imm.signExtend 64⟩
  | xor h m d a imm : ImmRow (.xorImm h m d a imm) ⟨h, [sW m.w64 1 a], d, m.w64, pure1 fun a => a ^^^ imm.signExtend 64⟩
  | shl h m d a imm : ImmRow (.shlImm h m d a imm) ⟨h, [sW m.w64 1 a], d, m.w64,
      pure1 (wide m.w64 (· <<< amount (imm.signExtend 64)) (· <<< amount (imm.signExtend 64)))⟩
  | shr h m d a imm : ImmRow (.shrImm h m d a imm) ⟨h, [sW m.w64 1 a], d, m.w64,
      pure1 (wide m.w64 (· >>> amount (imm.signExtend 64)) (· >>> amount (imm.signExtend 64)))⟩
  | sar h m d a imm : ImmRow (.sarImm h m d a imm) ⟨h, [sW m.w64 1 a], d, m.w64,
      pure1 (wide m.w64 (·.sshiftRight (amount (imm.signExtend 64))) (·.sshiftRight (amount (imm.signExtend 64))))⟩
  | imin h m d a imm : ImmRow (.iminImm h m d a imm) ⟨h, [sW m.w64 1 a], d, m.w64,
      pure1 fun a => if num m.w64 m.sgn (imm.signExtend 64) < num m.w64 m.sgn a then imm.signExtend 64 else a⟩
  | imax h m d a imm : ImmRow (.imaxImm h m d a imm) ⟨h, [sW m.w64 1 a], d, m.w64,
      pure1 fun a => if num m.w64 m.sgn a < num m.w64 m.sgn (imm.signExtend 64) then imm.signExtend 64 else a⟩
  | movi h d imm : ImmRow (.movi h d imm) ⟨h, [], d, false, fun _ _ _ => (zext imm, 0)⟩
  | moviS64 h d imm : ImmRow (.moviS64 h d imm) ⟨h, [], d, true, fun _ _ _ => (imm.signExtend 64, 0)⟩
  | movhi h d imm : ImmRow (.movhi h d imm) ⟨h, [], d, true, fun _ _ _ => (imm ++ 0#32, 0)⟩
  | lea h sgn sh d a b : ImmRow (.lea h sgn sh d a b) ⟨h, [s64 1 a, s32 2 b], d, true,
      pure2 fun a b => a + (if sgn then (lo32 b).signExtend 64 else (lo32 b).setWidth 64) <<< sh.toNat⟩
  | add64 h d a b : ImmRow (.add64 h d a b) ⟨h, [s64 1 a, s64 2 b], d, true, pure2 (· + ·)⟩
  | sub64 h d a b : ImmRow (.sub64 h d a b) ⟨h, [s64 1 a, s64 2 b], d, true, pure2 (· - ·)⟩
  | pmovGet h d : ImmRow (.pmovGet h d) ⟨h, [], d, false, fun _ f _ => (f.pred.setWidth 64, 0)⟩

end Sys2Proof.Stmt

namespace Sys2Proof.Stmt

open Sys2Proof.Machine Sys2Proof.Safety

/-! ## Words, reset, steps -/

/-- What the decoder reads from a word. -/
def reads (w : DWord) (i : Instr) : Prop := decodeWord w = .ok i

/-- The steps that no instruction word encodes (spec/95_what_each_step_holds.md). -/
def wordless : Instr → Bool
  | .forcedPark .. | .runStart .. | .frondMerge .. | .replyLand .. | .storeAck .. | .homeRequest .. | .requestRetry ..
  | .translationWalkComplete .. | .walkerComplete .. | .sporeRestore .. | .sporeAgePromote .. | .landingReserveGrant .. | .sporeLand ..
  | .cushionEnd .. | .carpetRetire .. | .launchPacketRead .. | .launchAccept .. | .patchPlace .. | .powerGrant | .powerGrantReturn ..
  | .matrixOpStart .. | .matrixSourceReadDone .. | .matrixOpComplete .. | .copyDescriptorRead .. | .copyBytesApplied ..
  | .copyComplete .. | .unfurlBlockDecode .. | .routeRun .. | .exchangeFire .. | .exchangeReceive .. | .exchangeAck ..
  | .crustSyncRequest .. | .faultRecordPost .. | .carpetDiscard .. | .registerWrite .. | .rcFieldRead .. | .pwpoolWrite .. | .brwinWrite ..
  | .brgselWrite .. | .interruptMessage .. | .hostBar2Read .. | .hostBar2Write .. | .hostBar4Access .. | .connEntryWrite ..
  | .circuitOpened .. | .circuitClosed .. | .circuitOpenFail .. | .rhizoidCircuitLost .. | .linkFlitReceive .. | .linkPortLost ..
  | .linkRetrain .. | .linkTrainingDone .. | .hostLinkDown | .uscfgWrite .. | .l1ResizeDone .. | .crpartWrite .. | .xlinvGo ..
  | .xlinvComplete | .crustRegionWrite .. | .crustRegionReady .. | .crustRegionRetired .. | .launchQueueWrite .. | .ctxSuspend ..
  | .ctxSuspendComplete .. | .ctxResume .. | .faultQueueControlWrite .. | .faultAnswerSyscall .. | .faultRetry .. | .faultKill ..
  | .frozenMasterRelease .. | .dieReset .. | .dieResetDone .. | .packageReset .. | .debugHaltWrite .. | .dieHalted ..
  | .debugAttachWrite .. | .brkRelease .. | .dieTimeout .. | .linkTimeout .. | .uncorrectableError .. | .scrub .. | .powerCapEvent ..
  | .hostLinkUp | .resetRelease .. | .engineReadReply .. => true
  | _ => false

/-- No GNEG, guard p0, no WS, no ER. -/
def plain : Hdr := { gneg := false, gpred := 0, ws := false, er := false }

/-- The fields of connection-table entry i (R23). -/
structure ConnFields where
  v : Nat
  sdie : Nat
  sport : Nat
  ddie : Nat
  dport : Nat
  wl : Nat
  deriving DecidableEq, Repr
def connOf (s : State) (i : Nat) : ConnFields :=
  let w := (ctlW s (offCONN i)).toNat
  ⟨w % 2, w / 2 % 8, w / 16 % 8, w / 128 % 8, w / 1024 % 8, w / 65536 % 2 ^ 32⟩

/-- Register of a core, a context or a queue at reset. -/
def resetWord (o : Nat) : Nat := (ctlW State.reset o).toNat

/-- p0 of every fibre reads true. -/
def PredZeroTrue (s : State) : Prop := ∀ f ∈ s.fibres, f.pred.getLsbD 0 = true

/-- A fibre has one record and stands in at most one frond, once. The members of a frond are resident members of its cushion, and the fibres
that a REFORM has put into one group are members of one cushion (R28, R33 to R36). -/
def FibresApart (s : State) : Prop :=
  (s.fibres.map (·.fid)).Nodup ∧ (s.fronds.flatMap (·.members)).Nodup ∧ (∀ x ∈ s.fronds, ∀ m ∈ x.members, m < s.nextId) ∧
  (∀ x ∈ s.fronds, ∀ f ∈ s.fibres, f.fid ∈ x.members → f.status = .resident ∧ f.cush = x.cush ∧ f.task = false) ∧
  (∀ f ∈ s.fibres, ∀ k, f.group = some k → k < s.nextId ∧ f.task = false ∧ ∀ g ∈ s.fibres, g.group = some k → g.cush = f.cush)

/-- Every handle is below the next one. -/
def HandlesBelow (s : State) : Prop :=
  (∀ f ∈ s.fibres, f.fid < s.nextId) ∧ (∀ c ∈ s.cushions, c.cid < s.nextId) ∧ (∀ x ∈ s.fronds, x.fr < s.nextId) ∧
  (∀ l ∈ s.loads, l.id < s.nextId) ∧ (∀ h ∈ s.held, h.id < s.nextId) ∧ (∀ c ∈ s.cushions, ∀ o ∈ c.mq, o.id < s.nextId) ∧
  ∀ h ∈ s.spilled, h < s.nextId

end Sys2Proof.Stmt

open Sys2Proof Sys2Proof.Machine Sys2Proof.Safety Sys2Proof.Stmt

/-- Words written out from the encoding tables of the spec, for each family, decode to their instruction (R74 to R106 and the examples of
the chapters). -/
def Obligations.WordsOfTheSpecDecode : Prop :=
  reads 0x1000140301000006#64 (.iadd plain ⟨false, true, true⟩ (.x 5) (.x 3) (.x 4)) ∧
  reads 0x1280140380400000#64 (.iadd ⟨true, 2, false, false⟩ ⟨false, false, false⟩ (.x 5) (.x 3) (.b 1)) ∧
  reads 0x14001C0700000342#64 (.shlImm plain ⟨false, true⟩ (.x 7) (.x 7) 3) ∧
  reads 0x1C00100000004801#64 (.movhi plain (.x 4) 0x12) ∧
  reads 0x2800280B0300D0E0#64 (.ffma plain .f32 .rne (.x 10) (.x 11) (.x 12) (.x 13)) ∧
  reads 0x300014030252A028#64 (.cvt plain .bf16 .f32 (.sr (.x 9)) false (.x 5) (.x 3)) ∧
  reads 0x044FFFFF80000000#64 (.bra ⟨false, 1, false, false⟩ 0xFFFFF8) ∧
  reads 0x0C0000005024400C#64 (.fork plain 5 (.x 9) 3) ∧
  reads 0x3800140301000002#64 (.shfl plain .down (.x 5) (.x 3) (.x 4)) ∧
  reads 0x50001C080000408A#64 (.st plain .w32 true .die (.x 7) (.x 8) 0x40) ∧
  reads 0x5C00140800181093#64 (.atom plain .add .w32 .acqRel .package (.x 5) (.x 8) 0x10 (.x 6)) ∧
  reads 0x64000C0A1010008B#64 (.ldge plain .w32 .package (.x 3) (.x 10) 0 (.x 4)) ∧
  reads 0x680C000000000013#64 (.fence plain .acqRel .package) ∧
  reads 0x6C00040600000081#64 (.cseek plain true 1 (.x 6)) ∧
  reads 0x7000000200001040#64 (.mma plain .s8 false 0 2 1) ∧
  reads 0x7400090040800000#64 (.tldef plain 2 (.g 0) (.g 2)) ∧
  reads 0x780C00080280C001#64 (.cpy plain (.x 8) (.x 10) (.x 12) 1)

/-- Encoding and decoding agree for every well-formed instruction that has a word, with every operand at every value its field holds, and
every row with a word is encoded (R74 to R106). -/
def Obligations.DecodingUndoesEncoding : Prop :=
  (∀ i w, i.wf = true → encode i = some w → decodeWord w = .ok i) ∧
  (∀ i, i.wf = true → wordless i = false → (encode i).isSome = true)

/-- A word that decodes is the encoding of a well-formed instruction: no bit of an accepted word is dropped, and no reserved combination is
accepted (R91, R387). -/
def Obligations.EncodingUndoesDecoding : Prop :=
  ∀ w i, decodeWord w = .ok i → i.wf = true ∧ encode i = some w

/-- The registers of the control space that the field maps give a reset value have it, no byte of memory is listed, and the package holds no
work: no carpet, cushion, fibre or message (R5, R13, R59, R201, R221, R369, R425). The host starts the package by its resetRelease: that
running is false before is the model's choice (log entry 5). -/
def Obligations.ResetStateIsTheFieldMaps : Prop :=
  resetWord offPWPOOL % 65536 = 768 ∧ resetWord offPWPOOL / 65536 % 65536 = 0 ∧ resetWord offPWEVT % 4 = 0 ∧
  (∀ c, c < 384 → resetWord (offUSCFG c) = 4 ∧ resetWord (offVLTCFG c) = 4) ∧
  (∀ d e, d < 8 → e < 16 →
    resetWord (offEXSCHED d e) = if e < 3 then 1 + 4 * (d ^^^ 2 ^ e) + 32 * 2 ^ 24 + 4 * e * 2 ^ 40 else 0) ∧
  (∀ a, a < 16 → resetWord (offCTXMEM a) = 0 ∧ resetWord (offCTXCB a) = 0 ∧ ∀ q, q < 16 → resetWord (offLQ a q) = 0) ∧
  (∀ q, q < 17 → resetWord (offFQ q) = 4 * 4) ∧ resetWord offWDCFG = 0x400 + 0x1000 * 2 ^ 16 ∧
  resetWord offBRWIN = 0 ∧ resetWord offBRGSEL = 0 ∧ resetWord offRSTCTL = 0 ∧ resetWord offDBGCTL = 0 ∧ resetWord offCRPART = 0 ∧
  State.reset.mem = [] ∧ State.reset.l2data = [] ∧ State.reset.poison = [] ∧
  State.reset.carpets = [] ∧ State.reset.cushions = [] ∧ State.reset.fibres = [] ∧ State.reset.fronds = [] ∧
  State.reset.reqs = [] ∧ State.reset.replies = [] ∧ State.reset.acks = [] ∧ State.reset.clock = 0 ∧ State.reset.running = false

/-- At reset the connection table holds the default full mesh, and every default circuit reads open once reset completes (R24). -/
def Obligations.ResetMeshJoinsEveryPairOfDies : Prop :=
  (∀ d p, d < 8 → p < 7 → connOf State.reset (8 * d + p) = ⟨1, d, p, (d + p + 1) % 8, 6 - p, 0xFFFFFFFF⟩) ∧
  (∀ d, d < 8 → connOf State.reset (8 * d + 7) = ⟨1, d, 7, d ^^^ 4, 7, 0xFFFFFFFF⟩) ∧
  (∀ i, 64 ≤ i → i < 256 → ctlW State.reset (offCONN i) = 0#64) ∧
  (∀ i pkg lk, i < 64 → ∃ t, exec (.resetRelease pkg lk) State.reset = .next t ∧
    (ctlShown t (.conn i) (offCONN i)).toNat / 2 ^ 62 = 2)

/-- A step runs the decoded instruction: with an issue turn at the head of the agenda, CLOCK moves on and the exchange of the cycles left behind
fires, host accesses and link messages that wait are tried again, the issue is noted, the slot comes into focus, and where its frond may issue and
the fetched word decodes to i, the step is exec of i. A step of the machine runs when its turn comes. CLOCK moves on by what the turn says, but an
issue turn that names the cycle of the turn before it after an issue of the same or of a higher slot of its core falls into the next cycle. With an
empty agenda the model takes a turn of its own order, or an idle cycle (log entry 2). -/
def Obligations.StepExecutesTheDecodedInstruction : Prop :=
  (∀ s dt core slot rest ex t w i, s.agenda = { dt := dt, act := .issue core slot } :: rest → core < 384 → slot < 4 →
    let s1 := { s with agenda := rest }
    let s' := { noteIssued (tick s1 (turnCycles s1 { dt := dt, act := .issue core slot })) core slot with focus := some (core, slot) }
    focusEx s' = some ex → issueRuns s' ex = true → fetchWord s' ex = .word t w → decodeWord w = .ok i → step s = exec i t) ∧
  (∀ s dt i rest, s.agenda = { dt := dt, act := .event i } :: rest → encode i = none →
    step s = exec i (tick { s with agenda := rest } dt)) ∧
  (∀ s, s.agenda = [] → ownTurn s = none → step s = .next (tick s 1)) ∧
  (∀ s t, s.agenda = [] → ownTurn s = some t → step s = takeTurn t s) ∧
  (∀ s n, (tick s n).clock = s.clock + n) ∧
  (∀ s n, s.dirty = [] → s.exchanges = [] → s.fireDue = [] → s.barWait = [] → s.linkWait = [] →
    tick s n = { s with clock := s.clock + n }) ∧
  (∀ s dt core slot, turnCycles s { dt := dt, act := .issue core slot } =
    if dt = 0 ∧ ∃ p ∈ (cycNow s).issued, p.1 = core ∧ slot ≤ p.2 then 1 else dt) ∧
  (∀ s core slot, (cycNow (noteIssued s core slot)).issued = (core, slot) :: (cycNow s).issued)

/-- A fetch from plain memory whose translation is at hand gives the eight bytes at the pc, lowest first, with the immediate that the patch
list names replaced by its parameter bytes; the rest of the word stays (R68, R73). -/
def Obligations.FetchReadsTheWordAndItsPatch : Prop :=
  (∀ s ex t xs, xlate s ex.core ex.car.asid (fetchAccess ex.pc) = (t, .ok xs) →
    (∀ p ∈ placesOf t xs, ∃ c a, p = .mem c a) → t.poison = [] →
    fetchWord s ex = .word t (overlay ex.car ex.pc (BitVec.ofNat 64 (leNat ((placesOf t xs).map (fun p =>
      match p with | .mem _ a => physRead t a | _ => 0)))))) ∧
  (∀ car pc w, patchAt car pc = none → overlay car pc w = w) ∧
  (∀ car pc w e, patchAt car pc = some e → getF e 32 4 = 0 →
    (overlay car pc w).extractLsb' 32 32 = w.extractLsb' 32 32 ∧ (overlay car pc w).extractLsb' 0 8 = w.extractLsb' 0 8 ∧
    (overlay car pc w).extractLsb' 8 24 = BitVec.ofNat 24 (patchValue car e 24)) ∧
  (∀ car pc w e, patchAt car pc = some e → getF e 32 4 = 1 →
    (overlay car pc w).extractLsb' 42 22 = w.extractLsb' 42 22 ∧ (overlay car pc w).extractLsb' 0 10 = w.extractLsb' 0 10 ∧
    (overlay car pc w).extractLsb' 10 32 = BitVec.ofNat 32 (patchValue car e 32))

/-- The memories of the package stay in canonical form: addresses rise, and no entry holds what an unlisted address reads as. The
bytes of dirty L2 sectors and the written control registers are listed in order too. -/
def Obligations.EveryStepKeepsMemoryCanonical : Prop :=
  ∀ s t, MemCanon s → step s = .next t → MemCanon t

/-- p0 of every fibre stays true, whatever is executed (R57). -/
def Obligations.EveryStepKeepsPredicateZeroTrue : Prop :=
  ∀ s t, PredZeroTrue s → step s = .next t → PredZeroTrue t

/-- The model's handles stay below the next one, so that a new fibre, cushion, frond or pending load is never mistaken for an old one. -/
def Obligations.EveryStepKeepsHandlesFresh : Prop :=
  ∀ s t, HandlesBelow s → step s = .next t → HandlesBelow t

/-- No step gives a fibre a second record or puts it into a second frond: fronds divide, merge and end, fibres park, resume, move and
retire, and the members of a frond stay resident members of its cushion (R33 to R36, R43, R343). -/
def Obligations.EveryStepKeepsFibresApart : Prop :=
  ∀ s t, HandlesBelow s → FibresApart s → step s = .next t → FibresApart t

/-- The reset state has the invariants, so that the runs from it do. -/
def Obligations.ResetHasTheInvariants : Prop :=
  MemCanon State.reset ∧ PredZeroTrue State.reset ∧ HandlesBelow State.reset ∧ FibresApart State.reset ∧
  (∀ n w, MemCanon (State.reset.withFetchWord n w) ∧ PredZeroTrue (State.reset.withFetchWord n w) ∧
    HandlesBelow (State.reset.withFetchWord n w) ∧ FibresApart (State.reset.withFetchWord n w))

namespace Sys2Proof.Stmt

open Sys2Proof.Machine Sys2Proof.Safety

/-! ## Floating point (R158 to R164) -/

/-- A float operation: the operands of its type, flushed (R126), an exact result, one rounding (R158, R159). -/
def rounded (t : FType) (r : FRnd) (op : Rnd → FV → FV → FV → FV × BitVec 5) : BitVec 4 → Fibre → List DWord → DWord × BitVec 5 :=
  fun fctl _ v =>
    let x := op (rndOf fctl r) (fRead fctl t (opv v 0)) (fRead fctl t (opv v 1)) (fRead fctl t (opv v 2))
    let y := roundTo (fInfo (fOf t)) (rndOf fctl r) false (fctl.getLsbD 3 && decide (t ≠ .f64)) x.1
    (BitVec.ofNat 64 y.1, x.2 ||| y.2)

/-- A packed operation on the 16-bit halves of 32-bit operands; the flags of both (R162). -/
def packed (bf : Bool) (r : FRnd) (op : Rnd → FV → FV → FV → FV × BitVec 5) : BitVec 4 → Fibre → List DWord → DWord × BitVec 5 :=
  fun fctl f v =>
    let lo := rounded (if bf then .bf16 else .f16) r op fctl f [opv v 0, opv v 1, opv v 2]
    let hi := rounded (if bf then .bf16 else .f16) r op fctl f [opv v 0 >>> 16, opv v 1 >>> 16, opv v 2 >>> 16]
    (lo.1 ||| hi.1 <<< 16, lo.2 ||| hi.2)

/-- The class bit of a value (R159 FCLASS). -/
def classBit (t : FType) : FV → Nat
  | .inf true => 0
  | .fin n 0 _ => if n then 3 else 4
  | .fin true m _ => if m < 2 ^ (fInfo (fOf t)).fb then 2 else 1
  | .fin false m _ => if m < 2 ^ (fInfo (fOf t)).fb then 5 else 6
  | .inf false => 7
  | .nan true => 8
  | .nan false => 9

/-- FALU and HPACK (R158, R159, R162). -/
inductive FaluRow : Instr → ValueRow → Prop
  | fadd h t r d a b : FaluRow (.fadd h t r d a b) ⟨h, [sW (fIs64 t) 1 a, sW (fIs64 t) 2 b], d, fIs64 t,
      rounded t r fun m a b _ => fvAdd m a b⟩
  | fsub h t r d a b : FaluRow (.fsub h t r d a b) ⟨h, [sW (fIs64 t) 1 a, sW (fIs64 t) 2 b], d, fIs64 t,
      rounded t r fun m a b _ => fvAdd m a b.neg⟩
  | fmul h t r d a b : FaluRow (.fmul h t r d a b) ⟨h, [sW (fIs64 t) 1 a, sW (fIs64 t) 2 b], d, fIs64 t,
      rounded t r fun _ a b _ => fvMul a b⟩
  | ffma h t r d a b c : FaluRow (.ffma h t r d a b c) ⟨h, [sW (fIs64 t) 1 a, sW (fIs64 t) 2 b, sW (fIs64 t) 3 c], d, fIs64 t,
      rounded t r fun m a b c => fvFma m a b c⟩
  | fmin h t d a b : FaluRow (.fmin h t d a b) ⟨h, [sW (fIs64 t) 1 a, sW (fIs64 t) 2 b], d, fIs64 t,
      rounded t .dyn fun _ a b _ => fvMinMax false a b⟩
  | fmax h t d a b : FaluRow (.fmax h t d a b) ⟨h, [sW (fIs64 t) 1 a, sW (fIs64 t) 2 b], d, fIs64 t,
      rounded t .dyn fun _ a b _ => fvMinMax true a b⟩
  | fdiv h t r d a b : FaluRow (.fdiv h t r d a b) ⟨h, [sW (fIs64 t) 1 a, sW (fIs64 t) 2 b], d, fIs64 t,
      rounded t r fun _ a b _ => fvDiv 60 a b⟩
  | fsqrt h t r d a : FaluRow (.fsqrt h t r d a) ⟨h, [sW (fIs64 t) 1 a], d, fIs64 t, rounded t r fun _ a _ _ => fvSqrt 60 a⟩
  | fclass h t d a : FaluRow (.fclass h t d a) ⟨h, [sW (fIs64 t) 1 a], d, false,
      fun fctl _ v => (BitVec.ofNat 64 (2 ^ classBit t (fRead fctl t (opv v 0))), 0)⟩
  | fscale h t r d a b : FaluRow (.fscale h t r d a b) ⟨h, [sW (fIs64 t) 1 a, s32 2 b], d, fIs64 t,
      fun fctl f v => rounded t r (fun _ a _ _ => fvScale a (lo32 (opv v 1)).toInt) fctl f v⟩
  | frnd h t r d a : FaluRow (.frnd h t r d a) ⟨h, [sW (fIs64 t) 1 a], d, fIs64 t, rounded t r fun m a _ _ => fvIntegral m a⟩
  | hadd2 h bf r d a b : FaluRow (.hadd2 h bf r d a b) ⟨h, [s32 1 a, s32 2 b], d, false, packed bf r fun m a b _ => fvAdd m a b⟩
  | hmul2 h bf r d a b : FaluRow (.hmul2 h bf r d a b) ⟨h, [s32 1 a, s32 2 b], d, false, packed bf r fun _ a b _ => fvMul a b⟩
  | hfma2 h bf r d a b c : FaluRow (.hfma2 h bf r d a b c) ⟨h, [s32 1 a, s32 2 b, s32 3 c], d, false,
      packed bf r fun m a b c => fvFma m a b c⟩

/-- FSPEC and CVT (R160, R163, R164): the value within the bound that the model leaves free in binary32 and binary64 is
`Config.fspecPick`'s. -/
inductive ConvRow : Instr → ValueRow → Prop
  | frcp h t d a : ConvRow (.frcp h t d a) ⟨h, [sW (fIs64 t) 1 a], d, fIs64 t, fun fctl _ v => fspecOp .rcp fctl t (opv v 0)⟩
  | frsq h t d a : ConvRow (.frsq h t d a) ⟨h, [sW (fIs64 t) 1 a], d, fIs64 t, fun fctl _ v => fspecOp .rsq fctl t (opv v 0)⟩
  | fexp2 h t d a : ConvRow (.fexp2 h t d a) ⟨h, [sW (fIs64 t) 1 a], d, fIs64 t, fun fctl _ v => fspecOp .exp2 fctl t (opv v 0)⟩
  | flog2 h t d a : ConvRow (.flog2 h t d a) ⟨h, [sW (fIs64 t) 1 a], d, fIs64 t, fun fctl _ v => fspecOp .log2 fctl t (opv v 0)⟩
  | fsin h t d a : ConvRow (.fsin h t d a) ⟨h, [sW (fIs64 t) 1 a], d, fIs64 t, fun fctl _ v => fspecOp .sin fctl t (opv v 0)⟩
  | fcos h t d a : ConvRow (.fcos h t d a) ⟨h, [sW (fIs64 t) 1 a], d, fIs64 t, fun fctl _ v => fspecOp .cos fctl t (opv v 0)⟩
  | cvt h dt st m sat d a : ConvRow (.cvt h dt st (.mode m) sat d a) ⟨h, [sW (fmtPair st) 1 a], d, fmtPair dt,
      fun fctl _ v => cvtVal dt st (rndOf fctl m) sat (opv v 0)⟩
  | cvtSr h dt st b sat d a : ConvRow (.cvt h dt st (.sr b) sat d a) ⟨h, [sW (fmtPair st) 1 a, s32 2 b], d, fmtPair dt,
      fun _ f v => cvtVal dt st (.sr (srhash (lo32 (opv v 1)) (BitVec.ofNat 32 f.idx)).toNat) sat (opv v 0)⟩

/-- The number (-1)^neg m 2^e. -/
def ratOf (neg : Bool) (m : Nat) (e : Int) : ℚ := (if neg then -1 else 1) * m * (2 : ℚ) ^ e

/-- y lies within `bound` units of the last place that v has in a format (R160). -/
def withinUlps (i : FInfo) (bound : Nat) (y v : ℚ) : Prop :=
  ∃ k : Int, (2 : ℚ) ^ k ≤ |v| ∧ |v| < (2 : ℚ) ^ (k + 1) ∧ |y - v| ≤ bound * (2 : ℚ) ^ (max k (1 - (i.bias : Int)) - i.fb)

/-- FRCP of a finite operand other than 0 in binary32 and binary64, without flushing: within 1 ulp of the exact quotient, exact and without
NX just where the format holds that; infinite only where the quotient lies within 1 ulp of the power of two beyond the largest finite
value, or above (R160). -/
def rcpBound (fctl : BitVec 4) (t : FType) (x : DWord) : Prop :=
  ∀ neg m e, fRead fctl t x = .fin neg m e → m ≠ 0 →
    let i := fInfo (fOf t)
    let r := fspecOp .rcp fctl t x
    match decVal (fOf t) r.1.toNat with
    | .fin n' m' e' =>
      withinUlps i 1 (ratOf n' m' e') (1 / ratOf neg m e) ∧ (r.2 &&& flNX = 0 ↔ ratOf n' m' e' = 1 / ratOf neg m e)
    | .inf n' => n' = neg ∧ (2 : ℚ) ^ ((i.bias : Int) + 1) - (2 : ℚ) ^ ((i.bias : Int) - i.fb) < |1 / ratOf neg m e| ∧ r.2 &&& flNX ≠ 0
    | .nan _ => False

/-- A binary32 result is one of the encodings from lo to hi, and inexact. -/
def f32Between (r : DWord × BitVec 5) (lo hi : Nat) : Prop := lo ≤ r.1.toNat ∧ r.1.toNat ≤ hi ∧ r.2 = flNX

/-- Values of the other functions within their bounds, with the encodings that lie within 1 or 2 ulp of 1/√2, √2, log2 3, sin(π/4) and cos(π/8)
counted by hand; exact cases; a correctly rounded 16-bit one, and 2^-30 in binary16, whose delivered zero is inexact and not tiny (R160, R125). -/
def fspecValues (fctl : BitVec 4) : Prop :=
  f32Between (fspecOp .rcp fctl .f32 0x40400000#64) 0x3EAAAAAA 0x3EAAAAAB ∧
  f32Between (fspecOp .rsq fctl .f32 0x40000000#64) 0x3F3504F3 0x3F3504F4 ∧
  f32Between (fspecOp .exp2 fctl .f32 0x3F000000#64) 0x3FB504F2 0x3FB504F5 ∧
  f32Between (fspecOp .log2 fctl .f32 0x40400000#64) 0x3FCAE00C 0x3FCAE00F ∧
  f32Between (fspecOp .sin fctl .f32 0x3E800000#64) 0x3F3504F2 0x3F3504F5 ∧
  f32Between (fspecOp .cos fctl .f32 0x3E000000#64) 0x3F6C835D 0x3F6C8360 ∧
  fspecOp .exp2 fctl .f32 0xC0400000#64 = (0x3E000000#64, 0) ∧ fspecOp .log2 fctl .f32 0x41000000#64 = (0x40400000#64, 0) ∧
  fspecOp .sin fctl .f32 0x3F000000#64 = (0x3F800000#64, 0) ∧ fspecOp .cos fctl .f32 0x3F800000#64 = (0xBF800000#64, 0) ∧
  fspecOp .rsq fctl .f64 0x4010000000000000#64 = (0x3FE0000000000000#64, 0) ∧ fspecOp .rcp fctl .f16 0x4200#64 = (0x3555#64, flNX) ∧
  fspecOp .exp2 fctl .f16 0xCF80#64 = (0#64, flNX)

/-- The integer that CVT reads from its source (R164). -/
def intIn (st : Fmt) (x : DWord) : Int :=
  match st with
  | .s64 => x.toInt
  | .n64 => x.toNat
  | .s32 => (x.setWidth 32).toInt
  | .n32 => (x.setWidth 32).toNat
  | .s16 => (x.setWidth 16).toInt
  | .n16 => (x.setWidth 16).toNat
  | .s8 => (x.setWidth 8).toInt
  | .n8 => (x.setWidth 8).toNat
  | _ => (x.setWidth 4).toInt

/-- The destination word of an integer: a signed narrow one extended to 32 bits (R164). -/
def intOut (dt : Fmt) (z : Int) : DWord :=
  match dt with
  | .s64 | .n64 => BitVec.ofInt 64 z
  | .s32 | .n32 => zext (BitVec.ofInt 32 z)
  | .s16 => zext ((BitVec.ofInt 16 z).signExtend 32)
  | .n16 => (BitVec.ofInt 16 z).setWidth 64
  | .s8 => zext ((BitVec.ofInt 8 z).signExtend 32)
  | .n8 => (BitVec.ofInt 8 z).setWidth 64
  | _ => zext ((BitVec.ofInt 4 z).signExtend 32)

/-- The least and the greatest integer of a format (R121). -/
def intRange : Fmt → Int × Int
  | .s64 => (-0x8000000000000000, 0x7FFFFFFFFFFFFFFF)
  | .n64 => (0, 0xFFFFFFFFFFFFFFFF)
  | .s32 => (-0x80000000, 0x7FFFFFFF)
  | .n32 => (0, 0xFFFFFFFF)
  | .s16 => (-0x8000, 0x7FFF)
  | .n16 => (0, 0xFFFF)
  | .s8 => (-0x80, 0x7F)
  | .n8 => (0, 0xFF)
  | _ => (-8, 7)

def intClamp (t : Fmt) (z : Int) : Int := max (intRange t).1 (min (intRange t).2 z)

/-- CVT into an integer: of an integer, clamped with .sat or cut; of a float with .rz, the integer part, or the nearest limit with NV; of a NaN
0 with NV (R131, R163, R164). -/
def cvtToInt (dt st : Fmt) (sat : Bool) (x : DWord) : Prop :=
  (st.isFloat = false → ∀ mode, cvtVal dt st mode sat x = (intOut dt (if sat then intClamp dt (intIn st x) else intIn st x), 0)) ∧
  (∀ neg m e, st.isFloat = true → decVal st x.toNat = .fin neg m e →
    let v := ratOf neg m e
    let z := if neg then -⌊-v⌋ else ⌊v⌋
    cvtVal dt st .rz sat x =
      (intOut dt (intClamp dt z), if intClamp dt z ≠ z then flNV else if (z : ℚ) ≠ v then flNX else 0)) ∧
  (∀ sig mode, st.isFloat = true → decVal st x.toNat = .nan sig → cvtVal dt st mode sat x = (0, flNV))

/-- The examples of R131 and R164. -/
def cvtExamples : Prop :=
  cvtVal .s32 .f32 .rz false 0xC02C0000#64 = (0xFFFFFFFE#64, flNX) ∧ cvtVal .s32 .f32 .rne false 0xC02C0000#64 = (0xFFFFFFFD#64, flNX) ∧
  cvtVal .n8 .f32 .rne false 0xC02C0000#64 = (0#64, flNV) ∧ cvtVal .s8 .f32 .rd false 0xC02C0000#64 = (0xFFFFFFFD#64, flNX) ∧
  cvtVal .e2m1 .f32 .rne false 0xC02C0000#64 = (0xD#64, flNX) ∧ cvtVal .f16 .f32 .rne false 0x3EA00000#64 = (0x3500#64, 0) ∧
  cvtVal .bf16 .f32 .rne false 0x3EA00000#64 = (0x3EA0#64, 0) ∧ cvtVal .e4m3 .f32 .rne false 0x3EA00000#64 = (0x2A#64, 0) ∧
  cvtVal .e5m2 .f32 .rne false 0x3EA00000#64 = (0x35#64, 0) ∧ (cvtVal .e2m1 .f32 .rne false 0x3EA00000#64).1 = 0x1#64 ∧
  cvtVal .e4m3 .f32 .rne false 0x43E60000#64 = (0x7E#64, flNX) ∧ cvtVal .e4m3 .f32 .rne false 0x43FA0000#64 = (0x7F#64, flOF ||| flNX) ∧
  cvtVal .e4m3 .f32 .rne true 0x43FA0000#64 = (0x7E#64, flOF ||| flNX) ∧
  cvtVal .bf16 .f32 (.sr (srhash 0 0).toNat) false 0x3F804000#64 = (0x3F81#64, flNX) ∧
  cvtVal .f64 .f32 .rne false 0x3EA00000#64 = (0x3FD4000000000000#64, 0) ∧ cvtVal .f32 .s32 .rne false 0x1000001#64 = (0x4B800000#64, flNX)

/-! ## Lane instructions (R185 to R189): a value from all occupied slots -/

/-- Operand A of the occupied slot j; nothing of an empty slot (R141, R186). -/
def slotA (ex : Ex) (srcs : List SrcU) (j : Nat) : Option DWord :=
  (ex.lanes.find? (fun f => f.lane == j)).map (fun f => opv (operands ex srcs f) 0)

/-- The tree of R141 over the 2^k slots from slot 2^k j. -/
def treeOf (op : RedOp) (t : RedTy) (mode : Rnd) (w : Nat → Option DWord) : Nat → Nat → Option DWord × BitVec 5
  | 0, j => (w j, 0)
  | k + 1, j =>
    let a := treeOf op t mode w k (2 * j)
    let b := treeOf op t mode w k (2 * j + 1)
    match a.1, b.1 with
    | some x, some y => let c := comb op t mode x y; (some c.1, a.2 ||| b.2 ||| c.2)
    | some x, none => (some x, a.2 ||| b.2)
    | none, y => (y, a.2 ||| b.2)

/-- The identity of R143. -/
def identityOf : RedOp → RedTy → DWord
  | .min, .s32 => 0x7FFFFFFF#64
  | .min, .n32 => 0xFFFFFFFF#64
  | .min, .f32 => 0x7F800000#64
  | .min, .f64 => 0x7FF0000000000000#64
  | .max, .s32 => 0x80000000#64
  | .max, .n32 => 0#64
  | .max, .f32 => 0xFF800000#64
  | .max, .f64 => 0xFFF0000000000000#64
  | .and, _ => 0xFFFFFFFF#64
  | .add, _ | .or, _ | .xor, _ => 0#64

def reduced (op : RedOp) (t : RedTy) (mode : Rnd) (w : Nat → Option DWord) : DWord × BitVec 5 :=
  let r := treeOf op t mode w 5 0
  (r.1.getD (identityOf op t), r.2)

/-- The slot that SHFL reads in slot i (R186). -/
def shflFrom : ShflMode → Nat → Nat → Nat
  | .idx, _, n => n % 32
  | .up, i, n => if n ≤ i then i - n else i
  | .down, i, n => if i + n ≤ 31 then i + n else i
  | .xor, i, n => i ^^^ (n % 32)

/-- A mask of occupied slots. -/
def maskOf (ex : Ex) (p : Fibre → Bool) : DWord := (ex.lanes.filter p).foldl (fun m f => m ||| BitVec.ofNat 64 (2 ^ f.lane)) 0#64

/-- SHFL, GATH, BALLOT, REDN, SCAN, CONFL (R186 to R189). -/
inductive LaneRow (ex : Ex) : Instr → ValueRow → Prop
  | shfl h m d a b : LaneRow ex (.shfl h m d a b) ⟨h, [s32 1 a, s32 2 b], d, false,
      fun _ f v => ((slotA ex [s32 1 a, s32 2 b] (shflFrom m f.lane (amount (opv v 1)))).getD 0, 0)⟩
  | gath h d a b : LaneRow ex (.gath h d a b) ⟨h, [s32 1 a, s32 2 b], d, false,
      fun _ _ v => ((slotA ex [s32 1 a, s32 2 b] (amount (opv v 1))).getD 0, 0)⟩
  | ballot h d a : LaneRow ex (.vote h (.ballot d) a) ⟨h, [], d, false, fun _ _ _ => (maskOf ex (fun f => getP f a.toNat), 0)⟩
  | redn h op t d a : LaneRow ex (.redn h op t d a) ⟨h, [sW (redW64 t) 1 a], d, redW64 t,
      fun fctl _ _ => reduced op t (rmOf fctl) (slotA ex [sW (redW64 t) 1 a])⟩
  | scan h op t excl d a : LaneRow ex (.scan h op t excl d a) ⟨h, [sW (redW64 t) 1 a], d, redW64 t,
      fun fctl f _ => reduced op t (rmOf fctl)
        (fun j => if j < f.lane ∨ j = f.lane ∧ excl = false then slotA ex [sW (redW64 t) 1 a] j else none)⟩
  | confl h d a : LaneRow ex (.confl h d a) ⟨h, [s32 1 a], d, false,
      fun _ f v => (maskOf ex (fun g => decide (g.lane < f.lane) && lo32 (opv (operands ex [s32 1 a] g) 0) == lo32 (opv v 0)), 0)⟩

end Sys2Proof.Stmt

namespace Sys2Proof.Stmt

open Sys2Proof.Machine Sys2Proof.Safety

/-! ## Comparisons and predicates (R154 to R157, R187) -/

/-- An instruction whose true slots each get a new predicate word, with flags. -/
structure PredRow where
  h : Hdr
  srcs : List SrcU
  val : BitVec 4 → Fibre → List DWord → BitVec 8 × BitVec 5

def PredRow.shape (r : PredRow) : Shape := Machine.shape r.srcs none
def PredRow.out (r : PredRow) (s : State) (ex : Ex) (f : Fibre) : BitVec 8 × BitVec 5 := r.val (fctlOf s f) f (operands ex r.srcs f)

/-- The predicate word with predicate d written; p0 discards writes (R57). -/
def withP (p : BitVec 8) (d : BitVec 3) (b : Bool) : BitVec 8 :=
  if d = 0#3 then p else if b then p ||| (1#8 <<< d.toNat) else p &&& ~~~(1#8 <<< d.toNat)

/-- The conditions of R98. -/
def holdsI (c : ICond) (w64 : Bool) (a b : DWord) : Bool :=
  match c with
  | .eq => decide (num w64 false a = num w64 false b)
  | .ne => decide (num w64 false a ≠ num w64 false b)
  | .lts => decide (num w64 true a < num w64 true b)
  | .les => decide (num w64 true a ≤ num w64 true b)
  | .gts => decide (num w64 true a > num w64 true b)
  | .ges => decide (num w64 true a ≥ num w64 true b)
  | .ltn => decide (num w64 false a < num w64 false b)
  | .len => decide (num w64 false a ≤ num w64 false b)
  | .gtn => decide (num w64 false a > num w64 false b)
  | .gen => decide (num w64 false a ≥ num w64 false b)

/-- The table of R155: the result and the invalid flag. -/
def holdsF (c : FCond) (a b : FV) : Bool × BitVec 5 :=
  let nan := a.isNan || b.isNan
  let ordered := decide (c = .lt) || decide (c = .le) || decide (c = .gt) || decide (c = .ge)
  (match c with
    | .eq => !nan && fvEq a b
    | .ne => nan || !fvEq a b
    | .lt => !nan && fvLt a b
    | .le => !nan && (fvLt a b || fvEq a b)
    | .gt => !nan && fvLt b a
    | .ge => !nan && (fvLt b a || fvEq b a)
    | .unord => nan
    | .ord => !nan,
   if a.isSig || b.isSig || nan && ordered then flNV else 0)

/-- ICMP, FCMP, PSET, PMOV.set, VOTE.any, VOTE.all and ELECT. -/
inductive PredOf (ex : Ex) : Instr → PredRow → Prop
  | icmp h c w64 d a b : PredOf ex (.icmp h c w64 d a b) ⟨h, [sW w64 1 a, sW w64 2 b],
      fun _ f v => (withP f.pred d (holdsI c w64 (opv v 0) (opv v 1)), 0)⟩
  | icmpImm h c d a imm : PredOf ex (.icmpImm h c d a imm) ⟨h, [s32 1 a],
      fun _ f v => (withP f.pred d (holdsI c false (opv v 0) (imm.signExtend 64)), 0)⟩
  | fcmp h c t d a b : PredOf ex (.fcmp h c t d a b) ⟨h, [sW (fIs64 t) 1 a, sW (fIs64 t) 2 b],
      fun fctl f v =>
        let r := holdsF c (fRead fctl t (opv v 0)) (fRead fctl t (opv v 1))
        (withP f.pred d r.1, r.2)⟩
  | pset h table d a b : PredOf ex (.pset h table d a b) ⟨h, [],
      fun _ f _ => (withP f.pred d (table.getLsbD (2 * (getP f a.toNat).toNat + (getP f b.toNat).toNat)), 0)⟩
  | pmovSet h a : PredOf ex (.pmovSet h a) ⟨h, [s32 1 a], fun _ _ v => ((opv v 0).setWidth 8 ||| 1#8, 0)⟩
  | voteAny h d a : PredOf ex (.vote h (.any d) a) ⟨h, [], fun _ f _ => (withP f.pred d (ex.lanes.any (fun g => getP g a.toNat)), 0)⟩
  | voteAll h d a : PredOf ex (.vote h (.all d) a) ⟨h, [], fun _ f _ => (withP f.pred d (ex.lanes.all (fun g => getP g a.toNat)), 0)⟩
  | elect h d : PredOf ex (.elect h d) ⟨h, [],
      fun _ f _ => (withP f.pred d (decide ((actives ex h).head?.map (·.lane) = some f.lane)), 0)⟩

/-- What a predicate instruction does: every member goes on at the next instruction; a true slot gets the new predicate word, and no
other; the flags are raised; the latches stay (R80, R83, R144, R154). -/
def PredDone (r : PredRow) (s : State) (ex : Ex) (t : State) : Prop :=
  (∀ f ∈ ex.lanes, ∃ g, getFibre t f.fid = some g ∧ g.pc = ex.pc + 8#64 ∧
    g.pred = (if guardOf r.h f then (r.out s ex f).1 else f.pred) ∧
    g.awFlags = (if guardOf r.h f && f.away then f.awFlags ||| (r.out s ex f).2 else f.awFlags)) ∧
  (∀ cid c, getCush s cid = some c → ∃ c', getCush t cid = some c' ∧
    c'.fsr = c.fsr ||| orAll (((actives ex r.h).filter (fun f => f.cush == cid && !f.away)).map (fun f => (r.out s ex f).2))) ∧
  runAfter ex r.h.er ex.latches t

/-- What it leaves unchanged, with no channel among its sources. -/
def PredFrame (s : State) (ex : Ex) (t : State) : Prop :=
  onlyRun s t ∧ othersStay s ex t ∧
  (∀ f ∈ ex.lanes, ∃ g, getFibre t f.fid = some g ∧ { g with pc := f.pc, pred := f.pred, awFlags := f.awFlags } = f) ∧
  (∀ cid, (getCush t cid).map (fun c => { c with fsr := 0, fsrNew := none }) =
    (getCush s cid).map (fun c => { c with fsr := 0, fsrNew := none }))

end Sys2Proof.Stmt

namespace Sys2Proof.Stmt

open Sys2Proof.Machine Sys2Proof.Safety

/-- The instructions that compute one value a lane, with what each reads: a lane instruction reads every occupied slot (R37, R185). -/
inductive ValueOf (ex : Ex) : Instr → ValueRow → Shape → Prop
  | ialu {i r} (h : IaluRow i r) : ValueOf ex i r r.shape
  | imm {i r} (h : ImmRow i r) : ValueOf ex i r r.shape
  | falu {i r} (h : FaluRow i r) : ValueOf ex i r r.shape
  | conv {i r} (h : ConvRow i r) : ValueOf ex i r r.shape
  | lane {i r} (h : LaneRow ex i r) : ValueOf ex i r { r.shape with across := true }

/-! ## Channel operands (R51, R85) -/

/-- How many source fields pop channel j. -/
def popsOf (sh : Shape) (j : Nat) : Nat := sh.srcs.countP (fun u => match u.src with | .h i true => i.toNat == j | _ => false)

/-- The channel a destination pushes to. -/
def pushOf (sh : Shape) (ws : Bool) : Option Nat :=
  match sh.dst with
  | some { dst := .h c, .. } => if ws then none else some c.toNat
  | _ => none

/-- A fibre, or what waking makes of it when it was parked at a channel. -/
def OrWoken (s : State) (f g : Fibre) : Prop :=
  g = f ∨ f.status = .parked ∧ (∃ c, f.wait = .chanPop c ∨ f.wait = .chanPush c) ∧ g = wakeFibre s f

/-- What an instruction with channel operands leaves unchanged: each channel of its cushion loses the entries that the fields pop, the
channel of the next stage gets the one entry pushed, and a fibre of another cushion can only wake from a wait on a channel. -/
def ChanFrame (sh : Shape) (ws : Bool) (entry : ChanEntry) (gd : Option Nat) (w64 : Bool) (s : State) (ex : Ex) (t : State) : Prop :=
  onlyRun s t ∧
  (∀ fid f, fid ∉ ex.lanes.map (·.fid) → getFibre s fid = some f → ∃ g, getFibre t fid = some g ∧ OrWoken s f g) ∧
  (∀ core slot, (core, slot) ≠ (ex.core, ex.slot) → getSlot t core slot = getSlot s core slot) ∧
  (getSlot t ex.core ex.slot).map slotRest = (getSlot s ex.core ex.slot).map slotRest ∧
  (∀ cid c, getCush s cid = some c → ∃ c', getCush t cid = some c' ∧
    cushRest { c' with chans := [] } (if cid = ex.cush.cid then gd else none) w64 =
      cushRest { c with chans := [] } (if cid = ex.cush.cid then gd else none) w64 ∧
    ∀ j, getD c'.chans j [] = (getD c.chans j []).drop (if cid = ex.cush.cid then popsOf sh j else 0) ++
      (if pushOf sh ws = some j ∧ (nextStage s ex.cush).map (·.cid) = some cid then [entry] else []))

/-- The cushion of the next stage is another cushion. -/
def stagesApart (s : State) (ex : Ex) : Prop := ∀ d, nextStage s ex.cush = some d → d.cid ≠ ex.cush.cid

end Sys2Proof.Stmt

open Sys2Proof Sys2Proof.Machine Sys2Proof.Safety Sys2Proof.Stmt

/-- IALU: every minor, at every type, operand class and guard, writes the result of R147, and the quotients, remainders, shifts and
bit fields are those of R148 and R149. No flag is raised. -/
def Obligations.IntegerResultsAreTheRules : Prop :=
  ∀ s ex i r, IaluRow i r → ready s ex r.h r.shape = true → ∃ t, exec i s = .next t ∧ ValueDone r s ex t

/-- IALUI, MOVI, MOVHI, ADDR and PMOV.get write the results of R150, R152, R153 and R157. -/
def Obligations.ImmediateConstantAndAddressResults : Prop :=
  ∀ s ex i r, ImmRow i r → ready s ex r.h r.shape = true → ∃ t, exec i s = .next t ∧ ValueDone r s ex t

/-- FALU and HPACK deliver one rounding of the exact result and raise its flags (R158, R159, R162). -/
def Obligations.FloatResultsAreRoundedOnce : Prop :=
  ∀ s ex i r, FaluRow i r → ready s ex r.h r.shape = true → ∃ t, exec i s = .next t ∧ ValueDone r s ex t

/-- FSPEC and CVT complete with the value and the flags of their operation (R160, R163, R164). Which value within the bound of R160
FSPEC delivers in binary32 and binary64 is the model's free value (log entry 3): FRCP of any operand and examples of the other functions lie
within it. CVT into an integer, and the spec's examples of CVT, have the values of R131, R163 and R164. -/
def Obligations.FunctionAndConversionResults : Prop :=
  (∀ s ex i r, ConvRow i r → ready s ex r.h r.shape = true → ∃ t, exec i s = .next t ∧ ValueDone r s ex t) ∧
  (∀ fctl t x, (t = .f32 ∨ t = .f64) → fctl.getLsbD 3 = false → rcpBound fctl t x) ∧ (∀ fctl, fspecValues fctl) ∧
  (∀ dt st sat x, dt.scalar = true → st.scalar = true → dt.isFloat = false → cvtToInt dt st sat x) ∧ cvtExamples

/-- SHFL, GATH, BALLOT, REDN, SCAN and CONFL compute from every occupied slot, whatever its guard, and write the true slots (R141, R143,
R185 to R189). -/
def Obligations.LaneResultsComeFromOccupiedSlots : Prop :=
  ∀ s ex i r, LaneRow ex i r → ready s ex r.h { r.shape with across := true } = true → ∃ t, exec i s = .next t ∧ ValueDone r s ex t

/-- ICMP, FCMP, PSET, PMOV.set, VOTE.any, VOTE.all and ELECT write one predicate word in each true slot, and p0 discards writes; the
latches stay (R154 to R157, R187). -/
def Obligations.ComparisonsWritePredicates : Prop :=
  ∀ s ex i r, PredOf ex i r → ready s ex r.h r.shape = true → ∃ t, exec i s = .next t ∧ PredDone r s ex t

/-- With no channel among the operands, an instruction that computes a value changes its destination registers in the true slots, the
flags, the pc of the members and the latches of its issue slot, and nothing else: no byte of memory, no control register, no other
fibre, frond, cushion or issue slot. -/
def Obligations.ValueInstructionsChangeNothingElse : Prop :=
  ∀ s ex i r sh, ValueOf ex i r sh → ready s ex r.h sh = true →
    noChan r.shape = true → ∃ t, exec i s = .next t ∧ ValueFrame r s ex t

/-- With no channel among the operands, ICMP, FCMP, PSET, PMOV.set, VOTE.any, VOTE.all and ELECT change the predicates of the true slots, the flags,
the pc of the members and nothing else (R154 to R157; VOTE and ELECT R185 to R187). -/
def Obligations.PredicateInstructionsChangeNothingElse : Prop :=
  ∀ s ex i r, PredOf ex i r → ready s ex r.h r.shape = true → noChan r.shape = true → ∃ t, exec i s = .next t ∧ PredFrame s ex t

/-- With channel operands: the entries popped leave the heads of the cushion's channels, the one entry pushed goes to the tail of the
channel of the next stage, the destination registers apart nothing else of a cushion changes, and of other fibres only those that waited at
a channel may wake (R51, R85). Where the consuming cushion has ended, the push completes and its entry is dropped: the model's choice (log
entry 19). -/
def Obligations.ChannelOperandsMoveOneEntryEach : Prop :=
  (∀ s ex i r sh, ValueOf ex i r sh → ready s ex r.h sh = true →
    stagesApart s ex → ∃ t, exec i s = .next t ∧ ChanFrame r.shape r.h.ws (r.entry s ex) (gDst r.h.ws r.dst) r.w64 s ex t ∧
      ∀ f ∈ ex.lanes, ∃ g f', OrWoken s f f' ∧ getFibre t f.fid = some g ∧
        fibreRest g (xDst r.h.ws r.dst) r.w64 = fibreRest f' (xDst r.h.ws r.dst) r.w64) ∧
  (∀ s ex i r, PredOf ex i r → ready s ex r.h r.shape = true → stagesApart s ex →
    ∃ t, exec i s = .next t ∧ ChanFrame r.shape r.h.ws ⟨[], 0, false⟩ none false s ex t ∧
      ∀ f ∈ ex.lanes, ∃ g f', OrWoken s f f' ∧ getFibre t f.fid = some g ∧
        { g with pc := f.pc, pred := f.pred, awFlags := f.awFlags } = { f' with pc := f.pc })

namespace Sys2Proof.Stmt

open Sys2Proof.Machine Sys2Proof.Safety

/-! ## Control flow, traps, fibres (R28, R34, R63 to R66, R166 to R184, R371) -/

/-- The frond in execution has the one member f, whose guard is true, and the instruction is ready. -/
def solo (s : State) (ex : Ex) (f : Fibre) (h : Hdr) (sh : Shape) : Prop := ready s ex h sh = true ∧ ex.lanes = [f]

def noShape : Shape := Machine.shape [] none
def heldShape : Shape := { Machine.shape [] none with held := true }
/-- RET reads x14 and x15 (R174). -/
def retShape : Shape := { Machine.shape [] none with more := [sBase 2 0 (.x 14)] }

/-- The package apart from its fibres and issue slots. -/
def sameOutside (s t : State) : Prop := { t with fibres := [], slots := [] } = { s with fibres := [], slots := [] }

/-- The one member becomes f', its run goes on or ends, and nothing else changes. -/
def Becomes (s : State) (ex : Ex) (f f' : Fibre) (ended : Bool) (t : State) : Prop :=
  getFibre t f.fid = some f' ∧ sameOutside s t ∧ othersStay s ex t ∧ runAfter ex ended ex.latches t

/-- The fibre has taken the precise trap of a syndrome: words 1 to 4 of the record are in FAULTINFO0 to 3, the return address is saved,
and it stands in handler mode at the handler (R168, R371). -/
def InHandler (s : State) (ex : Ex) (f : Fibre) (car : Carpet) (syn : Nat) (w3 : DWord) (det : Nat) (t : State) : Prop :=
  getFibre t f.fid = some { f with
    faultInfo := [ex.pc, fibreW2 s f, w3, BitVec.ofNat 64 (syn * 2 ^ 48 + det % 2 ^ 48)]
    retAddr := ex.pc + 8#64
    handler := true
    pc := codeBase car + BitVec.ofNat 64 car.ker.handler }

/-- What a trap leaves alone: memory, control registers, cushions, carpets, other fibres; the run has ended. -/
def TrapFrame (s : State) (ex : Ex) (t : State) : Prop :=
  { t with fibres := [], fronds := [], slots := [], nextId := 0 } = { s with fibres := [], fronds := [], slots := [], nextId := 0 } ∧
  (∀ fid, fid ∉ ex.lanes.map (·.fid) → getFibre t fid = getFibre s fid) ∧ runAfter ex true [] t

/-- The fibre has a handler to go to. -/
def traps (s : State) (f : Fibre) (car : Carpet) : Prop :=
  getCarpet s f.carpet = some car ∧ f.handler = false ∧ car.ker.handler ≠ 0xFFFFFFFF

/-- The fibre has left its frond and issue slot, and waits as its spore says (R39 to R43). -/
def Parks (s : State) (ex : Ex) (f : Fibre) (a : ParkArgs) (t : State) : Prop :=
  getFibre t f.fid = some (sporeOf s f a) ∧ (∀ x ∈ t.fronds, x.fr = ex.frond.fr → f.fid ∉ x.members) ∧ runAfter ex true [] t

/-- There is room for its spore (R404). -/
def roomFor (s : State) (f : Fibre) (a : ParkArgs) : Prop :=
  (makeRoom s f.core (asidOf s f.carpet) (sporeBytes (sporeOf s f a)) f.fid).isSome = true

def parkArgs (ex : Ex) (resume : DWord) (w : Wait) : ParkArgs :=
  { at_ := some ex.pc, resume := resume, wait := w, join := 1, dstG := 0, dstK := 0 }

/-- The members whose guard is false go on at the next instruction, and nothing else of them changes (R80, R82). -/
def FalseAdvance (s : State) (ex : Ex) (h : Hdr) (t : State) : Prop :=
  ∀ f ∈ ex.lanes, guardOf h f = false → getFibre t f.fid = some { f with pc := ex.pc + 8#64 }

/-- The record area of its core has room for the spore of every true slot, which stands in no spill area before (R46, R404). -/
def recordRoom (s : State) (ex : Ex) (h : Hdr) (a : ParkArgs) : Prop :=
  let s' := { s with spilled := s.spilled.filter (fun k => !(actives ex h).any (fun f => f.fid == k)) }
  ∀ f ∈ actives ex h, recordUse s' f.core + ((actives ex h).map (fun g => sporeBytes (sporeOf s g a))).sum ≤ recBytes s f.core

/-- Every true slot has left the frond and waits as its spore says; the run has ended (R39 to R43). -/
def AllPark (s : State) (ex : Ex) (h : Hdr) (a : ParkArgs) (t : State) : Prop :=
  runAfter ex true [] t ∧ ∀ f ∈ actives ex h, getFibre t f.fid = some (sporeOf s f a) ∧ ∀ x ∈ t.fronds, f.fid ∉ x.members

/-- The record area of its core has room for any spore of the fibre (R42, R404). -/
def largestFits (s : State) (f : Fibre) : Prop :=
  recordUse { s with spilled := s.spilled.filter (fun k => k != f.fid) } f.core + 1600 ≤ recBytes s f.core

/-- What spilled stays spilled, but for the members themselves, whose old spores are no more (R46). -/
def SpillStays (s : State) (ex : Ex) (t : State) : Prop := ∀ k, k ∉ ex.lanes.map (·.fid) → (k ∈ t.spilled ↔ k ∈ s.spilled)

/-- Only fibres, fronds and issue slots change, and of the fibres outside the frond only parked ones. -/
def ParkFrame (s : State) (ex : Ex) (t : State) : Prop :=
  { t with fibres := [], fronds := [], slots := [], nextId := 0, spilled := [] } =
    { s with fibres := [], fronds := [], slots := [], nextId := 0, spilled := [] } ∧ SpillStays s ex t ∧
  (∀ fid, fid ∉ ex.lanes.map (·.fid) → (∀ g, getFibre s fid = some g → g.status ≠ .parked) → getFibre t fid = getFibre s fid) ∧
  ∀ core slot, (core, slot) ≠ (ex.core, ex.slot) → getSlot t core slot = getSlot s core slot

/-- What BAR leaves of the rest: a cushion of which a fibre has gone away drops the clean words of its core's L1 (R182, R207, R233). -/
def BarFrame (s : State) (ex : Ex) (t : State) : Prop :=
  (ex.cush.roamed = false → ParkFrame s ex t) ∧
  { t with fibres := [], fronds := [], slots := [], nextId := 0, spilled := [], l1 := [], loads := [], meta_ := [] } =
    { s with fibres := [], fronds := [], slots := [], nextId := 0, spilled := [], l1 := [], loads := [], meta_ := [] } ∧ SpillStays s ex t ∧
  (∀ fid, fid ∉ ex.lanes.map (·.fid) → (∀ g, getFibre s fid = some g → g.status ≠ .parked) → getFibre t fid = getFibre s fid) ∧
  ∀ core slot, (core, slot) ≠ (ex.core, ex.slot) → getSlot t core slot = getSlot s core slot

/-- The free fibre indices of a cushion, the lowest first (R29). -/
def freeIdxs (s : State) (cid : Nat) : List Nat :=
  (List.range 1024).filter (fun n => s.fibres.all (fun g => g.cush != cid || g.task || g.idx != n))

/-- One of the true slots. -/
def isActive (ex : Ex) (h : Hdr) (g : Fibre) : Prop := ∃ f ∈ actives ex h, f.fid = g.fid

/-- Address of a branch: the pc and eight times the displacement (R172). -/
def target (ex : Ex) (disp : BitVec 24) : DWord := BitVec.ofInt 64 (ex.pc.toNat + 8 * disp.toInt)

/-- The call budget of a target, where the function table lists it (R70). -/
def budgetOf (car : Carpet) (t : DWord) : Option Nat :=
  (car.ker.funcs.find? (fun e => decide ((e.extractLsb' 0 32).setWidth 64 = t - codeBase car))).map (fun e => (e.extractLsb' 32 8).toNat)

/-- Number, width and privilege of the control registers (R63). -/
def csrWide (n : Nat) : Bool := decide (0x30 ≤ n ∧ n ≤ 0x32 ∨ 0x810 ≤ n ∧ n ≤ 0x813)
def csrAssigned (n : Nat) : Bool :=
  decide (n ≤ 1 ∨ 0x10 ≤ n ∧ n ≤ 0x17 ∨ 0x20 ≤ n ∧ n ≤ 0x22 ∨ 0x30 ≤ n ∧ n ≤ 0x32 ∨ n = 0x800 ∨ n = 0x801 ∨ 0x810 ≤ n ∧ n ≤ 0x813)
def csrPriv (n : Nat) : Bool := decide (0x800 ≤ n)

/-- FCTL as the instructions of this cycle use it: a value written in the cycle takes effect in the next (R65). -/
def modeNow (s : State) (c : Cushion) : BitVec 4 :=
  match c.fctlOld with
  | some (t, v) => if t = s.clock then v else c.fctl
  | none => c.fctl

/-- The flags that instructions have raised in FSR in this cycle (R64). -/
def flagsNow (s : State) (c : Cushion) : BitVec 5 :=
  match c.fsrNew with
  | some (t, v) => if t = s.clock then v else 0
  | none => 0

/-- The value of a control register for a fibre (R28, R45, R49, R60 to R66). -/
def csrIs (s : State) (ex : Ex) (f : Fibre) (n : Nat) : DWord :=
  let num (v : Nat) : DWord := BitVec.ofNat 64 v
  if n = 0 then (if f.away then f.awFlags else ex.cush.fsr).setWidth 64
  else if n = 1 then (if f.away then f.awFctl else ((getCush s f.cush).map (modeNow s)).getD 0).setWidth 64
  else if n < 0x18 then num (getD [f.idx, f.lane, ex.cush.pos, ex.cush.stage, ex.cush.px, ex.cush.py, ex.cush.pz, ex.car.id] (n - 0x10) 0)
  else if n < 0x23 then num (getD [0x8000 * f.lane + f.winOff, f.winSize, f.stcnt] (n - 0x20) 0)
  else if n = 0x30 then num s.clock
  else if n = 0x31 then num (ctlF s (offCTXMEM ex.car.asid + 8) 22 42 * 2 ^ 22)
  else if n = 0x32 then ex.car.pkt.param
  else if n = 0x800 then num ex.car.asid
  else if n = 0x801 then num (f.handler.toNat + 2 * f.away.toNat + 4 * (f.prio % 4) + 16 * (ex.car.pkt.prio % 4))
  else getD f.faultInfo (n - 0x810) 0

/-- CSRR as a value row. -/
def csrRow (s : State) (ex : Ex) (h : Hdr) (d : Dst) (n : Nat) : ValueRow := ⟨h, [], d, csrWide n, fun _ f _ => (csrIs s ex f n, 0)⟩

end Sys2Proof.Stmt

open Sys2Proof Sys2Proof.Machine Sys2Proof.Safety Sys2Proof.Stmt

/-- NOP only moves the members on; YIELD does so and ends the run (R167). -/
def Obligations.NopAndYieldOnlyAdvance : Prop :=
  ∀ s ex h, ready s ex h noShape = true →
    (∃ t, exec (.nop h) s = .next t ∧ (∀ f ∈ ex.lanes, getFibre t f.fid = some { f with pc := ex.pc + 8#64 }) ∧ sameOutside s t ∧
      othersStay s ex t ∧ runAfter ex h.er ex.latches t) ∧
    (∃ t, exec (.yield h) s = .next t ∧ (∀ f ∈ ex.lanes, getFibre t f.fid = some { f with pc := ex.pc + 8#64 }) ∧ sameOutside s t ∧
      othersStay s ex t ∧ runAfter ex true [] t)

/-- A frond none of whose guards is true does nothing but move on, whatever the instruction word; ER then ends the run (R80, R82). That CALL,
CALLX, RET and YIELD keep the run then is the model's choice (log entry 20). -/
def Obligations.FalseGuardsOnlyAdvance : Prop :=
  ∀ s ex i w, encode i = some w → focusEx s = some ex → (∀ f ∈ ex.lanes, guardOf (wordHdr w) f = false) →
    ∃ t, exec i s = .next t ∧ (∀ f ∈ ex.lanes, getFibre t f.fid = some { f with pc := ex.pc + 8#64 }) ∧ sameOutside s t ∧
      othersStay s ex t ∧ runAfter ex (wordHdr w).er ex.latches t

/-- TRAP enters the fibre's handler with syndrome 0x0001 and its code in W3. In handler mode, or with no handler, the trap ends the carpet:
an escalated record of class 2 is due (R168, R367, R371). -/
def Obligations.TrapEntersTheHandler : Prop :=
  ∀ s ex f h code car, solo s ex f h noShape →
    (traps s f car → ∃ t, exec (.trap h code) s = .next t ∧ InHandler s ex f car 1 (code.setWidth 64) 0 t ∧ TrapFrame s ex t) ∧
    (getCarpet s f.carpet = some car → (f.handler = true ∨ car.ker.handler = 0xFFFFFFFF) →
      ∃ t, exec (.trap h code) s = .next t ∧ (∀ c, getCarpet t f.carpet = some c → c.dead = true) ∧
        ∃ d, t.detects.getLast? = some d ∧ t.detects.dropLast = s.detects ∧ d.carpet = f.carpet ∧ d.rec_.cls = 2 ∧ d.rec_.syn = 1 ∧
          d.rec_.esc = true ∧ d.rec_.w1 = ex.pc ∧ d.rec_.w3 = code.setWidth 64 ∧ d.freeze = none)

/-- BRK parks the fibre behind the instruction when a debugger is attached to its context, and traps with syndrome 0x0002 otherwise
(R168). -/
def Obligations.BreakpointParksOrTraps : Prop :=
  ∀ s ex f h code, solo s ex f h noShape →
    (ctlB s offDBGCTL (16 + ex.car.asid) = true → roomFor s f (parkArgs ex (ex.pc + 8#64) .brk) →
      ∃ t, exec (.brk h code) s = .next t ∧ Parks s ex f (parkArgs ex (ex.pc + 8#64) .brk) t) ∧
    (∀ car, ctlB s offDBGCTL (16 + ex.car.asid) = false → traps s f car →
      ∃ t, exec (.brk h code) s = .next t ∧ InHandler s ex f car 2 (code.setWidth 64) 0 t ∧ TrapFrame s ex t)

/-- SYSC parks the fibre behind the instruction, with the granule of x0 to x3 saved, and queues one record of class 4 for its context with
the code and x0 to x3, none of which is poisoned (R169, R418). -/
def Obligations.SystemCallParksAndQueuesItsRecord : Prop :=
  ∀ s ex f h code, solo s ex f h { noShape with more := [sBase 4 0 (.x 0)] } →
    roomFor s f { parkArgs ex (ex.pc + 8#64) .sysc with dstG := 1 } →
    ∃ t, exec (.sysc h code) s = .next t ∧ Parks s ex f { parkArgs ex (ex.pc + 8#64) .sysc with dstG := 1 } t ∧
      ∃ q, t.queued.getLast? = some q ∧ t.queued.dropLast = s.queued ∧ q.queue = ex.car.asid ∧ q.hold = .sysc f.fid ∧
        q.rec_.cls = 4 ∧ q.rec_.syn = 0x500 ∧ q.rec_.asid = ex.car.asid ∧ q.rec_.w1 = ex.pc ∧ q.rec_.w2 = fibreW2 s f ∧
        q.rec_.w3 = code.setWidth 64 ∧ q.rec_.w6 = pair64 (getX f 0) (getX f 1) ∧ q.rec_.w7 = pair64 (getX f 2) (getX f 3)

/-- ERET leaves handler mode and goes on at the saved return address; outside handler mode it is the illegal use 0x010A (R170). -/
def Obligations.ReturnFromTrapRestoresTheAddress : Prop :=
  ∀ s ex f h, solo s ex f h noShape →
    (f.handler = true → ∃ t, exec (.eret h) s = .next t ∧ Becomes s ex f { f with handler := false, pc := f.retAddr } true t) ∧
    (∀ car, traps s f car → ∃ t, exec (.eret h) s = .next t ∧ InHandler s ex f car 0x10A 0 0 t ∧ TrapFrame s ex t)

/-- CSRR gives each fibre the value of its control register, at the register's width. A privileged register outside handler mode, and a
number that is not assigned, trap with 0x0109 (R63, R171). -/
def Obligations.ControlRegisterReads : Prop :=
  (∀ s ex h d (csr : BitVec 12), csrAssigned csr.toNat = true → (∀ f ∈ actives ex h, csrPriv csr.toNat = true → f.handler = true) →
    ready s ex h (csrRow s ex h d csr.toNat).shape = true →
    ∃ t, exec (.csrr h d csr) s = .next t ∧ ValueDone (csrRow s ex h d csr.toNat) s ex t ∧
      (noChan (csrRow s ex h d csr.toNat).shape = true → ValueFrame (csrRow s ex h d csr.toNat) s ex t)) ∧
  (∀ s ex f h d (csr : BitVec 12) car, solo s ex f h (csrRow s ex h d csr.toNat).shape → traps s f car →
    (csrAssigned csr.toNat = false → ∃ t, exec (.csrr h d csr) s = .next t ∧ InHandler s ex f car 0x109 (csr.setWidth 64) 0 t) ∧
    (csrAssigned csr.toNat = true → csrPriv csr.toNat = true →
      ∃ t, exec (.csrr h d csr) s = .next t ∧ InHandler s ex f car 0x109 (csr.setWidth 64) 2 t))

/-- CSRW writes the value of the highest true slot: to FSR together with the flags that other instructions raise in the cycle, to FCTL
unless it places 5 to 7 in RM, for the instructions from the next cycle on; every other register traps (R6, R64, R65, R171). -/
def Obligations.ControlRegisterWrites : Prop :=
  (∀ s ex h a (csr : BitVec 12) f, csr.toNat ≤ 1 → ready s ex h { Machine.shape [s32 1 a] none with held := true } = true →
    (actives ex h).getLast? = some f →
    ∃ t, exec (.csrw h a csr) s = .next t ∧
      (∀ g ∈ ex.lanes, ∃ g', getFibre t g.fid = some g' ∧ g'.pc = ex.pc + 8#64) ∧ runAfter ex h.er ex.latches t ∧
      ∃ c, getCush t ex.cush.cid = some c ∧
      let v := lo32 (opv (operands ex [s32 1 a] f) 0)
      (csr = 0#12 → c.fsr = v.setWidth 5 ||| flagsNow s ex.cush ∧ c.fctl = ex.cush.fctl ∧ modeNow t c = modeNow s ex.cush) ∧
      (csr = 1#12 → c.fsr = ex.cush.fsr ∧ modeNow t c = modeNow s ex.cush ∧
        c.fctl = (if (v.extractLsb' 0 3).toNat ≤ 4 then v.setWidth 4 else ex.cush.fctl) ∧
        ∀ u : State, u.clock ≠ s.clock → (v.extractLsb' 0 3).toNat ≤ 4 → modeNow u c = v.setWidth 4) ∧
      (noChan (Machine.shape [s32 1 a] none) = true → onlyRun s t ∧ othersStay s ex t ∧
        (∀ g ∈ ex.lanes, getFibre t g.fid = some { g with pc := ex.pc + 8#64 }) ∧
        { c with fsr := 0, fctl := 0, fctlOld := none } = { ex.cush with fsr := 0, fctl := 0, fctlOld := none } ∧
        ∀ cid, cid ≠ ex.cush.cid → getCush t cid = getCush s cid)) ∧
  (∀ s ex f h a (csr : BitVec 12) car, 1 < csr.toNat → solo s ex f h (Machine.shape [sW (csrWide csr.toNat) 1 a] none) → traps s f car →
    ∃ t, exec (.csrw h a csr) s = .next t ∧
      InHandler s ex f car 0x109 (csr.setWidth 64) (if csrAssigned csr.toNat then 1 else 0) t)

/-- BRA, CALL, BRX and RET: where the fibre goes, and what a call and a return do to x14, x15 and the frame word. A misaligned target of BRX,
RET or CALLX traps with 0x010E, and a callee that needs more granules than the window of a CALL has with 0x010C; no register changes
(R172, R174, R175, R389). -/
def Obligations.BranchesCallsAndReturns : Prop :=
  (∀ s ex f h disp, solo s ex f h noShape →
    ∃ t, exec (.bra h disp) s = .next t ∧ Becomes s ex f { f with pc := target ex disp } true t) ∧
  (∀ s ex f h disp, solo s ex f h noShape → (∀ b, budgetOf ex.car (target ex disp) = some b → b ≤ f.winSize) →
    ∃ t, exec (.call h disp) s = .next t ∧
      Becomes s ex f { setX64 f 14 f.frame with frame := ex.pc + 8#64, pc := target ex disp } true t) ∧
  (∀ s ex f h a, solo s ex f h (Machine.shape [s64 1 a] none) → (opv (operands ex [s64 1 a] f) 0).toNat % 8 = 0 →
    ∃ t, exec (.brx h a) s = .next t ∧ Becomes s ex f { f with pc := opv (operands ex [s64 1 a] f) 0 } true t) ∧
  (∀ s ex f h, solo s ex f h retShape → f.frame.toNat % 8 = 0 →
    ∃ t, exec (.ret h) s = .next t ∧ Becomes s ex f { f with pc := f.frame, frame := getX f 15 ++ getX f 14 } true t) ∧
  (∀ s ex f h car, traps s f car →
    (∀ a, solo s ex f h (Machine.shape [s64 1 a] none) → (opv (operands ex [s64 1 a] f) 0).toNat % 8 ≠ 0 →
      (∃ t, exec (.brx h a) s = .next t ∧ InHandler s ex f car 0x10E (opv (operands ex [s64 1 a] f) 0) 0 t ∧ TrapFrame s ex t) ∧
      (∃ t, exec (.callx h a) s = .next t ∧ InHandler s ex f car 0x10E (opv (operands ex [s64 1 a] f) 0) 0 t ∧ TrapFrame s ex t)) ∧
    (solo s ex f h retShape → f.frame.toNat % 8 ≠ 0 →
      ∃ t, exec (.ret h) s = .next t ∧ InHandler s ex f car 0x10E f.frame 0 t ∧ TrapFrame s ex t) ∧
    (∀ disp b, solo s ex f h noShape → budgetOf ex.car (target ex disp) = some b → f.winSize < b →
      ∃ t, exec (.call h disp) s = .next t ∧ InHandler s ex f car 0x10C (target ex disp) b t ∧ TrapFrame s ex t))

/-- A branch whose guards differ divides the frond: the true slots stand at the target, the others behind the branch, and no fibre stands in
two fronds of the frond's number (R34, R172). -/
def Obligations.BranchDividesTheFrond : Prop :=
  ∀ s ex h disp, ready s ex h noShape = true →
    ∃ t, exec (.bra h disp) s = .next t ∧
      (∀ f ∈ ex.lanes, getFibre t f.fid = some { f with pc := if guardOf h f then target ex disp else ex.pc + 8#64 }) ∧
      (∀ fid, fid ∉ ex.lanes.map (·.fid) → getFibre t fid = getFibre s fid) ∧ runAfter ex true [] t ∧
      (∀ f ∈ ex.lanes, guardOf h f = false → ∃ x ∈ t.fronds, x.fr = ex.frond.fr ∧ f.fid ∈ x.members) ∧
      (∀ f ∈ ex.lanes, ∀ g ∈ ex.lanes, guardOf h f = true → guardOf h g = false →
        (∃ x ∈ t.fronds, x.fr = s.nextId + 1 ∧ x.age = ex.frond.age ∧ f.fid ∈ x.members) ∧
        ∀ x ∈ t.fronds, x.fr = ex.frond.fr → x.fr ≠ s.nextId + 1 → f.fid ∉ x.members)

/-- CALLX and RESIZE grow a window in place where the bank has room (a window that does not grow always has), keeping the registers that fit, and
otherwise park the fibre at the instruction until the larger window is free (R62, R175, R176). -/
def Obligations.WindowsGrowInPlaceOrPark : Prop :=
  (∀ s ex f h a, solo s ex f h (Machine.shape [s64 1 a] none) →
    let v := opv (operands ex [s64 1 a] f) 0
    let n := max f.winSize ((budgetOf ex.car v).getD 0)
    v.toNat % 8 = 0 → f.status = .resident →
    (growRoom s f n = true → ∃ t, exec (.callx h a) s = .next t ∧ ∃ g, getFibre t f.fid = some g ∧ Becomes s ex f g true t ∧ g.pc = v ∧ g.frame = ex.pc + 8#64 ∧
      g.winSize = n ∧ g.winOff = f.winOff ∧ getX g 14 = lo32 f.frame ∧ getX g 15 = hi32 f.frame ∧
      ∀ i, i < 16 * n → i ≠ 14 → i ≠ 15 → getX g i = getX f i) ∧
    (growRoom s f n = false → roomFor s f (parkArgs ex ex.pc (.window n)) →
      ∃ t, exec (.callx h a) s = .next t ∧ Parks s ex f (parkArgs ex ex.pc (.window n)) t)) ∧
  (∀ s ex f h (n : BitVec 5), solo s ex f h noShape → 1 ≤ n.toNat → n.toNat ≤ 16 → f.status = .resident →
    (growRoom s f n.toNat = true → ∃ t, exec (.resize h n) s = .next t ∧ ∃ g, getFibre t f.fid = some g ∧ Becomes s ex f g h.er t ∧ g.pc = ex.pc + 8#64 ∧
      g.winSize = n.toNat ∧ g.winOff = f.winOff ∧ ∀ i, i < 16 * n.toNat → getX g i = getX f i) ∧
    (growRoom s f n.toNat = false → roomFor s f (parkArgs ex ex.pc (.window n.toNat)) →
      ∃ t, exec (.resize h n) s = .next t ∧ Parks s ex f (parkArgs ex ex.pc (.window n.toNat)) t)) ∧
  (∀ s ex f h (n : BitVec 5) car, solo s ex f h noShape → traps s f car → (n.toNat = 0 ∨ 16 < n.toNat) →
    ∃ t, exec (.resize h n) s = .next t ∧ InHandler s ex f car 0x10B 0 n.toNat t)

/-- FORK completes at every true slot, in any number of slots: each, in ascending slots, makes a ready sibling at the lowest free index, with x0
the operand and x1 the creator's index, and sets its predicate; a slot that finds all 1,024 indices taken clears its predicate and makes
none. The run ends. The condition on the state is room for the siblings' spores (R29, R178, R404). -/
def Obligations.ForkMakesASibling : Prop :=
  ∀ s ex h disp a e, HandlesBelow s → FibresApart s → ready s ex h (Machine.shape [s32 1 a] none) = true →
    let m := (actives ex h).length
    let free := freeIdxs s ex.cush.cid
    recordUse s ex.cush.core + 128 * m ≤ recBytes s ex.cush.core →
    ∃ t, exec (.fork h disp a e) s = .next t ∧ runAfter ex true [] t ∧ FalseAdvance s ex h t ∧
      t.fibres.length = s.fibres.length + min m free.length ∧
      (∀ k f, (actives ex h)[k]? = some f →
        getFibre t f.fid = some { f with pc := ex.pc + 8#64, pred := withP f.pred e (decide (k < free.length)) } ∧
        ∀ n, free[k]? = some n → ∃ g, t.fibres[s.fibres.length + k]? = some g ∧ g.fid = s.nextId + k ∧ g.cush = ex.cush.cid ∧
          g.carpet = ex.cush.carpet ∧ g.idx = n ∧ g.lane = n % 32 ∧ g.status = .ready ∧ g.task = false ∧ g.pc = target ex disp ∧
          g.winSize = f.winSize ∧ g.age = s.clock ∧ g.prio = ex.car.pkt.prio ∧
          getX g 0 = lo32 (opv (operands ex [s32 1 a] f) 0) ∧ getX g 1 = BitVec.ofNat 32 f.idx ∧ (∀ i, 1 < i → getX g i = 0) ∧
          g.pred = 1#8 ∧ g.frame = 0#64 ∧ g.stcnt = 0 ∧ g.handler = false) ∧
      (noChan (Machine.shape [s32 1 a] none) = true → { t with fibres := [], slots := [], nextId := 0 } = { s with fibres := [], slots := [], nextId := 0 } ∧
        ∀ fid, fid < s.nextId → fid ∉ ex.lanes.map (·.fid) → getFibre t fid = getFibre s fid)

/-- EXIT: the fibre is no more, its unacknowledged stores count for its cushion, and its window is free (R31, R177). -/
def Obligations.ExitRetiresTheFibre : Prop :=
  ∀ s ex f h c, solo s ex f h noShape → getCush s f.cush = some c →
    ∃ t, exec (.exit h) s = .next t ∧ getFibre t f.fid = none ∧
      (∃ c', getCush t f.cush = some c' ∧ c'.retired = c.retired + f.stcnt ∧
        (f.away = true → c'.fsr = c.fsr ||| f.awFlags) ∧ (f.away = false → c'.fsr = c.fsr)) ∧
      (∀ x ∈ t.fronds, x.fr = ex.frond.fr → f.fid ∉ x.members) ∧ runAfter ex true [] t ∧
      ∀ bank, windowsOn t f.core bank = windowsOn { s with fibres := s.fibres.filter (fun g => g.fid != f.fid) } f.core bank

/-- BAR and REFORM complete at every true slot: each parks behind the instruction, and goes on when all have arrived. At BAR n the live fibres
at home are waited for; once every one has arrived at n, all are ready again, and where a fibre of the cushion has gone away the L1 keeps
only dirty words, which is the model's choice (log entry 42). At REFORM the live fibres of the same home frond are waited for; once every one
has arrived at it, all are ready, as one group that resumes as one frond. The condition on the state is room for the spores (R36, R46, R182,
R183). -/
def Obligations.BarriersHoldUntilAllArrive : Prop :=
  (∀ s ex h (n : BitVec 2), HandlesBelow s → FibresApart s → ready s ex h heldShape = true →
    let a := parkArgs ex (ex.pc + 8#64) (.bar n.toNat)
    let home := (cushFibres s ex.cush.cid).filter (fun g => !g.away)
    recordRoom s ex h a →
    ∃ t, exec (.bar h n) s = .next t ∧ FalseAdvance s ex h t ∧ BarFrame s ex t ∧ runAfter ex true [] t ∧
      ((∃ g ∈ home, ¬ isActive ex h g ∧ g.wait ≠ .bar n.toNat) → AllPark s ex h a t) ∧
      ((∀ g ∈ home, isActive ex h g ∨ g.wait = .bar n.toNat) →
        (ex.cush.roamed = true → ∀ l ∈ t.l1, l.core = ex.cush.core → (∀ g ∈ home, g.core = l.core) → l.valid &&& l.dirty = l.valid) ∧
        (∀ f ∈ actives ex h, getFibre t f.fid = some (wakeFibre s (sporeOf s f a)) ∧ (wakeFibre s (sporeOf s f a)).status = .ready) ∧
        ∀ g ∈ home, ¬ isActive ex h g → g.status = .parked → getFibre t g.fid = some (wakeFibre s g))) ∧
  (∀ s ex h, HandlesBelow s → FibresApart s → ready s ex h heldShape = true →
    let a := parkArgs ex (ex.pc + 8#64) .reform
    let mates (f : Fibre) := (cushFibres s ex.cush.cid).filter (fun g => g.idx / 32 == f.idx / 32)
    recordRoom s ex h a →
    ∃ t, exec (.reform h) s = .next t ∧ FalseAdvance s ex h t ∧ ParkFrame s ex t ∧ runAfter ex true [] t ∧
      ∀ f ∈ actives ex h,
        ((∃ g ∈ mates f, ¬ isActive ex h g ∧ g.wait ≠ .reform) → getFibre t f.fid = some (sporeOf s f a)) ∧
        ((∀ g ∈ mates f, isActive ex h g ∨ (g.wait = .reform ∧ g.status = .parked ∧ g.pc = ex.pc + 8#64)) →
          ∃ k, s.nextId ≤ k ∧ (wakeFibre s (sporeOf s f a)).status = .ready ∧
            getFibre t f.fid = some { wakeFibre s (sporeOf s f a) with group := some k } ∧
            ∀ g ∈ mates f, ∃ g', getFibre t g.fid = some g' ∧ g'.group = some k ∧ g'.wait = .none ∧ g'.pc = ex.pc + 8#64))

/-- A true slot that uses an operand illegally takes a precise trap with a syndrome of 0x0101 to 0x0107 and nothing of the instruction
happens: an x register beyond the window, an odd pair, an empty latch, a channel that the kernel does not declare, a g register while
away (R168, R371, R379, R388). A register just inside the window is no fault: the instruction then completes as the other statements say. -/
def Obligations.IllegalOperandsTrap : Prop :=
  (∀ s ex f i r car, (IaluRow i r ∨ ImmRow i r ∨ FaluRow i r ∨ ConvRow i r ∨ LaneRow ex i r) → focusEx s = some ex → ex.lanes = [f] →
    guardOf r.h f = true → laneOk ex r.h r.shape f = false → traps s f car →
    ∃ t, exec i s = .next t ∧ TrapFrame s ex t ∧ ∃ g, getFibre t f.fid = some g ∧ g.handler = true ∧
      g.pc = codeBase car + BitVec.ofNat 64 car.ker.handler ∧ g.retAddr = ex.pc + 8#64 ∧ g.x = f.x ∧ g.pred = f.pred ∧
      getD g.faultInfo 0 0 = ex.pc ∧ getD g.faultInfo 2 0 = wordOf i ∧
      0x101 ≤ (getD g.faultInfo 3 0).toNat / 2 ^ 48 ∧ (getD g.faultInfo 3 0).toNat / 2 ^ 48 ≤ 0x107) ∧
  (∀ s ex f h m car, focusEx s = some ex → ex.lanes = [f] → guardOf h f = true → traps s f car →
    let mov (a : Src) : Instr := .mov h m .none a
    let n := if m.w64 then 2 else 1
    (∀ k : BitVec 8, m.w64 = true → k.toNat % 2 = 1 →
      ∃ t, exec (mov (.x k)) s = .next t ∧ InHandler s ex f car 0x103 (wordOf (mov (.x k))) 1 t) ∧
    (∀ k : BitVec 8, k.toNat % n = 0 → 16 * f.winSize < k.toNat + n →
      ∃ t, exec (mov (.x k)) s = .next t ∧ InHandler s ex f car 0x102 (wordOf (mov (.x k))) (1 + 256 * max k.toNat (16 * f.winSize)) t) ∧
    (∀ k : BitVec 2, (latchVal ex k.toNat f.lane).isNone = true →
      ∃ t, exec (mov (.b k)) s = .next t ∧ InHandler s ex f car 0x104 (wordOf (mov (.b k))) (1 + 256 * k.toNat) t) ∧
    (∀ k p, m.w64 = false → ex.car.ker.chMask.getLsbD k.toNat = false →
      ∃ t, exec (mov (.h k p)) s = .next t ∧ InHandler s ex f car 0x105 (wordOf (mov (.h k p))) (1 + 3 * 256 + 65536 * k.toNat) t) ∧
    (∀ k p, m.w64 = true → ∃ t, exec (mov (.h k p)) s = .next t ∧ InHandler s ex f car 0x101 (wordOf (mov (.h k p))) 1 t) ∧
    (∀ k : BitVec 6, k.toNat % n = 0 → f.away = true →
      ∃ t, exec (mov (.g k)) s = .next t ∧ InHandler s ex f car 0x107 (wordOf (mov (.g k))) 0 t))

/-- A read of an empty channel and a push to a full one park the fibre at the instruction, to try again; a queue is full at its declared
depth, of which 0 means 16 (R39, R67, R85). -/
def Obligations.ChannelsMakeTheirUsersWait : Prop :=
  (∀ s ex f h m d c p, m.w64 = false → focusEx s = some ex → ex.lanes = [f] → guardOf h f = true →
    laneOk ex h (Machine.shape [s32 1 (.h c p)] (some (dW false d))) f = true →
    getD ex.cush.chans c.toNat [] = [] → roomFor s f (parkArgs ex ex.pc (.chanPop c.toNat)) →
    ∃ t, exec (.mov h m d (.h c p)) s = .next t ∧ Parks s ex f (parkArgs ex ex.pc (.chanPop c.toNat)) t) ∧
  (∀ s ex f h m a c n, m.w64 = false → focusEx s = some ex → ex.lanes = [f] → guardOf h f = true → h.ws = false →
    laneOk ex h (Machine.shape [s32 1 a] (some (dW false (.h c)))) f = true →
    soundReads ex h (Machine.shape [s32 1 a] (some (dW false (.h c)))) = true →
    (∀ k p, a = .h k p → getD ex.cush.chans k.toNat [] ≠ []) → nextStage s ex.cush = some n →
    (if getD ex.car.ker.chDepth c.toNat 0 = 0 then 16 else getD ex.car.ker.chDepth c.toNat 0) ≤ (getD n.chans c.toNat []).length →
    roomFor s f (parkArgs ex ex.pc (.chanPush c.toNat)) →
    ∃ t, exec (.mov h m (.h c) a) s = .next t ∧ Parks s ex f (parkArgs ex ex.pc (.chanPush c.toNat)) t ∧ t.cushions = s.cushions)

namespace Sys2Proof.Stmt

open Sys2Proof.Machine Sys2Proof.Safety

/-! ## Near memory and the vault window (R60, R61, R88, R197, R199, R243, R244, R248, R249, R252, R253) -/

/-- Bytes of an access, and the registers its data takes (R88, R244). -/
def accBytes : MSize → Nat
  | .n8 | .s8 => 1
  | .n16 | .s16 => 2
  | .w32 => 4
  | .w64 => 8
  | .w128 => 16
def dataWords : MSize → Nat
  | .w64 => 2
  | .w128 => 4
  | _ => 1

/-- The value of loaded bytes, the lowest address first, in its registers (R244). -/
def memValue (sz : MSize) (bs : List Byte) : DWord :=
  match sz with
  | .s8 => cut false (BitVec.ofNat 8 (ofBytes bs)).toInt
  | .s16 => cut false (BitVec.ofNat 16 (ofBytes bs)).toInt
  | _ => BitVec.ofNat 64 (ofBytes bs)

/-- The bytes of DATA that a store writes: the low bytes of a value, or four registers (R244). -/
def dataBytes (f : Fibre) (sz : MSize) (data : Src) (v : DWord) : List Byte :=
  match sz, data with
  | .w128, .x i => (List.range 16).map (fun j => (getX f (i.toNat + j / 4)).extractLsb' (8 * (j % 4)) 8)
  | _, _ => (List.range (accBytes sz)).map (fun j => v.extractLsb' (8 * j) 8)

/-- The near address: 32 bits of the base plus the displacement (R243). -/
def nearOf (base : DWord) (d : Int) : Nat := (BitVec.ofInt 32 ((lo32 base).toNat + d)).toNat

/-- The bytes of a near access, if all are legal. -/
def nearCells (s : State) (ex : Ex) (win : Bool) (base : DWord) (d : Int) (sz : MSize) : Option (List NearAt) :=
  nearBytes s ex win (nearOf base d) (accBytes sz)

def nearValues (s : State) (ex : Ex) (o : Option (List NearAt)) : List Byte := (o.getD []).map (nearGet s ex)

/-- The shapes of the near accesses. -/
def ldsShape (sz : MSize) (d : Dst) (base : Src) : Shape :=
  { Machine.shape [sBase 1 6 base] (some { field := 5, dst := d, words := dataWords sz, chan := false, xOnly := false }) with held := true }
def stsShape (sz : MSize) (data base : Src) : Shape := { Machine.shape [sNoChan (dataWords sz) 5 data, sBase 1 6 base] none with held := true }
/-- CAS reads its DATA register too (R253). -/
def casData (op : Aop) (sz : MSize) : Dst → List SrcU
  | .x i => if op = .cas then [sNoChan (dataWords sz) 5 (.x i)] else []
  | _ => []
def atomsShape (op : Aop) (sz : MSize) (d : Dst) (base b : Src) : Shape :=
  { Machine.shape [sNoChan (dataWords sz) 2 b, sBase 1 6 base] (some { field := 5, dst := d, words := dataWords sz, chan := false, xOnly := false })
    with held := true, more := casData op sz d }

/-- LDS of up to 64 bits as a value row. -/
def ldsRow (s : State) (ex : Ex) (h : Hdr) (sz : MSize) (win : Bool) (d : Dst) (base : Src) (imm : BitVec 24) : ValueRow :=
  ⟨h, [sBase 1 6 base], d, decide (sz = .w64), fun _ _ v => (memValue sz (nearValues s ex (nearCells s ex win (opv v 0) imm.toInt sz)), 0)⟩

/-- No byte of a near access lies in a poisoned word (R418). -/
def nearSound (s : State) (ex : Ex) (o : Option (List NearAt)) : Prop := ∀ p ∈ o.getD [], nearBad s ex p = false

/-- The bytes of the word that a byte of the unified store lies in. -/
def nearWord : NearAt → List NearAt
  | .scratch o => (List.range 4).map (fun j => .scratch (o / 4 * 4 + j))
  | .reg fid i _ => (List.range 4).map (fun j => .reg fid i j)

/-- A word of the unified store stays poisoned unless one of some writes covers it whole (R418). -/
def staysBad (s : State) (ex : Ex) (writes : List (List NearAt)) (p : NearAt) : Bool :=
  nearBad s ex p && !(writes.any (fun w => (nearWord p).all (w.contains ·)))

/-- The header as a 128-bit load uses it: it produces no result and ignores WS (R81, R83). -/
def noWs (h : Hdr) : Hdr := { h with ws := false }

/-- A 128-bit load has put its bytes into four registers of each true slot, or of the cushion from the highest true slot, and changed
nothing else (R165, R244). -/
def QuadDone (s : State) (ex : Ex) (h : Hdr) (d : Dst) (bytes : Fibre → List Byte) (t : State) : Prop :=
  onlyRun s t ∧ othersStay s ex t ∧ runAfter ex h.er ex.latches t ∧
  (∀ f ∈ ex.lanes, ∃ g, getFibre t f.fid = some g ∧ { g with x := f.x, bad := f.bad } = { f with pc := ex.pc + 8#64 } ∧
    (guardOf h f = false → g.x = f.x ∧ g.bad = f.bad)) ∧
  (∀ i, d = .x i → t.cushions = s.cushions ∧ ∀ f ∈ actives ex h, ∃ g, getFibre t f.fid = some g ∧
    (∀ k, k ∈ g.bad ↔ k ∈ f.bad ∧ (k < i.toNat ∨ i.toNat + 4 ≤ k)) ∧
    (∀ j, j < 4 → getX g (i.toNat + j) = BitVec.ofNat 32 (ofBytes (((bytes f).drop (4 * j)).take 4))) ∧
    ∀ k, (k < i.toNat ∨ i.toNat + 4 ≤ k) → getX g k = getX f k) ∧
  (∀ i, d = .g i → (∀ f ∈ ex.lanes, ∃ g, getFibre t f.fid = some g ∧ g.x = f.x ∧ g.bad = f.bad) ∧
    ∃ c, getCush t ex.cush.cid = some c ∧ { c with g := ex.cush.g } = ex.cush ∧
    (∀ f, (actives ex h).getLast? = some f → ∀ j, j < 4 → getD c.g (i.toNat + j) 0 = BitVec.ofNat 32 (ofBytes (((bytes f).drop (4 * j)).take 4))) ∧
    ∀ k, (k < i.toNat ∨ i.toNat + 4 ≤ k) → getD c.g k 0 = getD ex.cush.g k 0)

/-- The bytes that the true slots of an STS write, in ascending slots. -/
def stsWrites (s : State) (ex : Ex) (h : Hdr) (sz : MSize) (win : Bool) (data base : Src) (imm : BitVec 24) : List (NearAt × Byte) :=
  (actives ex h).flatMap (fun f =>
    let v := operands ex (stsShape sz data base).srcs f
    ((nearCells s ex win (opv v 1) imm.toInt sz).getD []).zip (dataBytes f sz data (opv v 0)))

/-- Of an STS: every byte of the unified store reads as last written, or as before, and a word written whole is sound; nothing but the written
scratch and registers, the pc of the members and the run changes. -/
def NearStored (s : State) (ex : Ex) (ws : List (NearAt × Byte)) (cells : List (List NearAt)) (t : State) : Prop :=
  (∀ p, nearGet t ex p = ((ws.reverse.find? (fun w => w.1 == p)).map (·.2)).getD (nearGet s ex p)) ∧
  (∀ p, nearBad t ex p = staysBad s ex cells p) ∧ runless t = runless s ∧
  (∀ cid c, getCush s cid = some c → ∃ c', getCush t cid = some c' ∧ { c' with scratch := c.scratch, bad := c.bad } = c ∧
    (cid ≠ ex.cush.cid → c' = c)) ∧
  (∀ fid f, getFibre s fid = some f → ∃ g, getFibre t fid = some g ∧ { g with x := f.x, bad := f.bad, pc := f.pc } = f ∧
    (fid ∉ ex.lanes.map (·.fid) → g.pc = f.pc)) ∧
  (∀ core slot, (core, slot) ≠ (ex.core, ex.slot) → getSlot t core slot = getSlot s core slot)

/-- The new value of an atomic on n bytes, with its flags (R253). -/
def rmwNew (op : Aop) (n : Nat) (old b cmp : BitVec (8 * n)) : BitVec (8 * n) × BitVec 5 :=
  match op with
  | .add => (old + b, 0)
  | .mins => (if b.slt old then b else old, 0)
  | .maxs => (if old.slt b then b else old, 0)
  | .minn => (if b < old then b else old, 0)
  | .maxn => (if old < b then b else old, 0)
  | .and => (old &&& b, 0)
  | .or => (old ||| b, 0)
  | .xor => (old ^^^ b, 0)
  | .exch => (b, 0)
  | .cas => (if old = cmp then b else old, 0)
  | .fadd =>
    let i := fInfo (if n = 8 then .f64 else .f32)
    let x := fvAdd .rne (decFloat i old.toNat) (decFloat i b.toNat)
    let y := roundTo i .rne false false x.1
    (BitVec.ofNat _ y.1, x.2 ||| y.2)

/-- DATA on entry: the compare value of CAS (R253). Of a CAS whose DATA names no register no rule gives one: a free value, here the k-th from the
oracle (log entry 37). -/
def dataEntry (s : State) (ex : Ex) (k : Nat) (f : Fibre) (sz : MSize) (d : Dst) : DWord :=
  match d with
  | .x i => if dataWords sz = 2 then getX64 f i.toNat else zext (getX f i.toNat)
  | .g i => if dataWords sz = 2 then pair64 (getD ex.cush.g i.toNat 0) (getD ex.cush.g (i.toNat + 1) 0) else zext (getD ex.cush.g i.toNat 0)
  | _ => Config.freeValue (s.oracle + k)

/-- The read-modify-writes of the true slots, one after the other: each slot's old value and flags, and the bytes at the end. -/
def rmwRun (cells : Fibre → List NearAt) (new : Nat → Fibre → DWord → DWord × BitVec 5) (n : Nat) :
    Nat → List Fibre → (NearAt → Byte) → List (Fibre × DWord × BitVec 5) × (NearAt → Byte)
  | _, [], m => ([], m)
  | k, f :: fs, m =>
    let old := BitVec.ofNat 64 (ofBytes ((cells f).map m))
    let q := new k f old
    let bs := (List.range n).map (fun j => q.1.extractLsb' (8 * j) 8)
    let r := rmwRun cells new n (k + 1) fs (fun p => ((((cells f).zip bs).find? (fun w => w.1 == p)).map (·.2)).getD (m p))
    ((f, old, q.2) :: r.1, r.2)

def atomsCells (s : State) (ex : Ex) (op : Aop) (sz : MSize) (win : Bool) (d : Dst) (base : Src) (off : BitVec 10) (b : Src) (f : Fibre) :
    Option (List NearAt) :=
  nearCells s ex win (opv (operands ex (atomsShape op sz d base b).srcs f) 1) off.toInt sz

/-- What the slots of an ATOMS do. -/
def atomsRun (s : State) (ex : Ex) (h : Hdr) (op : Aop) (sz : MSize) (win : Bool) (d : Dst) (base : Src) (off : BitVec 10) (b : Src) :
    List (Fibre × DWord × BitVec 5) × (NearAt → Byte) :=
  let vs := operands ex (atomsShape op sz d base b).srcs
  rmwRun (fun f => (atomsCells s ex op sz win d base off b f).getD [])
    (fun k f old => let r := rmwNew op (accBytes sz) (old.setWidth _) ((opv (vs f) 0).setWidth _) ((dataEntry s ex k f sz d).setWidth _)
      (r.1.setWidth 64, r.2))
    (accBytes sz) 0 (actives ex h) (nearGet s ex)

/-- The old value that a true slot of an ATOMS delivers, and the flags it raises. -/
def atomsOld (s : State) (ex : Ex) (h : Hdr) (op : Aop) (sz : MSize) (win : Bool) (d : Dst) (base : Src) (off : BitVec 10) (b : Src) (f : Fibre) :
    DWord × BitVec 5 :=
  (((atomsRun s ex h op sz win d base off b).1.find? (fun r => r.1.fid == f.fid)).map (·.2)).getD (0, 0)

/-- Bytes of the destination registers of the true slots. -/
def dstByte (ex : Ex) (h : Hdr) (d : Dst) (words : Nat) : NearAt → Bool
  | .reg fid i _ => match d with
    | .x k => !h.ws && (actives ex h).any (fun f => f.fid == fid) && decide (k.toNat ≤ i ∧ i < k.toNat + words)
    | _ => false
  | _ => false

/-- The physical byte of an address in the vault window (R198, R199). -/
def vaultOf (s : State) (ex : Ex) (a : DWord) : Nat := 2 ^ 40 + ex.core * 2 ^ 22 + (a.toNat - (nearBase s ex.car.asid).toNat)

/-- The program-visible part of the slice: all of its 4 MiB but the record area at its top (R199). -/
def inVault (s : State) (ex : Ex) (a : DWord) (n : Nat) : Bool :=
  decide ((nearBase s ex.car.asid).toNat ≤ a.toNat) && decide (a.toNat + n ≤ (nearBase s ex.car.asid).toNat + 2 ^ 22 - recBytes s ex.core)

/-- A global address: the base plus the displacement, modulo 2^64 (R243). -/
def globalOf (base : DWord) (d : Int) : DWord := BitVec.ofInt 64 (base.toNat + d)

/-- The bytes at a physical address as their home holds them. -/
def bytesAt (s : State) (a n : Nat) : List Byte := (List.range n).map (fun i => physRead s (a + i))
def unpoisoned (s : State) (a n : Nat) : Prop := ∀ p ∈ s.poison, ∀ i, i < n → p.1 ≠ (a + i) / 64

/-- No access of the core or of the fibre, and no store of its cushion, to the lines of these vault bytes is on its way, and none of the cushion is
held back (R226, R228). -/
def vaultClear (s : State) (ex : Ex) (f : Fibre) (a n : Nat) : Prop :=
  let hit (l : Nat) : Prop := l = a / 64 ∨ l = (a + n - 1) / 64
  (∀ r ∈ s.reqs, r.src < 384 → (r.src = ex.core ∨ r.fibre = f.fid ∨ ownWrite f.fid ex.cush.cid r = true) → ∀ b ∈ opAddrs r.op, ¬ hit (b / 64)) ∧
  ∀ k ∈ s.held, k.cush = ex.cush.cid → ∀ l ∈ k.lines, ¬ hit l

def ldnShape (sz : MSize) (d : Dst) (base : Src) : Shape :=
  Machine.shape [sBase 2 6 base] (some { field := 5, dst := d, words := dataWords sz, chan := false, xOnly := false })
def stnShape (sz : MSize) (data base : Src) : Shape := Machine.shape [sNoChan (dataWords sz) 5 data, sBase 2 6 base] none

def ldnBytes (s : State) (ex : Ex) (sz : MSize) (base : Src) (imm : BitVec 24) (f : Fibre) : List Byte :=
  bytesAt s (vaultOf s ex (globalOf (opv (operands ex [sBase 2 6 base] f) 0) imm.toInt)) (accBytes sz)
def ldnRow (s : State) (ex : Ex) (h : Hdr) (sz : MSize) (d : Dst) (base : Src) (imm : BitVec 24) : ValueRow :=
  ⟨h, [sBase 2 6 base], d, decide (sz = .w64), fun _ f _ => (memValue sz (ldnBytes s ex sz base imm f), 0)⟩

def stnAddr (ex : Ex) (sz : MSize) (data base : Src) (imm : BitVec 24) (f : Fibre) : DWord :=
  globalOf (opv (operands ex (stnShape sz data base).srcs f) 1) imm.toInt
def stnWrites (s : State) (ex : Ex) (h : Hdr) (sz : MSize) (data base : Src) (imm : BitVec 24) : List (Nat × Byte) :=
  (actives ex h).flatMap (fun f => ((List.range (accBytes sz)).map (vaultOf s ex (stnAddr ex sz data base imm f) + ·)).zip
    (dataBytes f sz data (opv (operands ex (stnShape sz data base).srcs f) 0)))

end Sys2Proof.Stmt

open Sys2Proof Sys2Proof.Machine Sys2Proof.Safety Sys2Proof.Stmt

/-- A near address without .w names the scratch byte of that number, below SCRATCH. With .w it names the unified store: the bytes of the
window of a resident fibre of the cushion in the bank of its lane, when no other such window covers them (R60, R61, R248). -/
def Obligations.NearAddressesNameScratchAndRegisters : Prop :=
  (∀ s ex a n, nearBytes s ex false a n =
    if n = 0 ∨ a + n ≤ ex.car.ker.scratch then some ((List.range n).map (fun i => .scratch (a + i))) else none) ∧
  (∀ s ex f i b, f ∈ s.fibres → f.cush = ex.cush.cid → f.core = ex.core → f.status = .resident → f.away = false → f.lane < 32 →
    f.winOff % 64 = 0 → f.winOff + 64 * f.winSize ≤ 0x8000 → i < 16 * f.winSize → b < 4 →
    (∀ g ∈ s.fibres, g.cush = ex.cush.cid → g.core = ex.core → g.status = .resident → g.away = false → g.lane = f.lane →
      g.winOff ≤ f.winOff + 4 * i + b → f.winOff + 4 * i + b < g.winOff + 64 * g.winSize → g = f) →
    nearByte s ex true (0x8000 * f.lane + f.winOff + 4 * i + b) = some (.reg f.fid i b)) ∧
  (∀ s ex a, 2 ^ 20 ≤ a → nearByte s ex true a = none)

/-- LDS loads, STS stores and ATOMS updates the bytes of the near address, each true slot its own, in ascending slots. A load is extended
as its type says and makes a result of up to 64 bits; at 128 bits it writes four registers, makes no result and ignores WS, which the model
reads from R81 and R83 (log entry 12). No other byte of the unified store and no byte of global memory changes; a word written whole is no
longer poisoned. The conditions: the bytes are legal, and what is read is not poisoned. The compare value of a CAS whose DATA names no register
is a free value (log entry 37) (R83, R165, R244, R248, R249, R253, R418). -/
def Obligations.NearAccessesReadAndWriteTheirBytes : Prop :=
  (∀ s ex h sz win d base imm, sz ≠ .w128 → ready s ex h (ldsShape sz d base) = true →
    (∀ f ∈ actives ex h, let o := nearCells s ex win (opv (operands ex [sBase 1 6 base] f) 0) imm.toInt sz
      o.isSome = true ∧ nearSound s ex o) →
    ∃ t, exec (.lds h sz win d base imm) s = .next t ∧ ValueDone (ldsRow s ex h sz win d base imm) s ex t ∧
      ValueFrame (ldsRow s ex h sz win d base imm) s ex t) ∧
  (∀ s ex h win d base imm, ready s ex (noWs h) (ldsShape .w128 d base) = true →
    (∀ f ∈ actives ex h, let o := nearCells s ex win (opv (operands ex [sBase 1 6 base] f) 0) imm.toInt .w128
      o.isSome = true ∧ nearSound s ex o) →
    ∃ t, exec (.lds h .w128 win d base imm) s = .next t ∧
      QuadDone s ex h d (fun f => nearValues s ex (nearCells s ex win (opv (operands ex [sBase 1 6 base] f) 0) imm.toInt .w128)) t) ∧
  (∀ s ex h sz win data base imm, MemCanon s → ready s ex h (stsShape sz data base) = true →
    (∀ f ∈ actives ex h, (nearCells s ex win (opv (operands ex (stsShape sz data base).srcs f) 1) imm.toInt sz).isSome = true) →
    ∃ t, exec (.sts h sz win data base imm) s = .next t ∧
      NearStored s ex (stsWrites s ex h sz win data base imm) ((actives ex h).map (fun f =>
        (nearCells s ex win (opv (operands ex (stsShape sz data base).srcs f) 1) imm.toInt sz).getD [])) t ∧ runAfter ex h.er ex.latches t ∧
      (∀ f ∈ ex.lanes, (getFibre t f.fid).map (·.pc) = some (ex.pc + 8#64)) ∧ ∀ cid, (getCush t cid).map (·.fsr) = (getCush s cid).map (·.fsr)) ∧
  (∀ s ex h op sz win d base off b, MemCanon s → sz ≠ .w128 → (op = .fadd → sz = .w32 ∨ sz = .w64) → ready s ex h (atomsShape op sz d base b) = true →
    (∀ f ∈ actives ex h, (atomsCells s ex op sz win d base off b f).isSome = true ∧ nearSound s ex (atomsCells s ex op sz win d base off b f) ∧
      nearOf (opv (operands ex (atomsShape op sz d base b).srcs f) 1) off.toInt % accBytes sz = 0) →
    ∃ t, exec (.atoms h op sz win d base off b) s = .next t ∧
      (∀ p, dstByte ex h d (dataWords sz) p = false → nearGet t ex p = (atomsRun s ex h op sz win d base off b).2 p ∧
        nearBad t ex p = staysBad s ex ((actives ex h).map (fun f => (atomsCells s ex op sz win d base off b f).getD [])) p) ∧
      runless t = { runless s with oracle := s.oracle + (if op = .cas ∧ d = .none then (actives ex h).length else 0) } ∧
      ValueDone ⟨h, (atomsShape op sz d base b).srcs, d, decide (sz = .w64), fun _ f _ => atomsOld s ex h op sz win d base off b f⟩ s ex t)

/-- LDN and STN reach the slice of the core's vault that the near-vault window shows, and no other byte of memory. A word that becomes zero
may release a JOIN; no store is as wide as a unit of poison. While an earlier access of the core, the fibre or its cushion to the lines
of the bytes is on its way, the instruction has no effect yet, so that no access passes another: that it stands still with its window is the
model's choice (log entry 38). That a 128-bit LDN ignores WS is its reading of R81 and R83 (log entry 12) (R198, R199, R226, R228, R252, R418). -/
def Obligations.VaultAccessesReadAndWriteTheSlice : Prop :=
  (∀ s ex h sz d base imm, sz ≠ .w128 → ready s ex h (ldnShape sz d base) = true →
    (∀ f ∈ actives ex h, let a := globalOf (opv (operands ex [sBase 2 6 base] f) 0) imm.toInt
      inVault s ex a (accBytes sz) = true ∧ unpoisoned s (vaultOf s ex a) (accBytes sz) ∧ vaultClear s ex f (vaultOf s ex a) (accBytes sz)) →
    ∃ t, exec (.ldn h sz d base imm) s = .next t ∧ ValueDone (ldnRow s ex h sz d base imm) s ex t ∧ ValueFrame (ldnRow s ex h sz d base imm) s ex t) ∧
  (∀ s ex h d base imm, ready s ex (noWs h) (ldnShape .w128 d base) = true →
    (∀ f ∈ actives ex h, let a := globalOf (opv (operands ex [sBase 2 6 base] f) 0) imm.toInt
      inVault s ex a 16 = true ∧ unpoisoned s (vaultOf s ex a) 16 ∧ vaultClear s ex f (vaultOf s ex a) 16) →
    ∃ t, exec (.ldn h .w128 d base imm) s = .next t ∧ QuadDone s ex h d (ldnBytes s ex .w128 base imm) t) ∧
  (∀ s ex h sz data base imm, MemCanon s → ready s ex h (stnShape sz data base) = true →
    (∀ f ∈ actives ex h, let a := stnAddr ex sz data base imm f
      inVault s ex a (accBytes sz) = true ∧ vaultClear s ex f (vaultOf s ex a) (accBytes sz)) →
    ∃ t, exec (.stn h sz data base imm) s = .next t ∧
      (∀ a, memRead t.mem a = (((stnWrites s ex h sz data base imm).reverse.find? (fun w => w.1 == a)).map (·.2)).getD (memRead s.mem a)) ∧
      { t with mem := [], fibres := [], slots := [], joins := [], replies := [], linkOut := [], nextId := 0 } =
        { s with mem := [], fibres := [], slots := [], joins := [], replies := [], linkOut := [], nextId := 0 } ∧
      othersStay s ex t ∧ runAfter ex h.er ex.latches t ∧ ∀ f ∈ ex.lanes, getFibre t f.fid = some { f with pc := ex.pc + 8#64 }) ∧
  (∀ s ex h sz d base imm, ready s ex (loadHdr h sz) (ldnShape sz d base) = true →
    (∃ f ∈ actives ex h, let a := globalOf (opv (operands ex [sBase 2 6 base] f) 0) imm.toInt
      inVault s ex a (accBytes sz) = true ∧ ¬ vaultClear s ex f (vaultOf s ex a) (accBytes sz)) →
    exec (.ldn h sz d base imm) s = .next s) ∧
  (∀ s ex h sz data base imm, ready s ex h (stnShape sz data base) = true →
    (∃ f ∈ actives ex h, let a := stnAddr ex sz data base imm f
      inVault s ex a (accBytes sz) = true ∧ ¬ vaultClear s ex f (vaultOf s ex a) (accBytes sz)) →
    exec (.stn h sz data base imm) s = .next s)

/-- A near access with an illegal byte traps with 0x0110, a misaligned ATOMS with 0x010F, and a vault access outside the visible slice with
0x0111; nothing is stored (R249, R252, R390). -/
def Obligations.NearAccessesOutOfRangeTrap : Prop :=
  (∀ s ex f h sz win d base imm car, traps s f car → solo s ex f (loadHdr h sz) (ldsShape sz d base) →
    let v := opv (operands ex [sBase 1 6 base] f) 0
    nearCells s ex win v imm.toInt sz = none →
    ∃ t, exec (.lds h sz win d base imm) s = .next t ∧ InHandler s ex f car 0x110 (BitVec.ofNat 64 (nearOf v imm.toInt)) win.toNat t ∧ TrapFrame s ex t) ∧
  (∀ s ex f h sz win data base imm car, traps s f car → solo s ex f h (stsShape sz data base) →
    let v := opv (operands ex (stsShape sz data base).srcs f) 1
    nearCells s ex win v imm.toInt sz = none →
    ∃ t, exec (.sts h sz win data base imm) s = .next t ∧ InHandler s ex f car 0x110 (BitVec.ofNat 64 (nearOf v imm.toInt)) win.toNat t ∧ TrapFrame s ex t) ∧
  (∀ s ex f h op sz win d base off b car, traps s f car → solo s ex f h (atomsShape op sz d base b) →
    let v := opv (operands ex (atomsShape op sz d base b).srcs f) 1
    (nearOf v off.toInt % accBytes sz ≠ 0 → ∃ t, exec (.atoms h op sz win d base off b) s = .next t ∧
      InHandler s ex f car 0x10F (BitVec.ofNat 64 (nearOf v off.toInt)) (accBytes sz).log2 t ∧ TrapFrame s ex t) ∧
    (nearOf v off.toInt % accBytes sz = 0 → nearCells s ex win v off.toInt sz = none → ∃ t, exec (.atoms h op sz win d base off b) s = .next t ∧
      InHandler s ex f car 0x110 (BitVec.ofNat 64 (nearOf v off.toInt)) win.toNat t ∧ TrapFrame s ex t)) ∧
  (∀ s ex f h sz d base imm car, traps s f car → solo s ex f (loadHdr h sz) (ldnShape sz d base) →
    let a := globalOf (opv (operands ex [sBase 2 6 base] f) 0) imm.toInt
    inVault s ex a (accBytes sz) = false →
    ∃ t, exec (.ldn h sz d base imm) s = .next t ∧ InHandler s ex f car 0x111 a 0 t ∧ TrapFrame s ex t) ∧
  (∀ s ex f h sz data base imm car, traps s f car → solo s ex f h (stnShape sz data base) →
    inVault s ex (stnAddr ex sz data base imm f) (accBytes sz) = false →
    ∃ t, exec (.stn h sz data base imm) s = .next t ∧ InHandler s ex f car 0x111 (stnAddr ex sz data base imm f) 0 t ∧ TrapFrame s ex t)

namespace Sys2Proof.Stmt

open Sys2Proof.Machine Sys2Proof.Safety

/-! ## Expansion (R190 to R194) -/

/-- The next item of a receiver: its step times P plus its rank, below T (R193). -/
def itemOf (e : Expand) (fid : Nat) : Option Nat :=
  match (List.range e.parts.length).find? (fun q => (e.parts[q]?).map (·.fid) == some fid) with
  | none => none
  | some q =>
    let t := ((e.parts[q]?).map (·.next)).getD 0 * e.parts.length + q
    if t < e.total then some t else none

/-- What EXSTEP delivers: the owner's index and the item's index, or the no-item value (R190, R193). -/
def stepValue (e : Expand) (fid : Nat) : DWord :=
  match itemOf e fid with
  | none => 0x00000000FFFFFFFF#64
  | some t =>
    match e.parts.find? (fun p => decide (p.off ≤ t ∧ t < p.off + p.len)) with
    | none => 0x00000000FFFFFFFF#64
    | some o => BitVec.ofNat 32 (o.start + t - o.off) ++ BitVec.ofNat 32 o.idx

def expandShape (a b : Src) : Shape := { Machine.shape [s32 1 a, s32 2 b] none with held := true }
def exstepRow (ex : Ex) (h : Hdr) (d : Dst) : ValueRow := ⟨h, [], d, true, fun _ f _ => (stepValue ex.cush.exp f.fid, 0)⟩
def exstepShape (d : Dst) : Shape := { Machine.shape [] (some (dW true d)) with held := true }
def redWide : RedTy → Bool
  | .f64 => true
  | _ => false
def segredShape (t : RedTy) (d : Dst) (a : Src) : Shape := { Machine.shape [sW (redWide t) 1 a] (some (dW (redWide t) d)) with held := true }

/-- The arrival of a fibre: its operands are start and len. -/
def arrival (f : Fibre) (start len : DWord) : ExpPart :=
  { fid := f.fid, idx := f.idx, start := (lo32 start).toNat, len := (lo32 len).toNat, off := 0, acc := none, next := 0, collected := false }

/-- The current item that EXSTEP leaves: owner, its lane, and the item's index (R193, R408). -/
def currentItem (e : Expand) (fid : Nat) : Option (Nat × Nat × Nat) :=
  (itemOf e fid).bind (fun t => (e.parts.find? (fun p => decide (p.off ≤ t ∧ t < p.off + p.len))).map (fun o =>
    (o.idx, o.idx % 32, (o.start + t - o.off) % 2 ^ 32)))

/-- A round that has closed and is in use. -/
def inUse (e : Expand) : Prop := e.phase = .dealing ∨ e.phase = .folding

/-- The oldest step not folded still lacks contributions. -/
def stepLacks (e : Expand) : Prop :=
  e.folded * e.parts.length < e.total ∧
    (e.contrib.filter (fun c => decide (e.folded * e.parts.length ≤ c.1 ∧ c.1 < e.folded * e.parts.length + e.parts.length))).length <
      min e.parts.length (e.total - e.folded * e.parts.length)

end Sys2Proof.Stmt

open Sys2Proof Sys2Proof.Machine Sys2Proof.Safety Sys2Proof.Stmt

/-- EXPAND completes at every true slot: it parks behind the instruction as a participant of the open round, or of the next while one is in use;
once all live fibres of the cushion below index 128 have arrived, the round closes and they go on: of the participants in ascending FIBRE,
each with the sum of the lengths before it as its offset. EXSTEP completes at every true slot with its next item, or the no-item value; it
does not advance, and the item becomes the fibre's current item. EXPAND by a fibre of index 128 or more, and EXSTEP or SEGRED with no round
in use or by a fibre that has not arrived, trap with 0x0114 (R190, R192, R193, R389, R408). -/
def Obligations.ExpandGathersAndExstepDeals : Prop :=
  (∀ s ex h a b, HandlesBelow s → FibresApart s → ready s ex h (expandShape a b) = true → (∀ f ∈ actives ex h, f.idx < 128) →
    let e := ex.cush.exp
    let pa := parkArgs ex (ex.pc + 8#64) .expand
    let ps := (actives ex h).map (fun f => arrival f (opv (operands ex (expandShape a b).srcs f) 0) (opv (operands ex (expandShape a b).srcs f) 1))
    let total := ((e.parts ++ ps).map (·.len)).sum
    let key (p : ExpPart) := (p.fid, p.idx, p.start, p.len)
    recordRoom s ex h pa → (∀ q ∈ e.parts ++ e.later, ∀ f ∈ actives ex h, q.fid ≠ f.fid) → total < 2 ^ 32 →
    ∃ t, exec (.expand h a b) s = .next t ∧ FalseAdvance s ex h t ∧ runAfter ex true [] t ∧ ∃ c, getCush t ex.cush.cid = some c ∧
      (inUse e → AllPark s ex h pa t ∧ c.exp = { e with later := e.later ++ ps }) ∧
      (¬ inUse e → (∃ g ∈ cushFibres s ex.cush.cid, g.idx < 128 ∧ ¬ isActive ex h g ∧ ∀ q ∈ e.parts, q.fid ≠ g.fid) →
        AllPark s ex h pa t ∧ c.exp = { e with phase := .opened, parts := e.parts ++ ps }) ∧
      (¬ inUse e → (∀ g ∈ cushFibres s ex.cush.cid, g.idx < 128 → isActive ex h g ∨ ∃ q ∈ e.parts, q.fid = g.fid) →
        (∀ f ∈ actives ex h, getFibre t f.fid = some (wakeFibre s (sporeOf s f pa)) ∧ (wakeFibre s (sporeOf s f pa)).status = .ready) ∧
        c.exp.phase = .dealing ∧ c.exp.total = total ∧ c.exp.folded = 0 ∧ c.exp.contrib = [] ∧ c.exp.later = e.later ∧
        (c.exp.parts.map key).Perm ((e.parts ++ ps).map key) ∧ c.exp.parts.Pairwise (fun p q => p.idx ≤ q.idx) ∧
        ∀ k q, c.exp.parts[k]? = some q → q.off = ((c.exp.parts.take k).map (·.len)).sum)) ∧
  (∀ s ex h d, FibresApart s → ready s ex h (exstepShape d) = true → inUse ex.cush.exp →
    (∀ f ∈ actives ex h, ∃ p ∈ ex.cush.exp.parts, p.fid = f.fid) →
    ∃ t, exec (.exstep h d) s = .next t ∧ ValueDone (exstepRow ex h d) s ex t ∧ onlyRun s t ∧ othersStay s ex t ∧
      (∀ f ∈ ex.lanes, ∃ g, getFibre t f.fid = some g ∧ (guardOf h f = false → g = { f with pc := ex.pc + 8#64 }) ∧
        fibreRest { g with expItem := none } (xDst h.ws d) true = fibreRest { f with expItem := none } (xDst h.ws d) true ∧
        (guardOf h f = true → g.expItem = currentItem ex.cush.exp f.fid)) ∧
      ∀ cid, (getCush t cid).map (fun c => cushRest c (if cid = ex.cush.cid then gDst h.ws d else none) true) =
        (getCush s cid).map (fun c => cushRest c (if cid = ex.cush.cid then gDst h.ws d else none) true)) ∧
  (∀ s ex f h car, traps s f car →
    (∀ a b, solo s ex f h (expandShape a b) → 128 ≤ f.idx →
      ∃ t, exec (.expand h a b) s = .next t ∧ InHandler s ex f car 0x114 0 0 t ∧ TrapFrame s ex t) ∧
    (∀ d, solo s ex f h (exstepShape d) → (¬ inUse ex.cush.exp ∨ ∀ q ∈ ex.cush.exp.parts, q.fid ≠ f.fid) →
      ∃ t, exec (.exstep h d) s = .next t ∧ InHandler s ex f car 0x114 0 (if ex.cush.exp.phase = .idle then 1 else 2) t ∧ TrapFrame s ex t) ∧
    (∀ op ty d a, solo s ex f h (segredShape ty d a) → (¬ inUse ex.cush.exp ∨ ∀ q ∈ ex.cush.exp.parts, q.fid ≠ f.fid) →
      ∃ t, exec (.segred h op ty d a) s = .next t ∧ InHandler s ex f car 0x114 0 (if ex.cush.exp.phase = .idle then 1 else 2) t ∧ TrapFrame s ex t))

/-- SEGRED completes at every true slot that has an item less than sixteen steps ahead of the fold: it delivers its operand as its own result,
and while the oldest step lacks contributions the round only gains the items and advances the receivers. A step is folded once all its
items are there, each owner's first value as it is and each later one combined with the accumulator; this is stated of a round of one.
Sixteen steps ahead of the fold SEGRED parks at the instruction. With no item left it parks until all is folded; a lone participant then has
its accumulator, or the identity, at once, and the round ends (R142, R143, R191, R194). -/
def Obligations.SegredContributesFoldsAndCollects : Prop :=
  (∀ s ex h op ty d a, HandlesBelow s → FibresApart s → ready s ex h (segredShape ty d a) = true → inUse ex.cush.exp →
    let e := ex.cush.exp
    (∃ q ∈ e.parts, q.collected = false) →
    (∀ f ∈ actives ex h, (itemOf e f.fid).isSome = true ∧ ∀ q ∈ e.parts, q.fid = f.fid → q.next < e.folded + 16) →
    let val (f : Fibre) := opv (operands ex (segredShape ty d a).srcs f) 0
    let row : ValueRow := ⟨h, (segredShape ty d a).srcs, d, redWide ty, fun _ _ v => (opv v 0, 0)⟩
    let e' := { e with
      contrib := e.contrib ++ (actives ex h).filterMap (fun f => (itemOf e f.fid).map (fun i => (i, val f, op, ty, modeNow s ex.cush)))
      parts := e.parts.map (fun q => if (actives ex h).any (fun f => f.fid == q.fid) then { q with next := q.next + 1 } else q) }
    ∃ t, exec (.segred h op ty d a) s = .next t ∧ (∀ f ∈ ex.lanes, (getFibre t f.fid).map (·.pc) = some (ex.pc + 8#64)) ∧
      (∀ i, d = .x i → h.ws = false → ∀ f ∈ actives ex h, ∃ g, getFibre t f.fid = some g ∧
        (if redWide ty then getX64 g i.toNat else zext (getX g i.toNat)) = row.res s ex f) ∧
      runAfter ex h.er ((row.latch s ex :: ex.latches).take 4) t ∧
      (stepLacks e' → ValueDone row s ex t ∧ (getCush t ex.cush.cid).map (·.exp) = some e')) ∧
  ∀ s ex f h op ty d a p, FibresApart s → solo s ex f h (segredShape ty d a) → inUse ex.cush.exp → p ∈ ex.cush.exp.parts →
    p.fid = f.fid → p.collected = false → (∀ q ∈ ex.cush.exp.parts, q.fid = f.fid → q = p) →
    let e := ex.cush.exp
    let v := opv (operands ex (segredShape ty d a).srcs f) 0
    let row (fl : BitVec 5) : ValueRow := ⟨h, (segredShape ty d a).srcs, d, redWide ty, fun _ _ v => (opv v 0, fl)⟩
    let alone : Prop := e.parts = [p] ∧ e.contrib = [] ∧ ∀ g ∈ s.fibres, g.cush = ex.cush.cid → g.wait = .none
    let far := parkArgs ex ex.pc .segredRoom
    let last := { parkArgs ex (ex.pc + 8#64) (.collect op ty d h.ws) with dstG := dstGran h.ws d (if redWide ty then 2 else 1) }
    (∀ i, itemOf e f.fid = some i →
      (alone → e.folded = p.next → p.off ≤ i → i < p.off + p.len →
        let q := match p.acc with
          | none => (v, 0#5)
          | some w => comb op ty (rmOf (modeNow s ex.cush)) w v
        ∃ t, exec (.segred h op ty d a) s = .next t ∧ ValueDone (row q.2) s ex t ∧
          (getCush t ex.cush.cid).map (·.exp) = some { e with
            phase := if p.next + 1 = e.total then .folding else e.phase
            parts := [{ p with next := p.next + 1, acc := some q.1 }]
            folded := e.folded + 1 }) ∧
      (e.folded + 16 ≤ p.next → stepLacks e → roomFor s f far →
        ∃ t, exec (.segred h op ty d a) s = .next t ∧ Parks s ex f far t ∧ (getCush t ex.cush.cid).map (·.exp) = some e)) ∧
    (itemOf e f.fid = none →
      (stepLacks e → roomFor s f last →
        ∃ t, exec (.segred h op ty d a) s = .next t ∧ Parks s ex { f with expItem := none } last t ∧
          (getCush t ex.cush.cid).map (·.exp) = some e) ∧
      (alone → e.total ≤ e.folded → roomFor s f last →
        let z := match p.acc with
          | none => identityOf op ty
          | some w => if redWide ty then w else zext (lo32 w)
        ∃ t, exec (.segred h op ty d a) s = .next t ∧ runAfter ex true [] t ∧
          (e.later = [] → (getCush t ex.cush.cid).map (·.exp.phase) = some .idle) ∧
          ∃ g, getFibre t f.fid = some g ∧ g.status = .ready ∧ g.wait = .none ∧ g.pc = ex.pc + 8#64 ∧
            (∀ k, d = .x k → h.ws = false → (if redWide ty then getX64 g k.toNat else zext (getX g k.toNat)) = z)))

namespace Sys2Proof.Stmt

open Sys2Proof.Machine Sys2Proof.Safety

/-! ## Global memory (R206, R214, R216, R230, R243 to R263, R397, R442) -/

/-- An access of a core that needs these rights. -/
def gAcc (k : AccKind) (va : DWord) (n : Nat) (r w : Bool) : Access := { kind := k, va, n, r, w, x := false, crust := none }
def crAcc (sz : MSize) (ldge : Bool) (va : DWord) : Access :=
  { kind := .crust, va, n := accBytes sz, r := ldge, w := !ldge, x := false, crust := some (sizeCode sz, ldge) }

/-- The access finds its translations in the caches and passes its checks. -/
def Reaches (s : State) (ex : Ex) (a : Access) : Prop := (match (xlate s ex.core ex.car.asid a).2 with | .ok _ => true | _ => false) = true

/-- Its translations, and where its bytes lie. -/
def xlOf (s : State) (ex : Ex) (a : Access) : Xs := match (xlate s ex.core ex.car.asid a).2 with | .ok xs => xs | _ => []
def placed (s : State) (ex : Ex) (a : Access) : List Place := placesOf s (xlOf s ex a)

/-- The physical address of its first byte, when that lies in memory of the package; and when its page is cached (CPOL 0 or 2, and not
reached through RMT). -/
def memAt (s : State) (ex : Ex) (a : Access) : Option Nat := match (placed s ex a).head? with | some (.mem _ p) => some p | _ => none
def cachedAt (s : State) (ex : Ex) (a : Access) : Option Nat :=
  match (placed s ex a).head? with | some (.mem c p) => if c = 1 ∨ c = 3 then none else some p | _ => none

/-- The reply of a parking access is due; the fibre goes on behind the instruction (R39). -/
def replyArgs (ex : Ex) (ws : Bool) (d : Dst) (sz : MSize) : ParkArgs :=
  { parkArgs ex (ex.pc + 8#64) .reply with dstG := dstGran ws d (dataWords sz) }

/-- One of the operations that wait for their replies is the fibre's. -/
def Pending (t : State) (k : LoadKind) (ex : Ex) (f : Fibre) (d : Dst) (sz : MSize) (acq : Option Scope) (ps : List Place) (l : LoadOp) : Prop :=
  l ∈ t.loads ∧ l.kind = k ∧ l.fid = f.fid ∧ l.core = ex.core ∧ l.d = d ∧ l.size = sz ∧ l.acq = acq ∧ l.places = ps

/-- Scope of a marked access as the fibre performs it: while away, cushion and core scope are package scope (R233). -/
def scopeOf (f : Fibre) (marked : Bool) (sc : Scope) : Option Scope :=
  if marked then some (if f.away && decide (sc = .cushion ∨ sc = .core) then .package else sc) else none

/-- A fibre of the cushion of a fibre has gone away at some time (R49). -/
def hasRoamed (s : State) (f : Fibre) : Bool := ((getCush s f.cush).map (·.roamed)).getD false

/-- Scope of the work of a fibre's release or fence: once a fibre of its cushion has gone away, cushion and core scope take the work of package
scope, which is the model's reading (R233; log entry 42). -/
def workOf (s : State) (f : Fibre) (marked : Bool) (sc : Scope) : Option Scope :=
  if marked then some (if (f.away || hasRoamed s f) && decide (sc = .cushion ∨ sc = .core) then .package else sc) else none

/-- A release whose store waits in the write-order buffer (R246). -/
def holds_ (s : State) (f : Fibre) (rel : Bool) (sc : Scope) : Option Scope :=
  match workOf s f rel sc with
  | some .cushion => none
  | o => o

/-- What the L1 gives of a byte of an access at these places: its value in a valid word; of an aligned access that the L1 does not serve whole at one
time, only the words that the core itself has written (R206, R227, R234; log entry 34). -/
def l1Gives (s : State) (ex : Ex) (ps : List Place) (p : Place) : Option Byte :=
  if placesMis ps || servedWhole s ex.core ps then l1Byte s ex.core p else dirtyByte s ex.core p

/-- The byte i of a load: it has the value of the L1's valid word, or a read of it is on its way to where it lives. -/
def byteAsked (s t : State) (ex : Ex) (l : LoadOp) (i : Nat) : Prop :=
  match l.places[i]? with
  | none => True
  | some p =>
    match p, l1Gives s ex l.places p with
    | _, some v => l.bytes[i]? = some (some v)
    | .mem _ a, none => ∃ q ∈ t.reqs, q.src = ex.core ∧ q.die = homeDie a ∧
        (match q.op with | .read (.load id) bs => decide (id = l.id ∧ (a, a) ∈ bs) | _ => false) = true
    | .crust va, none => ∃ q ∈ t.reqs, q.src = ex.core ∧ q.die = ex.core / 48 ∧
        (match q.op with | .crustRead (.load id) asid bs => decide (id = l.id ∧ asid = ex.car.asid ∧ (2 ^ 60 + i, va) ∈ bs) | _ => false) = true
    | .remote pkg kind pa, none => routePort s ex.core pkg = none ∨ ∃ q ∈ t.linkOut, routePort s ex.core pkg = some q.1 ∧
        (match q.2 with | .request _ _ k b (.read n) => decide (k.toNat = kind ∧ b ≤ pa ∧ pa < b + n) | _ => false) = true

/-- A byte of a store: it is in the core's L1, or in a write on its way to its home, or in a message to its package. -/
def byteSent (s t : State) (ex : Ex) (p : Place) (v : Byte) : Prop :=
  l1Byte t ex.core p = some v ∨
  match p with
  | .mem _ a => ∃ q ∈ t.reqs, q.src = ex.core ∧ q.die = homeDie a ∧
      (match q.op with | .write _ cs => decide ((a, v) ∈ cs) | _ => false) = true
  | .crust _ => False
  | .remote pkg kind pa => ∃ q ∈ t.linkOut, routePort s ex.core pkg = some q.1 ∧
      (match q.2 with | .request _ _ k _ (.write cs) => decide (k.toNat = kind ∧ (pa, v) ∈ cs) | _ => false) = true

/-- Two places are one byte. -/
def sameByte : Place → Place → Prop
  | .mem _ a, .mem _ b => a = b
  | p, q => p = q

/-- Nothing of the model's waits on store counters and write-backs: no held access, no fence or store that waits. -/
def calm (s : State) : Bool :=
  s.held.isEmpty && s.fibres.all (fun g => match g.wait with | .fence _ _ _ | .lsyncDrain _ | .storeRoom => false | _ => true)

/-- The frond stands apart and nothing waits on counters, and no write of a true slot or store of its cushion is on its way from another core
(R228, R231, R233): the state in which accesses start at once. -/
def quiet (s : State) (ex : Ex) (h : Hdr) : Prop :=
  HandlesBelow s ∧ FibresApart s ∧ calm s = true ∧ ex.core < 384 ∧
  ∀ f ∈ actives ex h, (∀ r ∈ s.reqs, ownWrite f.fid ex.cush.cid r = true → r.src = ex.core ∨ 384 ≤ r.src) ∧
    ∀ r ∈ s.remote, ownWrite f.fid ex.cush.cid r.2 = true → r.2.src = ex.core ∨ 384 ≤ r.2.src

/-- The accesses of the true slots find their translations: in the core's cache, or, of a single one, in the die's (R216). -/
def AtHand (s : State) (ex : Ex) (h : Hdr) (a : Fibre → Access) : Prop :=
  (∀ f ∈ actives ex h, Reaches s ex (a f)) ∧
  ((actives ex h).length = 1 ∨
    ∀ f ∈ actives ex h, ∀ p ∈ accParts (a f).va (a f).n, (tlbFind s.coreTlb ex.core ex.car.asid p.1).isSome = true)

/-- A store can go to this place: no crust page; a route leads to the package. -/
def reachable (s : State) (ex : Ex) : Place → Bool
  | .mem _ _ => true
  | .crust _ => false
  | .remote pkg _ _ => (routePort s ex.core pkg).isSome

/-- No byte at its home changes, nor any control register, carpet or scratch byte. -/
def homesStay (s t : State) : Prop :=
  t.mem = s.mem ∧ t.l2data = s.l2data ∧ t.ctl = s.ctl ∧ t.replicas = s.replicas ∧
    t.carpets.map (fun c => { c with dead := false }) = s.carpets.map (fun c => { c with dead := false }) ∧
    t.cushions.map (fun c => { c with retired := 0 }) = s.cushions.map (fun c => { c with retired := 0 })

/-- A request of the fibre with this operation is on its way to a die. -/
def Asked (t : State) (ex : Ex) (f : Fibre) (die : Nat) (op : HomeOp) : Prop :=
  ∃ q ∈ t.reqs, (q.src, q.die, q.carpet, q.asid, q.fibre, q.pc, q.op, q.refused) =
    (ex.core, die, ex.car.id, ex.car.asid, f.fid, ex.pc, op, 0)

/-- W2 of a record of the fibre: of the range from 0x0300 on it names no fibre (R369, R411). -/
def recordW2 (s : State) (f : Fibre) (syn : Nat) : DWord :=
  if 0x300 ≤ syn then recW2 f.carpet f.core (((getCush s f.cush).map (·.slot)).getD 0) 0x3FF 0 else fibreW2 s f

/-- The carpet ends: a detection of the fibre's access is due, of this syndrome, address and detail (R373, R395, R411). -/
def CarpetEnds (s : State) (f : Fibre) (pc : DWord) (syn : Nat) (w3 w4 : DWord) (freeze : Option Nat) (t : State) : Prop :=
  t.detects.length = s.detects.length + 1 ∧
  (t.detects.getLast?).map (fun d => (d.carpet, d.rec_.cls, d.rec_.syn, d.rec_.w1, d.rec_.w2, d.rec_.w3, d.freeze)) =
    some (f.carpet, 2, syn, pc, recordW2 s f syn, w3, freeze) ∧
  (f.expItem = none → (t.detects.getLast?).map (fun d => d.rec_.w4) = some w4) ∧
  ∀ c, getCarpet t f.carpet = some c → c.dead = true

def memShape (sz : MSize) (b base : Src) (d : Option Dst) : Shape :=
  Machine.shape [sNoChan (dataWords sz) 2 b, sBase 2 6 base]
    (d.map (fun d => { field := 5, dst := d, words := dataWords sz, chan := false, xOnly := true }))
/-- ATOM: CAS reads its DATA register too (R253). -/
def atomShape (op : Aop) (sz : MSize) (b base : Src) (d : Dst) : Shape := { memShape sz b base (some d) with more := casData op sz d }
def ldShape (sz : MSize) (d : Dst) (base : Src) : Shape :=
  Machine.shape [sBase 2 6 base] (some { field := 5, dst := d, words := dataWords sz, chan := false, xOnly := true })
def addrShape (field : Nat) (base : Src) : Shape := Machine.shape [sBase 2 field base] none

/-- The address of an LD, ST, or of an atomic form. -/
def ldAddr (ex : Ex) (f : Fibre) (base : Src) (d : Int) : DWord := globalOf (opv (operands ex [sBase 2 6 base] f) 0) d
def atAddr (ex : Ex) (f : Fibre) (sz : MSize) (b base : Src) (off : BitVec 10) : DWord :=
  globalOf (opv (operands ex (memShape sz b base none).srcs f) 1) off.toInt
def atB (ex : Ex) (f : Fibre) (sz : MSize) (b base : Src) : DWord := opv (operands ex (memShape sz b base none).srcs f) 0

/-- A store of the fibre has gone to a home, or to another package, which has to acknowledge it. -/
def StoreSent (s t : State) (f : Fibre) : Prop :=
  let is (r : Req) : Bool := match r.op with | .write (.store fid _ _) _ => fid == f.fid | _ => false
  (∃ r ∈ t.reqs.drop s.reqs.length, is r = true) ∨ ∃ r ∈ t.remote.drop s.remote.length, is r.2 = true

/-- A byte of a store that the L1 does not take: its page is not cached, or its word is not valid and not written whole (R206). -/
def missesL1 (s : State) (ex : Ex) (ps : List Place) (p : Place) : Bool :=
  !cachedPlace p || (decide ((ps.filter (fun q => cachedPlace q && memAddr q / 4 == memAddr p / 4)).length ≠ 4) && (l1Byte s ex.core p).isNone)

/-- The physical address in memory that a walk for SPAWN.home finds, also where the die's walker is busy (R179, R203, R215). -/
def walkHome (s : State) (ex : Ex) (va : DWord) : Option Nat :=
  let acc := gAcc .joinMigrate va 1 false false
  let first (xs : Xs) : Option Nat := match (placesOf s xs).head? with | some (.mem _ p) => some p | _ => none
  match (xlateWalk s (ex.core / 48) ex.car.asid acc).2 with
  | .ok xs => first xs
  | .busy _ => (match walkTable s ex.car.asid va with
    | .ok x => if (leavesCheck s acc [(va, 1, x, x.level)]).isNone then first [(va, 1, x)] else none
    | _ => none)
  | _ => none

def ldAcc (ex : Ex) (f : Fibre) (sz : MSize) (base : Src) (imm : BitVec 24) : Access := gAcc .load (ldAddr ex f base imm.toInt) (accBytes sz) true false
def stAcc (ex : Ex) (f : Fibre) (sz : MSize) (data base : Src) (imm : BitVec 24) : Access :=
  gAcc .store (stnAddr ex sz data base imm f) (accBytes sz) false true
def atAcc (ex : Ex) (f : Fibre) (sz : MSize) (b base : Src) (off : BitVec 10) : Access :=
  gAcc .atomic (atAddr ex f sz b base off) (accBytes sz) true true
def joinAcc (ex : Ex) (f : Fibre) (a : Src) : Access := gAcc .joinMigrate (opv (operands ex [s64 1 a] f) 0) 4 true false
def lineAcc (ex : Ex) (f : Fibre) (base : Src) (off : BitVec 10) : Access := gAcc .store (ldAddr ex f base off.toInt) 1 true false
def dieAcc (ex : Ex) (f : Fibre) (base : Src) (off : BitVec 10) : Access := gAcc .joinMigrate (ldAddr ex f base off.toInt) 1 false false

/-- The fibre goes on with its store counter at n, and no other fibre outside the frond changes but by waking. -/
def Continues (ex : Ex) (f : Fibre) (n : Nat) (t : State) : Prop := getFibre t f.fid = some { f with pc := ex.pc + 8#64, stcnt := n }

/-- Requests, walks, held accesses and messages apart, only fibres, cushions and slots change. -/
def movers (s : State) : State :=
  { s with fibres := [], cushions := [], slots := [], fronds := [], reqs := [], walks := [], held := [], loads := [], l1 := [], wbs := [],
           meta_ := [], coreTlb := [], dieTlb := [], replies := [], linkOut := [], remote := [], syncs := [], landing := [], detects := [],
           carpets := [], spilled := [], nextId := 0, oracle := 0 }

end Sys2Proof.Stmt

open Sys2Proof Sys2Proof.Machine Sys2Proof.Safety Sys2Proof.Stmt

/-- LD completes at every true slot: each parks behind the instruction with one reply due into its destination, and the others go on; each byte
comes from the core's L1 where its word is valid, else a read of it is on its way to its home, to the die's replica or to its package. Nothing
changes in memory. The conditions on the state: the accesses pass their checks, their translations are at hand, no earlier access holds them
back, no word of theirs in the L1 is poisoned, and the record area has room. Which bytes of an aligned load the L1 gives where it holds only some
is the model's choice (log entry 34); that a 128-bit load ignores WS is its reading of R81 and R83 (log entry 12) (R206, R214, R216, R243, R244,
R250, R404, R418). -/
def Obligations.LoadsParkAndAskForTheirBytes : Prop :=
  ∀ s ex h sz acq sc d base imm, ready s ex (loadHdr h sz) (ldShape sz d base) = true → quiet s ex h →
    AtHand s ex h (fun f => ldAcc ex f sz base imm) →
    let a := replyArgs ex (loadHdr h sz).ws d sz
    recordRoom s ex h a → (∀ f ∈ actives ex h, ∀ p ∈ placed s ex (ldAcc ex f sz base imm), l1Poison s ex.core p = false) →
    ∃ t, exec (.ld h sz acq sc d base imm) s = .next t ∧ AllPark s ex h a t ∧ FalseAdvance s ex h t ∧ homesStay s t ∧ movers t = movers s ∧
      SpillStays s ex t ∧ ∀ f ∈ actives ex h, ∃ l,
        Pending t .ld ex f (if (loadHdr h sz).ws then .none else d) sz (scopeOf f acq sc) (placed s ex (ldAcc ex f sz base imm)) l ∧
        ∀ i, byteAsked s t ex l i

/-- ST completes at every true slot that has room in its store counter: it goes on, and each byte that no later slot overwrites is in the core's L1
or on its way to its home; the store counts once when a home has to acknowledge it, and not when the L1 has absorbed it: the first slot's goes to a
home just for the bytes of an uncached page and of words that it does not write whole and that are not valid. No byte at its home changes yet. With
the counter at 65,535 it parks at the instruction. A release at core scope or wider goes on too; while an earlier store of the fibre is
unacknowledged, ST and LJOIN wait in the write-order buffer, counted, and nothing is sent (R45, R206, R243, R246, R251). -/
def Obligations.StoresCountAndSendTheirBytes : Prop :=
  (∀ s ex h sz rel sc data base imm, ready s ex h (stnShape sz data base) = true → quiet s ex h →
    AtHand s ex h (fun f => stAcc ex f sz data base imm) → (∀ f ∈ actives ex h, f.stcnt < 0xFFFF) →
    let ps (f : Fibre) := placed s ex (stAcc ex f sz data base imm)
    let bytes (f : Fibre) := (ps f).zip (dataBytes f sz data (opv (operands ex (stnShape sz data base).srcs f) 0))
    (∃ t, exec (.st h sz rel sc data base imm) s = .next t ∧ runAfter ex h.er ex.latches t ∧
      ∀ f ∈ ex.lanes, (getFibre t f.fid).map (·.pc) = some (ex.pc + 8#64)) ∧
    ((∀ f ∈ actives ex h, holds_ s f rel sc = none ∧ (ps f).all (reachable s ex) = true) →
      ∃ t, exec (.st h sz rel sc data base imm) s = .next t ∧ homesStay s t ∧ FalseAdvance s ex h t ∧
        (∀ f ∈ actives ex h, StoreSent s t f ∧ Continues ex f (f.stcnt + 1) t ∨ ¬ StoreSent s t f ∧ Continues ex f f.stcnt t) ∧
        (∀ f post, actives ex h = f :: post → (s.l1.filter (fun l => l.core == ex.core)).length + 2 ≤ 8 →
          (StoreSent s t f ↔ ∃ p ∈ ps f, missesL1 s ex (ps f) p = true)) ∧
        (∀ pre f post, actives ex h = pre ++ f :: post → ∀ p ∈ bytes f, (∀ g ∈ post, ∀ q ∈ ps g, ¬ sameByte q p.1) → byteSent s t ex p.1 p.2) ∧
        (∀ l ∈ s.l1, l.core ≠ ex.core → l ∈ t.l1) ∧
        ((s.l1.filter (fun l => l.core == ex.core)).length + 2 * (actives ex h).length ≤ 8 →
          ∀ a, (∀ f ∈ actives ex h, ∀ p ∈ ps f, ¬ sameByte p (.mem 0 a)) → l1Byte t ex.core (.mem 0 a) = l1Byte s ex.core (.mem 0 a)))) ∧
  (∀ s ex h sz rel sc data base imm, ready s ex h (stnShape sz data base) = true → quiet s ex h →
    AtHand s ex h (fun f => stAcc ex f sz data base imm) → (∀ f ∈ actives ex h, 0xFFFF ≤ f.stcnt) →
    recordRoom s ex h (parkArgs ex ex.pc .storeRoom) →
    ∃ t, exec (.st h sz rel sc data base imm) s = .next t ∧ AllPark s ex h (parkArgs ex ex.pc .storeRoom) t ∧ FalseAdvance s ex h t ∧
      homesStay s t ∧ t.l1 = s.l1 ∧ t.reqs = s.reqs) ∧
  (∀ s ex f h sz sc data base imm k, solo s ex f h (stnShape sz data base) →
    Reaches s ex (stAcc ex f sz data base imm) → holds_ s f true sc = some k → calm s = true → 0 < f.stcnt → f.stcnt < 0xFFFF →
    ∃ t, exec (.st h sz true sc data base imm) s = .next t ∧ Continues ex f (f.stcnt + 1) t ∧ t.reqs = s.reqs ∧ t.linkOut = s.linkOut ∧ t.l1 = s.l1 ∧
      t.held.map (fun q => (q.fid, q.cush, q.core, q.rel, q.counted, q.act)) = [(f.fid, ex.cush.cid, ex.core, some k, 1,
        .store (placed s ex (stAcc ex f sz data base imm)) (dataBytes f sz data (opv (operands ex (stnShape sz data base).srcs f) 0)))]) ∧
  (∀ s ex f h sz sc base off b k, solo s ex f h (memShape sz b base none) → (atAddr ex f sz b base off).toNat % accBytes sz = 0 →
    Reaches s ex (crAcc sz false (atAddr ex f sz b base off)) → holds_ s f true sc = some k → calm s = true → 0 < f.stcnt → f.stcnt < 0xFFFF →
    ∃ t, exec (.ljoin h sz true sc base off b) s = .next t ∧ Continues ex f (f.stcnt + 1) t ∧ t.reqs = s.reqs ∧
      t.held.map (fun q => (q.fid, q.cush, q.core, q.rel, q.counted)) = [(f.fid, ex.cush.cid, ex.core, some k, 1)])

/-- ATOM, RED, LDGE, LJOIN and JOIN complete at every true slot: the request goes to the home of the word, or to the die's crust controller, for a
release once nothing before it is open. LJOIN counts as a store and does not park; the others park with one reply due. The line of a word that an
ATOM, RED or JOIN asks for leaves the core's L1, its dirty words sent home before it, which for JOIN is the model's reading (log entry 34). A
misaligned one of the five traps (R181, R243, R246, R253 to R258, R389, R390). -/
def Obligations.AtomicsAndCrustAccessesAskTheirHomes : Prop :=
  (∀ s ex h op sz o sc d base off b, ready s ex h (atomShape op sz b base d) = true → quiet s ex h →
    (∀ f ∈ actives ex h, (atAddr ex f sz b base off).toNat % accBytes sz = 0) → AtHand s ex h (fun f => atAcc ex f sz b base off) →
    sz ≠ .w128 → (∀ f ∈ actives ex h, holds_ s f (decide (o ≠ .plain)) sc = none) → recordRoom s ex h (replyArgs ex h.ws d sz) →
    ∃ t, exec (.atom h op sz o sc d base off b) s = .next t ∧ AllPark s ex h (replyArgs ex h.ws d sz) t ∧ FalseAdvance s ex h t ∧ homesStay s t ∧
      ∀ f ∈ actives ex h, ∃ l,
        Pending t .atom ex f (if h.ws then .none else d) sz (scopeOf f (decide (o ≠ .plain)) sc) (placed s ex (atAcc ex f sz b base off)) l ∧
        ∀ p, memAt s ex (atAcc ex f sz b base off) = some p →
          Asked t ex f (homeDie p) (.rmw (.load l.id) op p (accBytes sz) (atB ex f sz b base) (dataEntry s ex 0 f sz d)) ∧
            l1Get t ex.core (p / 64) = none) ∧
  (∀ s ex f h op sz o sc d base off b k, solo s ex f h (atomShape op sz b base d) → quiet s ex h →
    (atAddr ex f sz b base off).toNat % accBytes sz = 0 → Reaches s ex (atAcc ex f sz b base off) → sz ≠ .w128 →
    holds_ s f (decide (o ≠ .plain)) sc = some k → 0 < f.stcnt → roomFor s f (replyArgs ex h.ws d sz) →
    ∃ t, exec (.atom h op sz o sc d base off b) s = .next t ∧ Parks s ex f (replyArgs ex h.ws d sz) t ∧ t.reqs = s.reqs ∧ t.linkOut = s.linkOut ∧
      t.held.map (fun q => (q.fid, q.cush, q.core, q.rel, q.counted)) = [(f.fid, ex.cush.cid, ex.core, some k, 0)]) ∧
  (∀ s ex h op sz rel sc base off b, ready s ex h (memShape sz b base none) = true → quiet s ex h →
    (∀ f ∈ actives ex h, (atAddr ex f sz b base off).toNat % accBytes sz = 0) → AtHand s ex h (fun f => atAcc ex f sz b base off) →
    sz ≠ .w128 → (∀ f ∈ actives ex h, holds_ s f rel sc = none) → recordRoom s ex h (replyArgs ex true .none sz) →
    ∃ t, exec (.red h op sz rel sc base off b) s = .next t ∧ AllPark s ex h (replyArgs ex true .none sz) t ∧ FalseAdvance s ex h t ∧ homesStay s t ∧
      ∀ f ∈ actives ex h, ∃ l, Pending t .red ex f .none sz none (placed s ex (atAcc ex f sz b base off)) l ∧
        ∀ p, memAt s ex (atAcc ex f sz b base off) = some p →
          Asked t ex f (homeDie p) (.rmw (.load l.id) op p (accBytes sz) (atB ex f sz b base) 0#64) ∧
            l1Get t ex.core (p / 64) = none) ∧
  (∀ s ex h sz sc d base off b, ready s ex (noWs h) (memShape sz b base (some d)) = true → quiet s ex h →
    (∀ f ∈ actives ex h, (atAddr ex f sz b base off).toNat % accBytes sz = 0) →
    AtHand s ex h (fun f => crAcc sz true (atAddr ex f sz b base off)) → recordRoom s ex h (replyArgs ex false d sz) →
    ∃ t, exec (.ldge h sz sc d base off b) s = .next t ∧ AllPark s ex h (replyArgs ex false d sz) t ∧ FalseAdvance s ex h t ∧ homesStay s t ∧
      ∀ f ∈ actives ex h, ∃ l,
        Pending t .ldge ex f d sz (scopeOf f true sc) (placed s ex (crAcc sz true (atAddr ex f sz b base off))) l ∧
        Asked t ex f (ex.core / 48) (.ldge l.id ex.car.asid (atAddr ex f sz b base off)
          (xsCtype (xlOf s ex (crAcc sz true (atAddr ex f sz b base off)))) (atB ex f sz b base))) ∧
  (∀ s ex h sz rel sc base off b, ready s ex h (memShape sz b base none) = true → quiet s ex h →
    (∀ f ∈ actives ex h, (atAddr ex f sz b base off).toNat % accBytes sz = 0) →
    AtHand s ex h (fun f => crAcc sz false (atAddr ex f sz b base off)) →
    ((∀ f ∈ actives ex h, f.stcnt < 0xFFFF ∧ holds_ s f rel sc = none) →
      ∃ t, exec (.ljoin h sz rel sc base off b) s = .next t ∧ runAfter ex h.er ex.latches t ∧ FalseAdvance s ex h t ∧ homesStay s t ∧
        ∀ f ∈ actives ex h, Continues ex f (f.stcnt + 1) t ∧ ∃ n, Asked t ex f (ex.core / 48)
          (.ljoin (.store f.fid ex.cush.cid n) ex.car.asid (atAddr ex f sz b base off)
            (xsCtype (xlOf s ex (crAcc sz false (atAddr ex f sz b base off)))) (atB ex f sz b base))) ∧
    ((∀ f ∈ actives ex h, 0xFFFF ≤ f.stcnt) → recordRoom s ex h (parkArgs ex ex.pc .storeRoom) →
      ∃ t, exec (.ljoin h sz rel sc base off b) s = .next t ∧ AllPark s ex h (parkArgs ex ex.pc .storeRoom) t ∧ t.reqs = s.reqs)) ∧
  (∀ s ex h a, ready s ex h (Machine.shape [s64 1 a] none) = true → quiet s ex h →
    (∀ f ∈ actives ex h, (opv (operands ex [s64 1 a] f) 0).toNat % 4 = 0) → AtHand s ex h (fun f => joinAcc ex f a) →
    recordRoom s ex h (replyArgs ex true .none .w32) →
    ∃ t, exec (.join h a) s = .next t ∧ AllPark s ex h (replyArgs ex true .none .w32) t ∧ FalseAdvance s ex h t ∧ homesStay s t ∧
      ∀ f ∈ actives ex h, ∃ l, Pending t .join ex f .none .w32 (some .package) (placed s ex (joinAcc ex f a)) l ∧
        ∀ p, memAt s ex (joinAcc ex f a) = some p → Asked t ex f (homeDie p) (.join (.load l.id) p) ∧ l1Get t ex.core (p / 64) = none) ∧
  (∀ s ex f h car, traps s f car →
    let trapped (t : State) (a : DWord) (n : Nat) : Prop := InHandler s ex f car 0x10F a n.log2 t ∧ TrapFrame s ex t
    (∀ sz b base off, (atAddr ex f sz b base off).toNat % accBytes sz ≠ 0 →
      (∀ op o sc d, solo s ex f h (atomShape op sz b base d) →
        ∃ t, exec (.atom h op sz o sc d base off b) s = .next t ∧ trapped t (atAddr ex f sz b base off) (accBytes sz)) ∧
      (∀ sc d, solo s ex f (noWs h) (memShape sz b base (some d)) →
        ∃ t, exec (.ldge h sz sc d base off b) s = .next t ∧ trapped t (atAddr ex f sz b base off) (accBytes sz)) ∧
      (solo s ex f h (memShape sz b base none) →
        (∀ op rel sc, ∃ t, exec (.red h op sz rel sc base off b) s = .next t ∧ trapped t (atAddr ex f sz b base off) (accBytes sz)) ∧
        ∀ rel sc, ∃ t, exec (.ljoin h sz rel sc base off b) s = .next t ∧ trapped t (atAddr ex f sz b base off) (accBytes sz))) ∧
    (∀ a, solo s ex f h (Machine.shape [s64 1 a] none) →
      let va := opv (operands ex [s64 1 a] f) 0
      va.toNat % 4 ≠ 0 → ∃ t, exec (.join h a) s = .next t ∧ trapped t va 4))

/-- The checks of a global access, in their order: a non-canonical address, the near-vault window, a context that is not valid, a
translation that is in neither cache (the fibre parks on the walk of its page), a right that the page does not give, a store to a crust page. A failed
check ends the carpet; a permission violation freezes the cushion (R216, R373, R374, R395 to R398, R442). -/
def Obligations.AccessChecksComeInOrder : Prop :=
  ∀ s ex f h sz acq sc d base imm, solo s ex f (loadHdr h sz) (ldShape sz d base) → getCarpet s f.carpet = some ex.car →
    let va := ldAddr ex f base imm.toInt
    va.toNat % 2 ^ 16 + accBytes sz ≤ 2 ^ 16 →
    let nb := nearBase s ex.car.asid
    let det (level reason : Nat) : DWord := BitVec.ofNat 64 (8 * level + 64 * reason)
    let inNear : Prop := nb.toNat ≤ va.toNat ∧ va.toNat < nb.toNat + 2 ^ 22
    let x := (tlbFind s.coreTlb ex.core ex.car.asid va).orElse (fun _ => tlbFind s.dieTlb (ex.core / 48) ex.car.asid va)
    (canonicalVA va = false → ∃ t, exec (.ld h sz acq sc d base imm) s = .next t ∧ CarpetEnds s f ex.pc 0x203 va (det 0 0) (some f.cush) t) ∧
    (canonicalVA va = true → inNear → ∃ t, exec (.ld h sz acq sc d base imm) s = .next t ∧ CarpetEnds s f ex.pc 0x204 va (det 0 0) (some f.cush) t) ∧
    (canonicalVA va = true → ¬ inNear →
      (ctlB s (offCTXMEM ex.car.asid) 0 = false →
        ∃ t, exec (.ld h sz acq sc d base imm) s = .next t ∧ CarpetEnds s f ex.pc 0x20E va (det 0 0) none t) ∧
      (ctlB s (offCTXMEM ex.car.asid) 0 = true → x = none → roomFor s f (parkArgs ex ex.pc .walk) → calm s = true →
        ∃ t, exec (.ld h sz acq sc d base imm) s = .next t ∧ Parks s ex f (parkArgs ex ex.pc .walk) t ∧ homesStay s t ∧ t.loads = s.loads ∧
          t.reqs = s.reqs ∧ ∃ w ∈ t.walks, w.die = f.core / 48 ∧ w.asid = ex.car.asid ∧ pageOf s ex.car.asid w.va = pageOf s ex.car.asid va ∧
            w.waiters.getLast? = some (.fibre f.fid va (gAcc .load va (accBytes sz) true false) ex.pc)) ∧
      (ctlB s (offCTXMEM ex.car.asid) 0 = true → (∀ y, x = some y → y.leaf.getLsbD 2 = false) → x.isSome = true →
        ∃ t, exec (.ld h sz acq sc d base imm) s = .next t ∧ CarpetEnds s f ex.pc 0x201 va (det 7 1) (some f.cush) t)) ∧
    (∀ rel data, solo s ex f h (stnShape sz data base) → canonicalVA va = true → ¬ inNear → ctlB s (offCTXMEM ex.car.asid) 0 = true →
      x.isSome = true → (∀ y, x = some y → y.leaf.getLsbD 3 = true ∧ y.leaf.getLsbD 9 = true) →
      ∃ t, exec (.st h sz rel sc data base imm) s = .next t ∧ CarpetEnds s f ex.pc 0x205 va (1#64) (some f.cush) t)

/-- FENCE, CLINE, PREF and LSYNC. A plain fence and one at cushion scope only advance; at core scope a fence waits for the stores of the fibre and
its cushion; at die scope and wider the core's dirty words go home and its clean words are dropped. PREF changes nothing that a program can read.
CLINE at cushion or core scope does nothing, else it writes back or drops one line. LSYNC at cushion or core scope completes at once, else it waits
for the fibre's stores and then asks all dies (R207, R230, R231, R233, R254, R259 to R262). That a fence at cushion or core scope is one of package
scope in a cushion of which a fibre has gone away, and so an away fibre's LSYNC, is the model's reading and choice (log entry 42), and that a fence
waits for the stores of fellows is its reading of R231 (log entry 23). -/
def Obligations.FencesAndLinesOrderTheL1 : Prop :=
  (∀ s ex h o sc, FibresApart s → ready s ex h noShape = true → (∀ f ∈ actives ex h, o = .plain ∨ workOf s f true sc = some .cushion) →
    ∃ t, exec (.fence h o sc) s = .next t ∧ (∀ f ∈ ex.lanes, getFibre t f.fid = some { f with pc := ex.pc + 8#64 }) ∧ sameOutside s t ∧
      othersStay s ex t ∧ runAfter ex h.er ex.latches t) ∧
  (∀ s ex f h o sc k, FibresApart s → solo s ex f h noShape → o ≠ .plain → workOf s f true sc = some k → k ≠ .cushion →
    let open_ : Prop := f.stcnt ≠ 0 ∨ ex.cush.retired ≠ 0 ∨ storesBefore s ex.cush.cid s.nextId = true
    let wait := parkArgs ex (ex.pc + 8#64) (.fence k none s.nextId)
    (open_ → roomFor s f wait → ∃ t, exec (.fence h o sc) s = .next t ∧ Parks s ex f wait t ∧ t.l1 = s.l1 ∧ t.reqs = s.reqs) ∧
    (¬ open_ → k = .core →
      ∃ t, exec (.fence h o sc) s = .next t ∧ Becomes s ex f { f with pc := ex.pc + 8#64 } h.er t) ∧
    (¬ open_ → k ≠ .core → (∀ w ∈ s.wbs, w.1 ≠ ex.core) →
      ((∀ l ∈ s.l1, l.core = ex.core → l.dirty = 0#16) →
        ∃ t, exec (.fence h o sc) s = .next t ∧ getFibre t f.fid = some { f with pc := ex.pc + 8#64 } ∧ runAfter ex h.er ex.latches t ∧
          t.l1 = s.l1.filter (fun l => l.core != ex.core && l.valid != 0#16) ∧ homesStay s t) ∧
      ((∃ l ∈ s.l1, l.core = ex.core ∧ l.dirty ≠ 0#16) → roomFor s f wait →
        ∃ t, exec (.fence h o sc) s = .next t ∧ Parks s ex f (parkArgs ex (ex.pc + 8#64) (.fence k (some t.nextId) t.nextId)) t ∧ homesStay s t ∧
          (∀ l ∈ t.l1, l.core = ex.core → l.dirty = 0#16) ∧
          ∀ l ∈ s.l1, l.core = ex.core → l.dirty ≠ 0#16 → ∃ q ∈ t.reqs, q.op = .write (.writeBack ex.core) (dirtyCells l)))) ∧
  (∀ s ex h l2 base off, ready s ex h (addrShape 6 base) = true →
    ∃ t, exec (.pref h l2 base off) s = .next t ∧ (∀ f ∈ ex.lanes, getFibre t f.fid = some { f with pc := ex.pc + 8#64 }) ∧ homesStay s t ∧
      t.l1 = s.l1 ∧ t.spilled = s.spilled ∧ othersStay s ex t ∧ runAfter ex h.er ex.latches t ∧ movers t = movers s) ∧
  (∀ s ex h op sc base off, ready s ex h (addrShape 6 base) = true → calm s = true →
    (∀ f ∈ actives ex h, scopeOf f true sc = some .cushion ∨ scopeOf f true sc = some .core) →
    ∃ t, exec (.cline h op sc base off) s = .next t ∧ (∀ f ∈ ex.lanes, getFibre t f.fid = some { f with pc := ex.pc + 8#64 }) ∧ sameOutside s t ∧
      othersStay s ex t ∧ runAfter ex h.er ex.latches t) ∧
  (∀ s ex f h op sc base off, solo s ex f h (addrShape 6 base) → scopeOf f true sc ≠ some .cushion → scopeOf f true sc ≠ some .core →
    Reaches s ex (lineAcc ex f base off) → f.stcnt < 0xFFFF → calm s = true →
    ∀ a, cachedAt s ex (lineAcc ex f base off) = some a → ∀ l, l1Get s ex.core (a / 64) = some l →
    ∃ t, exec (.cline h op sc base off) s = .next t ∧ homesStay s t ∧ runAfter ex h.er ex.latches t ∧
      Continues ex f (if op = .inv ∨ l.dirty = 0#16 then f.stcnt else f.stcnt + 1) t ∧
      (op ≠ .inv → l.dirty ≠ 0#16 → ∃ n, Asked t ex f (homeDie a) (.write (.store f.fid ex.cush.cid n) (dirtyCells l))) ∧
      (op = .wb → (l1Get t ex.core (a / 64)).map (fun k => (k.valid, k.dirty, k.data)) = some (l.valid, 0#16, l.data)) ∧
      (op = .inv → l.dirty ≠ 0#16 → (l1Get t ex.core (a / 64)).map (fun k => (k.valid, k.dirty, k.data)) = some (l.dirty, l.dirty, l.data)) ∧
      ((op = .wbinv ∨ op = .inv ∧ l.dirty = 0#16) → l1Get t ex.core (a / 64) = none)) ∧
  (∀ s ex h sc, ready s ex h noShape = true → calm s = true →
    (∀ f ∈ actives ex h, scopeOf f true sc = some .cushion ∨ scopeOf f true sc = some .core) →
    ∃ t, exec (.lsync h sc) s = .next t ∧ (∀ f ∈ ex.lanes, getFibre t f.fid = some { f with pc := ex.pc + 8#64 }) ∧ sameOutside s t ∧
      othersStay s ex t ∧ runAfter ex h.er ex.latches t) ∧
  (∀ s ex f h sc k, FibresApart s → solo s ex f h noShape → scopeOf f true sc = some k → k ≠ .cushion → k ≠ .core →
    roomFor s f (parkArgs ex (ex.pc + 8#64) (.lsyncDrain k)) → calm s = true →
    (f.stcnt ≠ 0 → ∃ t, exec (.lsync h sc) s = .next t ∧ Parks s ex f (parkArgs ex (ex.pc + 8#64) (.lsyncDrain k)) t) ∧
    (f.stcnt = 0 →
      ∃ t, exec (.lsync h sc) s = .next t ∧ Parks s ex f (parkArgs ex (ex.pc + 8#64) .reply) t ∧
        (∃ y, t.syncs.getLast? = some y ∧ y.fid = f.fid ∧ y.asid = asidOf s f.carpet ∧ y.sc = k ∧ y.dies = List.range 8 ∧
          (t.reqs.drop s.reqs.length).map (fun q => (q.die, q.op)) = (List.range 8).map (fun d => (d, .sync y.id)))))

/-- MIGRATE parks the fibre ready and sends it to the home die of the address: at its cushion's die it goes home, elsewhere it asks for a
landing slot there (R49, R203, R263). SPAWN makes a task of the address pair at a target of the function table and sets its predicate, or
clears it when there is no room; another target traps (R179, R389). Where its address has no translation the die of SPAWN.home is left open
(log entry 3). -/
def Obligations.FibresMigrateAndSpawnTasks : Prop :=
  (∀ s ex f h base off, solo s ex f h (addrShape 6 base) → Reaches s ex (dieAcc ex f base off) →
    roomFor s f { parkArgs ex (ex.pc + 8#64) .none with join := 0 } → calm s = true → ∀ a, memAt s ex (dieAcc ex f base off) = some a →
    ∃ t, exec (.migrate h base off) s = .next t ∧ runAfter ex true [] t ∧
      ∃ g, getFibre t f.fid = some g ∧ g.status = .ready ∧ g.pc = ex.pc + 8#64 ∧ g.stcnt = f.stcnt ∧
        (homeDie a = ex.cush.core / 48 → g.affinity = 0 ∧ g.away = false ∧ t.landing = s.landing ∧
          (f.cush = ex.cush.cid → (getCush t ex.cush.cid).map (·.fsr) = some (if f.away then ex.cush.fsr ||| f.awFlags else ex.cush.fsr))) ∧
        (homeDie a ≠ ex.cush.core / 48 → g.affinity = 3 ∧ g.tgtDie = homeDie a ∧ g.away = true ∧ g.awFctl = f.awFctl ∧
          t.landing = s.landing ++ [{ fid := f.fid, die := homeDie a }])) ∧
  (∀ s ex f h disp a e home, solo s ex f h (Machine.shape [sNoChan 2 1 a] none) →
    let arg := opv (operands ex [sNoChan 2 1 a] f) 0
    (∀ w, budgetOf ex.car (target ex disp) = some w →
      (sporeRoom s ex.core ex.car.asid 64 = true → f.fid ≠ s.nextId →
        ∃ t, exec (.spawn h disp a e home) s = .next t ∧ runAfter ex h.er ex.latches t ∧
          getFibre t f.fid = some { f with pc := ex.pc + 8#64, pred := withP f.pred e true } ∧
          ∃ g, t.fibres.getLast? = some g ∧ g.task = true ∧ g.status = .ready ∧ g.frame = arg ∧ g.pc = target ex disp ∧ g.winSize = w ∧
            g.cush = ex.cush.cid ∧ g.carpet = ex.cush.carpet ∧ g.core = ex.core ∧ g.idx = 0 ∧ g.affinity = (if home then 2 else 1) ∧
            (home = false → g.tgtDie = ex.core / 48) ∧
            (home = true → ∀ p, walkHome s ex arg = some p → g.tgtDie = homeDie p)) ∧
      (sporeRoom s ex.core ex.car.asid 64 = false →
        ∃ t, exec (.spawn h disp a e home) s = .next t ∧ Becomes s ex f { f with pc := ex.pc + 8#64, pred := withP f.pred e false } h.er t)) ∧
    (∀ car, traps s f car → budgetOf ex.car (target ex disp) = none →
      ∃ t, exec (.spawn h disp a e home) s = .next t ∧ InHandler s ex f car 0x10D (target ex disp) 0 t ∧ TrapFrame s ex t))

namespace Sys2Proof.Stmt

open Sys2Proof.Machine Sys2Proof.Safety

/-! ## Cursors (R264 to R287) -/

/-- A cursor instruction finds its data: the core's own accesses are all at their homes, and no set of a metadata cache holds more
than its 16 lines (R273). -/
def settled (s : State) : Bool :=
  calm s && s.reqs.isEmpty && s.meta_.all (fun l => decide ((s.meta_.filter (fun k =>
    k.core == l.core && Config.cacheSet k.line 256 == Config.cacheSet l.line 256)).length ≤ 16))

/-- The n bytes that the metadata cache of the core gives for an address, with the translation in the core's cache; of a page reached through RMT it
holds none (R273). -/
def seen (s : State) (ex : Ex) (va : DWord) (n : Nat) : Option Nat :=
  if (accParts va n).all (fun p => (tlbFind s.coreTlb ex.core ex.car.asid p.1).isSome) then
    match (xlate s ex.core ex.car.asid (gAcc .walker va n true false)).2 with
    | .ok xs => ((placesOf s xs).mapM (fun (p : Place) => match p with
        | .mem c a => if c = 3 then none else (metaFind s ex.core (a / 64)).map (fun (l : Line) => getD l.data (a % 64) 0)
        | _ => none)).map ofBytes
    | _ => none
  else none

/-- The physical bytes that a write of n bytes at an address goes to (R274). -/
def goesTo (s : State) (ex : Ex) (va : DWord) (n : Nat) : Option (List Nat) :=
  if (accParts va n).all (fun p => (tlbFind s.coreTlb ex.core ex.car.asid p.1).isSome) then
    match (xlate s ex.core ex.car.asid (gAcc .walker va n false true)).2 with
    | .ok xs => (placesOf s xs).mapM (fun (p : Place) => match p with | .mem _ a => some a | _ => none)
    | _ => none
  else none

def at64 (a : DWord) (i n : Nat) : DWord := a + BitVec.ofNat 64 (i * n)

/-- The n bytes at an address as a walk reads them, where it can. -/
abbrev Rd : Type := DWord → Nat → Option Nat

/-- The level that the descriptor at an address describes, where it is well formed (R264, R391). -/
def levelAt (rd : Rd) (addr : DWord) : Option Lvl :=
  if addr.toNat % 64 ≠ 0 then none
  else match (List.range 8).mapM (fun i => (rd (at64 addr i 8) 8).map (BitVec.ofNat 64)) with
    | none => none
    | some v =>
      if descBad v then none
      else
        let d := getD v 0 0
        let fld (lo n : Nat) : Nat := (d.extractLsb' lo n).toNat
        some { addr, kind := fld 0 3, w := 16 * 2 ^ fld 3 2, pw := if d.getLsbD 5 then 8 else 4
               vt := (decFmt (d.extractLsb' 6 5)).getD .s8, hasval := d.getLsbD 11, bsz := 4 * 2 ^ fld 12 2, seg := d.getLsbD 14
               ce := 2 ^ fld 15 5, extent := (getD v 1 0).toNat, child := getD v 2 0, pos := getD v 3 0, crd := getD v 4 0
               aux := getD v 5 0, val := getD v 6 0 }

/-- The first element of the chunk that a heap of the executing die gives next, when it is enabled and not used up (R284). -/
def chunkNext (s : State) (ex : Ex) (lv : Lvl) (heap : Nat) : Option Nat :=
  let w0 := ctlW s (offHEAP ex.car.asid heap (ex.core / 48))
  let w1 := ctlW s (offHEAP ex.car.asid heap (ex.core / 48) + 8)
  let next := w1.toNat / 2 ^ 32
  if w0.getLsbD 0 = true ∧ next < w0.toNat / 2 ^ 32 then some ((w1.toNat % 2 ^ 32 + next) * lv.ce) else none

/-- A dense level; a compressed level without segments; a segmented one (R264). -/
def dense (lv : Lvl) : Prop := lv.kind = 0
def packed1 (lv : Lvl) : Prop := lv.kind = 1 ∧ lv.seg = false
def chained (lv : Lvl) : Prop := lv.kind = 1 ∧ lv.seg = true

/-- W0 of a cursor (R269). -/
def w0Of (desc : DWord) (kind : Nat) (done : Bool) : DWord :=
  BitVec.ofNat 64 (desc.toNat % 2 ^ 57 + kind * 2 ^ 57 + (if done then 2 ^ 60 else 0))

/-- The level that a cursor stands on, when it is loaded and the descriptor has the kind it names (R391); with `app` the level of an append. -/
def levelOf (rd : Rd) (app : Bool) (c : Cursor) : Option Lvl :=
  if c = ⟨0, 0, 0, 0⟩ ∨ c.w0.getLsbD 61 ≠ app then none
  else match levelAt rd ((c.w0.extractLsb' 0 57).signExtend 64) with
    | some lv => if lv.kind = (c.w0.extractLsb' 57 3).toNat then some lv else none
    | none => none
def isDone (c : Cursor) : Bool := c.w0.getLsbD 60

/-- Entry i of an array with entries of n bytes. -/
def entry (rd : Rd) (base : DWord) (i n : Nat) : Option Nat := rd (at64 base i n) n

/-- A position is a number and an offset within a run; as W1 holds it (R270). The size of a hashed table is 2^L. -/
def posIn (lv : Lvl) (w1 : DWord) : Nat × Nat :=
  if lv.kind = 3 then (w1.toNat % 2 ^ 40, 0) else if lv.kind = 4 then (w1.toNat % 2 ^ 40, w1.toNat / 2 ^ 40) else (w1.toNat, 0)
def sizeL (c : Cursor) : Nat := c.w1.toNat / 2 ^ 40 % 64
def w1Of (lv : Lvl) (l : Nat) (p : Nat × Nat) : DWord :=
  BitVec.ofNat 64 (if lv.kind = 3 then p.1 % 2 ^ 40 + l * 2 ^ 40 else if lv.kind = 4 then p.1 % 2 ^ 40 + p.2 % 2 ^ 24 * 2 ^ 40 else p.1)
def boundIn (lv : Lvl) (c : Cursor) : Nat := if lv.kind = 3 ∨ lv.kind = 4 then c.w2.toNat % 2 ^ 40 else c.w2.toNat

/-- A cursor made done: the position at the bound, all ones as the coordinate (R271). -/
def doneAs (lv : Lvl) (c : Cursor) : Cursor :=
  { c with w0 := c.w0 ||| (1#64 <<< 60), w1 := w1Of lv (sizeL c) (boundIn lv c, 0), w3 := BitVec.allOnes 64 }
/-- A cursor at a position with its coordinate. -/
def standsOn (lv : Lvl) (c : Cursor) (p : Nat × Nat) (x : Nat) : Cursor := { c with w1 := w1Of lv (sizeL c) p, w3 := BitVec.ofNat 64 x }

/-- Whether there is a position here below the bound, as far as its data is at hand: a set bit, an occupied slot, an offset within the run; every
place of a dense, compressed or block level is one (R265). -/
def isPos (rd : Rd) (lv : Lvl) (p : Nat × Nat) : Option Bool :=
  match lv.kind with
  | 2 => (entry rd lv.crd (p.1 / 64) 8).map (fun w => w.testBit (p.1 % 64))
  | 3 => (entry rd lv.crd p.1 (lv.w / 8)).map (fun x => decide (x ≠ 2 ^ lv.w - 1))
  | 4 => (entry rd lv.aux p.1 4).map (fun n => decide (p.2 < n))
  | _ => some true

/-- The first position from a place on, of a level without segments, and how many steps it takes: one to a next slot or run, or to the next word of
a bitmap (R265, R272). -/
inductive FirstAt (rd : Rd) (lv : Lvl) (bound : Nat) : Nat → Nat × Nat → Option (Nat × Nat) → Prop
  | ended p : bound ≤ p.1 → FirstAt rd lv bound 0 p none
  | here p : p.1 < bound → isPos rd lv p = some true → FirstAt rd lv bound 0 p (some p)
  | on n p r : p.1 < bound → isPos rd lv p = some false → FirstAt rd lv bound n (p.1 + 1, 0) r →
      FirstAt rd lv bound (n + if lv.kind = 2 ∧ (p.1 + 1) % 64 ≠ 0 then 0 else 1) p r

/-- The first position of the places from p on; a chain is empty where it begins at its end (R265, R267). -/
def FirstOf (rd : Rd) (lv : Lvl) (bound n : Nat) (p : Nat × Nat) (r : Option (Nat × Nat)) : Prop :=
  if lv.seg then r = if p.1 = bound then none else some p else FirstAt rd lv bound n p r

/-- The position after p: along a chain by its links, else the next one (R265, R267). -/
def NextOf (rd : Rd) (lv : Lvl) (bound n : Nat) (p : Nat × Nat) (r : Option (Nat × Nat)) : Prop :=
  if lv.seg then
    if p.1 + 1 = bound then r = none
    else if (p.1 + 1) % lv.ce = lv.ce - 1 then ∃ j, entry rd lv.crd (p.1 + 1) (lv.w / 8) = some j ∧ r = if j = bound then none else some (j, 0)
    else r = some (p.1 + 1, 0)
  else FirstAt rd lv bound n (if lv.kind = 4 then (p.1, p.2 + 1) else (p.1 + 1, 0)) r

/-- The coordinate at a position (R265). -/
def crdOf (rd : Rd) (lv : Lvl) (bound : Nat) (p : Nat × Nat) : Option Nat :=
  match lv.kind with
  | 0 | 2 => some (p.1 + lv.extent - bound)
  | 4 => (entry rd lv.crd p.1 (lv.w / 8)).map (· + p.2)
  | 5 => (entry rd lv.crd (p.1 / lv.bsz) (lv.w / 8)).map (fun x => x * lv.bsz + p.1 % lv.bsz)
  | _ => entry rd lv.crd p.1 (lv.w / 8)

/-- The child and value index at a position: of a bitmap, the set bits before it (R265). -/
def childOf (rd : Rd) (lv : Lvl) (p : Nat × Nat) : Option Nat :=
  if lv.kind = 2 then
    match entry rd lv.aux (p.1 / 512) lv.pw, (List.range (p.1 % 512 / 64 + 1)).mapM (fun i => entry rd lv.crd (p.1 / 512 * 8 + i) 8) with
    | some r, some ws => some (r + (List.range (p.1 % 512)).countP (fun i => (getD ws (i / 64) 0).testBit (i % 64)))
    | _, _ => none
  else some p.1

/-- A cursor moved to a position, or made done (R271). -/
def Moved (rd : Rd) (lv : Lvl) (c : Cursor) (r : Option (Nat × Nat)) (c' : Cursor) : Prop :=
  match r with
  | none => c' = doneAs lv c
  | some p => ∃ x, crdOf rd lv (boundIn lv c) p = some x ∧ c' = standsOn lv c p x

/-- The places of a parent: the first, and the bound (R265, R267). -/
def rangeOf (rd : Rd) (lv : Lvl) (p : Nat) : Option (Nat × Nat) :=
  let pair (i k : Nat) : Option (Nat × Nat) := match entry rd lv.pos i lv.pw, entry rd lv.pos (i + 1) lv.pw with
    | some lo, some hi => some (lo * k, hi * k)
    | _, _ => none
  match lv.kind with
  | 0 | 2 => some (p * lv.extent, (p + 1) * lv.extent)
  | 1 => if lv.seg then pair (2 * p) 1 else pair p 1
  | 5 => pair p lv.bsz
  | _ => pair p 1

/-- The cursor that enters the positions of a parent (R271). -/
def Enters (rd : Rd) (steps : Nat) (lv : Lvl) (p : Nat) (c' : Cursor) : Prop :=
  ∃ lo hi n r, rangeOf rd lv p = some (lo, hi) ∧ (hi < if lv.kind = 3 ∨ lv.kind = 4 then 2 ^ 40 else 2 ^ 64) ∧ n ≤ steps ∧
    FirstOf rd lv hi n (lo, 0) r ∧
    Moved rd lv ⟨w0Of lv.addr lv.kind false, w1Of lv (if lv.kind = 3 then (hi - lo).log2 else 0) (lo, 0), BitVec.ofNat 64 hi, 0⟩ r c'

/-- A probe of the hashed table at lo with n slots, so many of them left, for coordinate x (R266). -/
inductive Probes (rd : Rd) (lv : Lvl) (x lo n : Nat) : Nat → Nat → Nat → Option Nat → Prop
  | full q : Probes rd lv x lo n 0 0 q none
  | found i q : entry rd lv.crd q (lv.w / 8) = some x → Probes rd lv x lo n (i + 1) 0 q (some q)
  | empty i q : entry rd lv.crd q (lv.w / 8) = some (2 ^ lv.w - 1) → x ≠ 2 ^ lv.w - 1 → Probes rd lv x lo n (i + 1) 0 q none
  | on i k q y r : entry rd lv.crd q (lv.w / 8) = some y → y ≠ x → y ≠ 2 ^ lv.w - 1 → Probes rd lv x lo n i k (lo + (q - lo + 1) % n) r →
      Probes rd lv x lo n (i + 1) (k + 1) q r

/-- What the lookup of a coordinate in the table of a hashed cursor finds, in k further probes (R266, R270). -/
def LooksUp (rd : Rd) (lv : Lvl) (c : Cursor) (k x : Nat) (r : Option Nat) : Prop :=
  let lo := boundIn lv c - 2 ^ sizeL c
  Probes rd lv x lo (2 ^ sizeL c) (2 ^ sizeL c) k
    (lo + if sizeL c = 0 then 0 else x * 0x9E3779B97F4A7C15 % 2 ^ 64 / 2 ^ (64 - sizeL c)) r

/-- The first position along a chain with a coordinate of at least x (R267, R278). -/
inductive ChainAt (rd : Rd) (lv : Lvl) (bound x : Nat) : Nat → Option (Nat × Nat) → Option (Nat × Nat) → Prop
  | ended : ChainAt rd lv bound x 0 none none
  | here p y : p.1 ≠ bound → entry rd lv.crd p.1 (lv.w / 8) = some y → x ≤ y → ChainAt rd lv bound x 0 (some p) (some p)
  | on n p y q r : p.1 ≠ bound → entry rd lv.crd p.1 (lv.w / 8) = some y → y < x → NextOf rd lv bound 0 p q →
      ChainAt rd lv bound x n q r → ChainAt rd lv bound x (n + 1) (some p) r

/-- The entries of an array from lo to hi, all at hand, are below a coordinate up to mid, as a test says, and from mid on none is. -/
def splitsAt (lo mid hi : Nat) (below : Nat → Option Bool) : Prop :=
  lo ≤ mid ∧ hi < lo + 2 ^ 32 ∧ (∀ i, lo ≤ i → i < mid → i < hi → below i = some true) ∧ ∀ i, mid ≤ i → i < hi → below i = some false

/-- The first position at or after p with a coordinate of at least x, of an ordered level (R278). -/
def Seeks (rd : Rd) (steps : Nat) (lv : Lvl) (bound : Nat) (p : Nat × Nat) (x : Nat) (r : Option (Nat × Nat)) : Prop :=
  let crd (i : Nat) := entry rd lv.crd i (lv.w / 8)
  match lv.kind with
  | 0 => r = if max p.1 (bound + x - lv.extent) < bound then some (max p.1 (bound + x - lv.extent), 0) else none
  | 1 =>
    if lv.seg then ∃ n, n ≤ steps ∧ ChainAt rd lv bound x n (some p) r
    else ∃ q, splitsAt p.1 q bound (fun i => (crd i).map (fun y => decide (y < x))) ∧ r = if q < bound then some (q, 0) else none
  | 2 => ∃ n, n ≤ steps ∧ FirstAt rd lv bound n (max p.1 (bound + x - lv.extent), 0) r
  | 4 => ∃ q, splitsAt p.1 q bound (fun i => match crd i, entry rd lv.aux i 4 with
      | some a, some n => some (decide (a + n ≤ x))
      | _, _ => none) ∧
    if bound ≤ q then r = none
    else ∃ a n, crd q = some a ∧ entry rd lv.aux q 4 = some n ∧ max (if q = p.1 then p.2 else 0) (x - a) < n ∧
      r = some (q, max (if q = p.1 then p.2 else 0) (x - a))
  | 5 => bound % lv.bsz = 0 ∧ ∃ b, splitsAt (p.1 / lv.bsz) b (bound / lv.bsz) (fun i => (crd i).map (fun a => decide (a * lv.bsz + lv.bsz ≤ x))) ∧
    if bound / lv.bsz ≤ b then r = none
    else ∃ a, crd b = some a ∧ max p.1 (b * lv.bsz + (x - a * lv.bsz)) < bound ∧ r = some (max p.1 (b * lv.bsz + (x - a * lv.bsz)), 0)
  | _ => False

/-- The positions from one on, each with its coordinate. -/
inductive Lists (rd : Rd) (lv : Lvl) (bound : Nat) : Nat → Option (Nat × Nat) → List ((Nat × Nat) × Nat) → Prop
  | nil : Lists rd lv bound 0 none []
  | cons n m p x r L : crdOf rd lv bound p = some x → NextOf rd lv bound n p r → Lists rd lv bound m r L →
      Lists rd lv bound (n + m) (some p) ((p, x) :: L)

/-- Where a side of a co-iteration, not hashed, holds a coordinate at or after its cursor, which stands on a position: by arithmetic in a dense level;
of another, in a list of at most eight positions, all of whose data is at hand, in ascending coordinates (R268, R281, R282). -/
def Holds (rd : Rd) (lv : Lvl) (c : Cursor) (has : Nat → Nat × Nat → Prop) : Prop :=
  let bound := boundIn lv c
  let p := posIn lv c.w1
  (lv.kind = 0 ∧ lv.extent ≤ bound ∧ p.1 + lv.extent = bound + c.w3.toNat ∧
    ∀ x q, has x q ↔ c.w3.toNat ≤ x ∧ x < lv.extent ∧ q = (bound + x - lv.extent, 0)) ∨
  (lv.kind ≠ 0 ∧ lv.kind ≠ 3 ∧ (lv.kind = 2 → lv.extent ≤ bound) ∧ (lv.kind = 5 → bound % lv.bsz = 0) ∧
    (lv.kind = 4 → ∀ i, p.1 ≤ i → i < bound → ∃ n, entry rd lv.aux i 4 = some n ∧ 0 < n) ∧
    (if lv.seg then p.1 ≠ bound else p.1 < bound) ∧ isPos rd lv p = some true ∧
    ∃ n L, Lists rd lv bound n (some p) ((p, c.w3.toNat) :: L) ∧ n ≤ 8 ∧ L.length < 8 ∧
      ((p, c.w3.toNat) :: L).Pairwise (fun a b => a.2 < b.2) ∧ ∀ x q, has x q ↔ (q, x) ∈ (p, c.w3.toNat) :: L)

/-- Whether the probed side, dense or hashed, has a coordinate, and where (R282). -/
def Found (rd : Rd) (lv : Lvl) (c : Cursor) (k x : Nat) (r : Option (Nat × Nat)) : Prop :=
  if lv.kind = 3 then ∃ q, LooksUp rd lv c k x q ∧ r = q.map (·, 0)
  else lv.kind = 0 ∧ lv.extent ≤ boundIn lv c ∧ r = if x < lv.extent then some (boundIn lv c + x - lv.extent, 0) else none

/-- The first position of the driving side, from one on, whose coordinate the probed side has: the coordinate and both positions (R281). -/
inductive Drives (rd : Rd) (ld lo : Lvl) (d o : Cursor) : Nat → Option (Nat × Nat) → Option (Nat × (Nat × Nat) × (Nat × Nat)) → Prop
  | ended : Drives rd ld lo d o 0 none none
  | found k p x q : crdOf rd ld (boundIn ld d) p = some x → Found rd lo o k x (some q) →
      Drives rd ld lo d o k (some p) (some (x, p, q))
  | on k n m p x r y : crdOf rd ld (boundIn ld d) p = some x → Found rd lo o k x none → NextOf rd ld (boundIn ld d) n p r →
      Drives rd ld lo d o m r y → Drives rd ld lo d o (k + n + m + 1) (some p) y

/-- Entry i of the value array of a level (R121, R280). -/
def valAt (rd : Rd) (lv : Lvl) (i : Nat) : Option Nat :=
  if fmtBits lv.vt = 4 then (rd (lv.val + BitVec.ofNat 64 (i / 2)) 1).map (fun x => x / 16 ^ (i % 2) % 16)
  else rd (at64 lv.val i (fmtBits lv.vt / 8)) (fmtBits lv.vt / 8)

/-- A value of one type as CVAL delivers it in another, with the flags (R131, R280). -/
def valueAs (ty st : Fmt) (x : Nat) : DWord × BitVec 5 :=
  if st = ty then (placeVal ty x, 0) else cvtVal ty st .rne true (BitVec.ofNat 64 x)

/-- The shape of CCRD, CVAL and COIT: D is an x register, or none with WS (R275). -/
def curdShape (d : Dst) : Shape := Machine.shape [] (some { field := 0, dst := d, words := 1, chan := false, xOnly := true, wsNone := true })

/-- The shape of a cursor instruction with sources. That a poisoned word of either register of the pair at a source refuses the read is the model's
reading (R418; log entry 40). -/
def curaShape (srcs : List SrcU) : Shape := { Machine.shape srcs none with more := srcs.map (fun u => { u with words := max 2 u.words }) }

/-- A pair destination fits: even and in the window (R388). -/
def wideOk (f : Fibre) (wide : Bool) (d : Dst) : Prop :=
  wide = true → match d with | .x i => i.toNat % 2 = 0 ∧ i.toNat + 2 ≤ 16 * f.winSize | .none => True | _ => False

/-- The operand of a cursor instruction at the width of its level. -/
def coordOp (ex : Ex) (f : Fibre) (wide : Bool) (a : Src) : DWord :=
  if wide then opv (operands ex [sNoChan 2 1 a] f) 0 else opv (operands ex [sNoChan 1 1 a] f) 0
def coordOk (ex : Ex) (f : Fibre) (wide : Bool) (a : Src) : Prop := wide = true → srcOk ex f (sNoChan 2 1 a) = true

/-- The cursor instructions that write nothing to memory: shape and result field. -/
inductive CursForm : Instr → Hdr → Shape → Option Dst → Prop
  | cload h d a : CursForm (.cload h d a) h (curaShape [sG 1 a]) none
  | cnext h d : CursForm (.cnext h d) h noShape none
  | cseek h ge d a : CursForm (.cseek h ge d a) h (curaShape [sNoChan 1 1 a]) none
  | cdesc h d a : CursForm (.cdesc h d a) h noShape none
  | crest h d a : CursForm (.crest h d a) h (curaShape [sBase 2 1 a]) none
  | ccrd h d a : CursForm (.ccrd h d a) h (curdShape d) (some d)
  | cval h ty d a : CursForm (.cval h ty d a) h (curdShape d) (some d)
  | coit h u d a b : CursForm (.coit h u d a b) h (curdShape d) (some d)

/-- What a walk works with: the bytes it reads, its operand A at 64 or 32 bits and whether it may be used so, whether its destination fits, and the
steps it may take (R272, R275). -/
structure WalkIn where
  rd : Rd
  arg : Bool → DWord
  argOk : Bool → Prop
  dstOk : Bool → Prop
  steps : Nat

/-- A walk at issue: on hits of the metadata cache, and at most 64 steps (R272). -/
def atIssue (s : State) (ex : Ex) (f : Fibre) (i : Instr) : WalkIn where
  rd := seen s ex
  arg wide := match i with
    | .cload _ _ a => opv (operands ex [sG 1 a] f) 0
    | .crest _ _ a => opv (operands ex [sBase 2 1 a] f) 0
    | .cseek _ _ _ a => coordOp ex f wide a
    | _ => 0
  argOk wide := match i with
    | .cseek _ _ _ a => coordOk ex f wide a
    | _ => True
  dstOk wide := match i with
    | .ccrd _ d _ | .cval _ _ d _ | .coit _ _ d _ _ => wideOk f wide d
    | _ => True
  steps := 60

/-- All ones at the width of a co-iteration (R281). -/
def onesOf (la lb : Lvl) : DWord := if la.w = 64 ∨ lb.w = 64 then BitVec.allOnes 64 else 0xFFFFFFFF#64
def wideOf (la lb : Lvl) : Bool := decide (la.w = 64) || decide (lb.w = 64)

/-- Side A drives a co-iteration with a hashed side: a hashed side drives a dense one, any other side drives a hashed one, and of two hashed sides A
drives (R282). -/
def aLeads (la lb : Lvl) : Bool := if lb.kind = 3 then decide (la.kind ≠ 0) else decide (lb.kind = 0)

/-- What such an instruction does to a fibre, where the metadata cache has the data of the walk and the walk takes no more than 64 steps: the cursors
it sets, its result with whether it is a pair, and the flags it raises (R265 to R272, R276 to R283). -/
inductive CursStep (w : WalkIn) (f : Fibre) : Instr → List (Nat × Cursor) → Option (DWord × Bool) → BitVec 5 → Prop
  | load h d a lv c : levelAt w.rd (w.arg true) = some lv → Enters w.rd w.steps lv 0 c →
      CursStep w f (.cload h d a) [(d.toNat, c)] none 0
  | nextStays h d lv : levelOf w.rd false (getK f d.toNat) = some lv → isDone (getK f d.toNat) = true → CursStep w f (.cnext h d) [(d.toNat, getK f d.toNat)] none 0
  | next h d lv n r c : levelOf w.rd false (getK f d.toNat) = some lv → isDone (getK f d.toNat) = false → n ≤ w.steps →
      NextOf w.rd lv (boundIn lv (getK f d.toNat)) n (posIn lv (getK f d.toNat).w1) r → Moved w.rd lv (getK f d.toNat) r c →
      CursStep w f (.cnext h d) [(d.toNat, c)] none 0
  | seekStays h ge d a lv : levelOf w.rd false (getK f d.toNat) = some lv → isDone (getK f d.toNat) = true →
      (ge = true → lv.kind ≠ 3) → w.argOk (decide (lv.w = 64)) → CursStep w f (.cseek h ge d a) [(d.toNat, getK f d.toNat)] none 0
  | seek h ge d a lv r c : levelOf w.rd false (getK f d.toNat) = some lv → isDone (getK f d.toNat) = false → lv.kind ≠ 3 →
      w.argOk (decide (lv.w = 64)) →
      Seeks w.rd w.steps lv (boundIn lv (getK f d.toNat)) (posIn lv (getK f d.toNat).w1) (w.arg (decide (lv.w = 64))).toNat r →
      Moved w.rd lv (getK f d.toNat) r c →
      CursStep w f (.cseek h ge d a)
        [(d.toNat, if ge = false ∧ c.w3 ≠ w.arg (decide (lv.w = 64)) then doneAs lv (getK f d.toNat) else c)] none 0
  | seekHash h d a lv k r : levelOf w.rd false (getK f d.toNat) = some lv → isDone (getK f d.toNat) = false → lv.kind = 3 →
      w.argOk (decide (lv.w = 64)) → k ≤ w.steps → LooksUp w.rd lv (getK f d.toNat) k (w.arg (decide (lv.w = 64))).toNat r →
      CursStep w f (.cseek h false d a) [(d.toNat, match r with
        | some q => standsOn lv (getK f d.toNat) (q, 0) (w.arg (decide (lv.w = 64))).toNat
        | none => doneAs lv (getK f d.toNat))] none 0
  | descDone h d a lv ch : levelOf w.rd false (getK f a.toNat) = some lv → lv.child ≠ 0#64 → levelAt w.rd lv.child = some ch →
      isDone (getK f a.toNat) = true →
      CursStep w f (.cdesc h d a) [(d.toNat, ⟨w0Of ch.addr ch.kind true, 0, 0, BitVec.allOnes 64⟩)] none 0
  | desc h d a lv ch q c : levelOf w.rd false (getK f a.toNat) = some lv → lv.child ≠ 0#64 → levelAt w.rd lv.child = some ch →
      isDone (getK f a.toNat) = false → childOf w.rd lv (posIn lv (getK f a.toNat).w1) = some q → Enters w.rd w.steps ch q c →
      CursStep w f (.cdesc h d a) [(d.toNat, c)] none 0
  | restore h d a w0 w1 w2 w3 : (w.arg true).toNat % 32 = 0 →
      w.rd (w.arg true) 8 = some w0 → w.rd (at64 (w.arg true) 1 8) 8 = some w1 →
      w.rd (at64 (w.arg true) 2 8) 8 = some w2 → w.rd (at64 (w.arg true) 3 8) 8 = some w3 →
      CursStep w f (.crest h d a) [(d.toNat, ⟨BitVec.ofNat 64 w0, BitVec.ofNat 64 w1, BitVec.ofNat 64 w2, BitVec.ofNat 64 w3⟩)] none 0
  | coordinate h d a lv : levelOf w.rd false (getK f a.toNat) = some lv → w.dstOk (decide (lv.w = 64)) →
      CursStep w f (.ccrd h d a) [] (some (if lv.w = 64 then (getK f a.toNat).w3 else zext (lo32 (getK f a.toNat).w3), decide (lv.w = 64))) 0
  | valueDone h ty d a lv : levelOf w.rd false (getK f a.toNat) = some lv → w.dstOk (decide (fmtBits ty = 64)) → lv.hasval = true →
      isDone (getK f a.toNat) = true → CursStep w f (.cval h ty d a) [] (some (0, decide (fmtBits ty = 64))) 0
  | value h ty d a lv q x : levelOf w.rd false (getK f a.toNat) = some lv → w.dstOk (decide (fmtBits ty = 64)) → lv.hasval = true →
      isDone (getK f a.toNat) = false → childOf w.rd lv (posIn lv (getK f a.toNat).w1) = some q → valAt w.rd lv q = some x →
      CursStep w f (.cval h ty d a) [] (some ((valueAs ty lv.vt x).1, decide (fmtBits ty = 64))) (valueAs ty lv.vt x).2
  | union h d a b la lb : levelOf w.rd false (getK f a.toNat) = some la → levelOf w.rd false (getK f b.toNat) = some lb →
      w.dstOk (wideOf la lb) → la.kind ≠ 3 → lb.kind ≠ 3 →
      CursStep w f (.coit h true d a b) [(a.toNat, getK f a.toNat), (b.toNat, getK f b.toNat)] (some (
        let va := if isDone (getK f a.toNat) then onesOf la lb else (getK f a.toNat).w3
        let vb := if isDone (getK f b.toNat) then onesOf la lb else (getK f b.toNat).w3
        (if va.toNat ≤ vb.toNat then va else vb, wideOf la lb))) 0
  | meetDone h d a b la lb : levelOf w.rd false (getK f a.toNat) = some la → levelOf w.rd false (getK f b.toNat) = some lb →
      w.dstOk (wideOf la lb) → isDone (getK f a.toNat) = true ∨ isDone (getK f b.toNat) = true →
      CursStep w f (.coit h false d a b) [(a.toNat, doneAs la (getK f a.toNat)), (b.toNat, doneAs lb (getK f b.toNat))]
        (some (onesOf la lb, wideOf la lb)) 0
  | meetNone h d a b la lb ha hb : levelOf w.rd false (getK f a.toNat) = some la → levelOf w.rd false (getK f b.toNat) = some lb →
      w.dstOk (wideOf la lb) → isDone (getK f a.toNat) = false → isDone (getK f b.toNat) = false →
      Holds w.rd la (getK f a.toNat) ha → Holds w.rd lb (getK f b.toNat) hb →
      (∀ x q r, max (getK f a.toNat).w3.toNat (getK f b.toNat).w3.toNat ≤ x → ha x q → ¬ hb x r) →
      (dense la → dense lb → la.extent ≤ max (getK f a.toNat).w3.toNat (getK f b.toNat).w3.toNat + w.steps) →
      CursStep w f (.coit h false d a b) [(a.toNat, doneAs la (getK f a.toNat)), (b.toNat, doneAs lb (getK f b.toNat))]
        (some (onesOf la lb, wideOf la lb)) 0
  | meets h d a b la lb ha hb x q r : levelOf w.rd false (getK f a.toNat) = some la → levelOf w.rd false (getK f b.toNat) = some lb →
      w.dstOk (wideOf la lb) → isDone (getK f a.toNat) = false → isDone (getK f b.toNat) = false →
      Holds w.rd la (getK f a.toNat) ha → Holds w.rd lb (getK f b.toNat) hb →
      max (getK f a.toNat).w3.toNat (getK f b.toNat).w3.toNat ≤ x → ha x q → hb x r →
      (∀ y i j, max (getK f a.toNat).w3.toNat (getK f b.toNat).w3.toNat ≤ y → y < x → ha y i → ¬ hb y j) →
      CursStep w f (.coit h false d a b) [(a.toNat, standsOn la (getK f a.toNat) q x), (b.toNat, standsOn lb (getK f b.toNat) r x)]
        (some (BitVec.ofNat 64 x, wideOf la lb)) 0
  | hashed h d a b la lb m n p y : levelOf w.rd false (getK f a.toNat) = some la → levelOf w.rd false (getK f b.toNat) = some lb →
      w.dstOk (wideOf la lb) → isDone (getK f a.toNat) = false → isDone (getK f b.toNat) = false → la.kind = 3 ∨ lb.kind = 3 → m + n ≤ w.steps →
      (if aLeads la lb then
        FirstOf w.rd la (boundIn la (getK f a.toNat)) m (posIn la (getK f a.toNat).w1) p ∧ Drives w.rd la lb (getK f a.toNat) (getK f b.toNat) n p y
      else
        FirstOf w.rd lb (boundIn lb (getK f b.toNat)) m (posIn lb (getK f b.toNat).w1) p ∧ Drives w.rd lb la (getK f b.toNat) (getK f a.toNat) n p y) →
      (∀ x q r, y = some (x, q, r) → x < 2 ^ 64) →
      CursStep w f (.coit h false d a b)
        (match y with
          | none => [(a.toNat, doneAs la (getK f a.toNat)), (b.toNat, doneAs lb (getK f b.toNat))]
          | some (x, q, r) => [(a.toNat, standsOn la (getK f a.toNat) (if aLeads la lb then q else r) x),
                               (b.toNat, standsOn lb (getK f b.toNat) (if aLeads la lb then r else q) x)])
        (some (match y with | none => onesOf la lb | some (x, _, _) => BitVec.ofNat 64 x, wideOf la lb)) 0

/-- The fibre with its result: in the x register but for WS (R81). -/
def withResult (ws : Bool) (d : Option Dst) (v : Option (DWord × Bool)) (g : Fibre) : Fibre :=
  match d, v, ws with
  | some (.x i), some (v, wide), false => if wide then setX64 g i.toNat v else setX g i.toNat (lo32 v)
  | _, _, _ => g

/-- Every true slot has its cursors and its result, and goes on; the result latch has the values; the flags are raised; and nothing but the fibres,
the flags, the metadata cache's order and the run changes (R64, R81, R83, R144, R273). -/
def CursDone (s : State) (ex : Ex) (h : Hdr) (d : Option Dst) (out : Fibre → List (Nat × Cursor) × Option (DWord × Bool)) (fl : Fibre → BitVec 5)
    (t : State) : Prop :=
  let wide := (actives ex h).any (fun f => ((out f).2.map (·.2)).getD false)
  let val (f : Fibre) : DWord := let v := ((out f).2.map (·.1)).getD 0; if wide then v else zext (lo32 v)
  let latch : Latch := { w64 := wide, vals := (List.range 32).map (fun l => ((actives ex h).find? (fun f => f.lane == l)).map val) }
  (∀ f ∈ ex.lanes, getFibre t f.fid = some (if guardOf h f then
      withResult h.ws d (out f).2 ((out f).1.foldl (fun f k => setK f k.1 k.2)
        { f with pc := ex.pc + 8#64, awFlags := if f.away then f.awFlags ||| fl f else f.awFlags })
    else { f with pc := ex.pc + 8#64 })) ∧
  { t with fibres := [], cushions := [], slots := [], meta_ := [] } = { s with fibres := [], cushions := [], slots := [], meta_ := [] } ∧
  (∀ cid c, getCush s cid = some c → ∃ c', getCush t cid = some c' ∧ { c' with fsr := 0, fsrNew := none } = { c with fsr := 0, fsrNew := none } ∧
    c'.fsr = c.fsr ||| orAll (((actives ex h).filter (fun f => f.cush == cid && !f.away)).map fl)) ∧
  ((∀ f ∈ actives ex h, fl f = 0) → t.cushions = s.cushions) ∧
  (∀ core line, metaFind t core line = metaFind s core line) ∧ othersStay s ex t ∧
  runAfter ex h.er (if d = none then ex.latches else (latch :: ex.latches).take 4) t

/-- The places of an access of a die's unit, with every translation in the die's cache (R216). -/
def viaDie (s : State) (die asid : Nat) (k : AccKind) (va : DWord) (n : Nat) (w : Bool) : Option (List Place) :=
  if (accParts va n).all (fun p => (tlbFind s.dieTlb die asid p.1).isSome) then
    match (xlateWalk s die asid (gAcc k va n (!w) w)).2 with
    | .ok xs => some (placesOf s xs)
    | _ => none
  else none
def inMem (ps : List Place) : Option (List Nat) := ps.mapM (fun (p : Place) => match p with | .mem _ a => some a | _ => none)

/-- A byte as a walker of the core sees it: the metadata cache's, or the home's (R273). -/
def walkerByte (s : State) (core a : Nat) : Byte :=
  match metaFind s core (a / 64) with
  | some l => getD l.data (a % 64) 0
  | none => physRead s a

/-- The walk of a job: through the die's translation cache, from the metadata cache or the homes, in as many steps as it takes (R272, R273). -/
def inWalker (s : State) (f : Fibre) (j : WalkerJob) : WalkIn where
  rd va n := (viaDie s (j.core / 48) (asidOf s f.carpet) .walker va n false).bind (fun ps => (ps.mapM (fun (p : Place) => match p with
    | .mem c a => some (if c = 3 then physRead s a else walkerByte s j.core a)
    | _ => none)).map ofBytes)
  arg wide := if wide then (getD j.args 0 ⟨0, 0, none⟩).v64 else (getD j.args 0 ⟨0, 0, none⟩).v32
  argOk wide := wide = true → (getD j.args 0 ⟨0, 0, none⟩).bad = none
  dstOk wide := wide = true → j.dpair = none
  steps := 2 ^ 32
def walkerGoes (s : State) (f : Fibre) (j : WalkerJob) (va : DWord) (n : Nat) : Option (List Nat) :=
  (viaDie s (j.core / 48) (asidOf s f.carpet) .walker va n true).bind inMem

/-- The walker of a parked fibre has its job before it and nothing in its way: its carpet lives, no access is on its way or held, no word of the L1
is dirty, nothing is poisoned (R272, R274). -/
def walkerFree (s : State) (f : Fibre) (j : WalkerJob) : Prop :=
  s.jobs.find? (fun q => q.fid == f.fid) = some j ∧ getFibre s f.fid = some f ∧ f.status = .parked ∧ f.wait = .reply ∧ f.saved = false ∧ j.due = [] ∧
  (∃ k, getCarpet s f.carpet = some k ∧ k.dead = false) ∧ s.reqs = [] ∧ s.held = [] ∧ s.poison = [] ∧ MemCanon s ∧
  ∀ l ∈ s.l1, l.core = j.core → l.dirty = 0#16

/-- The fibre's walk is over: it goes on with this cursor and n more stores under way; nothing at a home has changed. -/
def WalkOver (s : State) (f : Fibre) (d : Nat) (c : Cursor) (n : Nat) (t : State) : Prop :=
  (∀ q ∈ t.jobs, q.fid ≠ f.fid) ∧ t.mem = s.mem ∧ t.l2data = s.l2data ∧
  ∃ g, getFibre t f.fid = some g ∧ g.status = .ready ∧ g.wait = .none ∧ g.pc = f.pc ∧ g.x = f.x ∧ g.stcnt = f.stcnt + n ∧
    ∀ k, getK g k = if k = d then c else getK f k

/-- One store of the fibre is on its way from a core, with these bytes to these places. -/
def storeGoes (t : State) (core : Nat) (f : Fibre) (ps : List Nat) (bs : List Byte) : Prop :=
  ∃ q ∈ t.reqs, q.src = core ∧ q.die = homeDie (ps.headD 0) ∧ ∃ n, q.op = .write (.store f.fid f.cush n) (ps.zip bs)

/-- The low n bytes of a number. -/
def lowBytes (n : Nat) (v : DWord) : List Byte := (List.range n).map (fun i => v.extractLsb' (8 * i) 8)

/-- The write of entry i of a level's value array: where it begins, and its bytes; of a 4-bit type the byte with its other half kept (R121, R286). -/
def valWrite (rd : Rd) (lv : Lvl) (i : Nat) (v : DWord) : Option (DWord × List Byte) :=
  if fmtBits lv.vt = 4 then
    (rd (lv.val + BitVec.ofNat 64 (i / 2)) 1).map (fun x => (lv.val + BitVec.ofNat 64 (i / 2),
      [if i % 2 = 0 then BitVec.ofNat 8 (x / 16 * 16 + v.toNat % 16) else BitVec.ofNat 8 (x % 16 + v.toNat % 16 * 16)]))
  else some (at64 lv.val i (fmtBits lv.vt / 8), lowBytes (fmtBits lv.vt / 8) v)

/-- A write of this many bytes goes to one line of memory: where (R234). -/
def oneLine (goes : DWord → Nat → Option (List Nat)) (va : DWord) (n : Nat) (ps : List Nat) : Prop :=
  goes va n = some ps ∧ (ps.map (· / 64)).dedup.length = 1

/-- The walk of the fibre goes on in a walker: it waits behind the instruction for each cursor and register due (R272). -/
def WalkerWaits (s : State) (ex : Ex) (f : Fibre) (i : Instr) (t : State) : Prop :=
  runAfter ex true [] t ∧ (∃ g, getFibre t f.fid = some g ∧ g.status = .parked ∧ g.wait = .reply ∧ g.pc = ex.pc + 8#64 ∧ g.joinCnt = 1 ∧ g.k = f.k ∧ g.x = f.x) ∧
  t.jobs.map (fun j => (j.fid, j.core, j.instr, j.pc)) = s.jobs.map (fun j => (j.fid, j.core, j.instr, j.pc)) ++ [(f.fid, ex.core, i, ex.pc)] ∧
  t.mem = s.mem ∧ t.l2data = s.l2data ∧ t.ctl = s.ctl

end Sys2Proof.Stmt

open Sys2Proof Sys2Proof.Machine Sys2Proof.Safety Sys2Proof.Stmt

/-- CLOAD, CNEXT, CSEEK, CDESC, CREST, CCRD, CVAL and COIT complete at every true slot for which the metadata cache has the data and the walk takes
no more than 64 steps, on levels of every kind: a cursor stands at the first position, the next one, the first of at least the coordinate or the
slot of a hashed one, the first under its parent, or is done; CREST takes its four words from memory; CCRD, CVAL and COIT deliver the coordinate,
the value at the position, with the flags of its conversion, and the meeting coordinate, in the register and the latch. An ordered seek is stated
where the entries from the cursor on are in order, and an intersection of two sides, neither hashed, where each is dense or has at most eight
positions left, in order (R264 to R273, R276 to R283). -/
def Obligations.CursorsMoveAlongTheirLevel : Prop :=
  ∀ s ex h i sh d (out : Fibre → List (Nat × Cursor) × Option (DWord × Bool)) (fl : Fibre → BitVec 5), CursForm i h sh d → FibresApart s →
    ready s ex h sh = true → settled s = true → (∀ f ∈ actives ex h, CursStep (atIssue s ex f i) f i (out f).1 (out f).2 (fl f)) →
    ∃ t, exec i s = .next t ∧ CursDone s ex h d out fl t

/-- CAPP, CFIN and CSAVE complete: they send their bytes as counted stores, of CAPP the coordinate and, where the level has values, the value; CAPP
advances and CFIN seals the cursor. CHEAP, and CAPP at the end of its chunk, go to the walker, which completes them with the next chunk of the heap:
CHEAP writes the position entry and makes the append cursor, CAPP links the chunk and appends to it. A cursor that was never loaded traps with
0x0115, a misaligned handle with 0x010F, and a walker miss parks the fibre until its walker completes (R45, R272, R274, R280 to R287, R384, R391). -/
def Obligations.CursorsDeliverAppendAndWait : Prop :=
  (∀ s ex f h (d : BitVec 4) a b, solo s ex f h (curaShape [sNoChan 1 1 a, sNoChan 1 2 b]) → settled s = true → f.cush = ex.cush.cid →
    let c := getK f d.toNat
    ∀ lv, levelOf (seen s ex) true c = some lv → isDone c = false → coordOk ex f (decide (lv.w = 64)) a → c.w1 ≠ c.w2 →
      (lv.hasval = true → fmtBits lv.vt = 64 → srcOk ex f (sNoChan 2 2 b) = true) →
    let n := if lv.hasval then 2 else 1
    let v := opv (operands ex [sNoChan (if fmtBits lv.vt = 64 then 2 else 1) 2 b] f) 0
    ∀ ps va bs vs, f.stcnt + n ≤ 0xFFFF → oneLine (goesTo s ex) (at64 lv.crd c.w1.toNat (lv.w / 8)) (lv.w / 8) ps →
      (lv.hasval = true → valWrite (seen s ex) lv c.w1.toNat v = some (va, bs) ∧ oneLine (goesTo s ex) va bs.length vs) →
      ∃ t, exec (.capp h d a b) s = .next t ∧ runAfter ex h.er ex.latches t ∧
        getFibre t f.fid = some (setK { f with pc := ex.pc + 8#64, stcnt := f.stcnt + n } d.toNat { c with w1 := c.w1 + 1#64 }) ∧ homesStay s t ∧
        storeGoes t ex.core f ps (lowBytes (lv.w / 8) (coordOp ex f (decide (lv.w = 64)) a)) ∧ (lv.hasval = true → storeGoes t ex.core f vs bs)) ∧
  (∀ s ex f h (d : BitVec 4), solo s ex f h noShape → settled s = true →
    let c := getK f d.toNat
    ∀ lv, levelOf (seen s ex) true c = some lv → isDone c = false → f.stcnt < 0xFFFF →
    ∀ ps, goesTo s ex (at64 lv.pos (2 * (c.w3.toNat % 2 ^ 40) + 1) lv.pw) lv.pw = some ps → (ps.map (· / 64)).dedup.length = 1 →
      ∃ t, exec (.cfin h d) s = .next t ∧ runAfter ex h.er ex.latches t ∧
        getFibre t f.fid = some (setK { f with pc := ex.pc + 8#64, stcnt := f.stcnt + 1 } d.toNat { c with w0 := c.w0 ||| (1#64 <<< 60), w3 := BitVec.allOnes 64 }) ∧
        homesStay s t ∧ ∃ n, Asked t ex f (homeDie (ps.headD 0)) (.write (.store f.fid ex.cush.cid n)
          (ps.zip ((List.range lv.pw).map (fun j => c.w1.extractLsb' (8 * j) 8))))) ∧
  (∀ s ex f h (a : BitVec 4) b, solo s ex f h (curaShape [sBase 2 2 b]) → settled s = true →
    let c := getK f a.toNat
    let p := opv (operands ex [sBase 2 2 b] f) 0
    c ≠ ⟨0, 0, 0, 0⟩ → p.toNat % 32 = 0 → f.stcnt < 0xFFFF →
    ∀ ps, goesTo s ex p 32 = some ps →
      ∃ t, exec (.csave h a b) s = .next t ∧ Continues ex f (f.stcnt + 1) t ∧ runAfter ex h.er ex.latches t ∧ homesStay s t ∧
        ∃ n, (t.reqs.drop (t.reqs.length - 2)).map (fun q => (q.src, q.die, q.op)) =
          [(ex.core, homeDie (ps.headD 0), .write (.store f.fid ex.cush.cid n)
             ((ps.take 16).zip ((List.range 16).map (fun j => (c.w1 ++ c.w0).extractLsb' (8 * j) 8)))),
           (ex.core, homeDie (ps.headD 0), .write (.store f.fid ex.cush.cid n)
             ((ps.drop 16).zip ((List.range 16).map (fun j => (c.w3 ++ c.w2).extractLsb' (8 * j) 8))))]) ∧
  (∀ s ex f h (d : BitVec 4) a, solo s ex f h (curaShape [sNoChan 1 1 a]) → settled s = true →
    ∀ lv, levelOf (seen s ex) false (getK f d.toNat) = some lv → isDone (getK f d.toNat) = false → lv.child ≠ 0#64 →
    ∀ ch p, levelAt (seen s ex) lv.child = some ch → chained ch → childOf (seen s ex) lv (posIn lv (getK f d.toNat).w1) = some p →
    (goesTo s ex (at64 ch.pos (2 * p) ch.pw) (2 * ch.pw)).isSome = true →
    largestFits s f →
    ∃ t, exec (.cheap h d a) s = .next t ∧ WalkerWaits s ex f (.cheap h d a) t) ∧
  (∀ s ex f h (d : BitVec 4) a b, solo s ex f h (curaShape [sNoChan 1 1 a, sNoChan 1 2 b]) → settled s = true →
    let c := getK f d.toNat
    ∀ lv, levelOf (seen s ex) true c = some lv → isDone c = false → coordOk ex f (decide (lv.w = 64)) a → lv.hasval = false → c.w1 = c.w2 →
    (goesTo s ex (at64 lv.crd c.w2.toNat (lv.w / 8)) (lv.w / 8)).isSome = true →
    (∀ nb, chunkNext s ex lv (c.w3.toNat / 2 ^ 40 % 16) = some nb → (goesTo s ex (at64 lv.crd nb (lv.w / 8)) (lv.w / 8)).isSome = true) →
    largestFits s f →
    ∃ t, exec (.capp h d a b) s = .next t ∧ WalkerWaits s ex f (.capp h d a b) t) ∧
  (∀ s f j h (d : BitVec 4) a, walkerFree s f j → j.instr = .cheap h d a → s.jobs.head? = some j → f.joinCnt = 1 → f.stcnt < 0xFFFF →
    let w := inWalker s f j
    let c := getK f d.toNat
    let heap := (lo32 (w.arg false)).toNat % 16
    let off := offHEAP (asidOf s f.carpet) heap (j.core / 48)
    ∀ lv ch p ps, levelOf w.rd false c = some lv → isDone c = false → lv.child ≠ 0#64 → levelAt w.rd lv.child = some ch → chained ch →
      childOf w.rd lv (posIn lv c.w1) = some p → ctlB s off 0 = true → ctlF s (off + 8) 32 32 < ctlF s off 32 32 →
      oneLine (walkerGoes s f j) (at64 ch.pos (2 * p) ch.pw) (2 * ch.pw) ps →
      let nb := (ctlF s (off + 8) 0 32 + ctlF s (off + 8) 32 32) * ch.ce
      ∃ t, exec (.walkerComplete f.fid) s = .next t ∧
        WalkOver s f d.toNat ⟨w0Of ch.addr 1 false ||| (1#64 <<< 61), BitVec.ofNat 64 nb, BitVec.ofNat 64 (nb + ch.ce - 1),
          BitVec.ofNat 64 (p % 2 ^ 40 + heap * 2 ^ 40)⟩ 1 t ∧
        storeGoes t j.core f ps (lowBytes ch.pw (BitVec.ofNat 64 nb) ++ lowBytes ch.pw (BitVec.ofNat 64 nb)) ∧
        ctlF t (off + 8) 32 32 = ctlF s (off + 8) 32 32 + 1 ∧ ctlF t (off + 8) 0 32 = ctlF s (off + 8) 0 32 ∧ ∀ o, o ≠ off + 8 → ctlW t o = ctlW s o) ∧
  (∀ s f j h (d : BitVec 4) a b, walkerFree s f j → j.instr = .capp h d a b → s.jobs.head? = some j → f.joinCnt = 1 →
    let w := inWalker s f j
    let c := getK f d.toNat
    let off := offHEAP (asidOf s f.carpet) (c.w3.toNat / 2 ^ 40 % 16) (j.core / 48)
    ∀ lv ls ps va bs vs, levelOf w.rd true c = some lv → isDone c = false → w.argOk (decide (lv.w = 64)) → c.w1 = c.w2 →
      (lv.hasval = true → fmtBits lv.vt = 64 → (getD j.args 1 ⟨0, 0, none⟩).bad = none) →
      ctlB s off 0 = true → ctlF s (off + 8) 32 32 < ctlF s off 32 32 →
      let nb := (ctlF s (off + 8) 0 32 + ctlF s (off + 8) 32 32) * lv.ce
      let n := if lv.hasval then 3 else 2
      let v := if fmtBits lv.vt = 64 then (getD j.args 1 ⟨0, 0, none⟩).v64 else (getD j.args 1 ⟨0, 0, none⟩).v32
      nb < 2 ^ 64 → f.stcnt + n ≤ 0xFFFF → oneLine (walkerGoes s f j) (at64 lv.crd c.w2.toNat (lv.w / 8)) (lv.w / 8) ls →
      oneLine (walkerGoes s f j) (at64 lv.crd nb (lv.w / 8)) (lv.w / 8) ps →
      (lv.hasval = true → valWrite w.rd lv nb v = some (va, bs) ∧ oneLine (walkerGoes s f j) va bs.length vs) →
      ∃ t, exec (.walkerComplete f.fid) s = .next t ∧
        WalkOver s f d.toNat { c with w1 := BitVec.ofNat 64 (nb + 1), w2 := BitVec.ofNat 64 (nb + lv.ce - 1) } n t ∧
        storeGoes t j.core f ls (lowBytes (lv.w / 8) (BitVec.ofNat 64 nb)) ∧ storeGoes t j.core f ps (lowBytes (lv.w / 8) (w.arg (decide (lv.w = 64)))) ∧
        (lv.hasval = true → storeGoes t j.core f vs bs) ∧
        ctlF t (off + 8) 32 32 = ctlF s (off + 8) 32 32 + 1 ∧ ctlF t (off + 8) 0 32 = ctlF s (off + 8) 0 32 ∧ ∀ o, o ≠ off + 8 → ctlW t o = ctlW s o) ∧
  (∀ s ex f h d a, solo s ex f h (curaShape [sG 1 a]) → settled s = true →
    let p := opv (operands ex [sG 1 a] f) 0
    p.toNat % 64 = 0 → preCheck s ex.car.asid .walker (accParts p 8) = none → tlbFind s.coreTlb ex.core ex.car.asid p = none →
    tlbFind s.dieTlb (ex.core / 48) ex.car.asid p = none → largestFits s f →
    ∃ t, exec (.cload h d a) s = .next t ∧ WalkerWaits s ex f (.cload h d a) t) ∧
  (∀ s ex f h car, traps s f car →
    (∀ (d : BitVec 4), solo s ex f h noShape → getK f d.toNat = ⟨0, 0, 0, 0⟩ →
      ∃ t, exec (.cnext h d) s = .next t ∧ InHandler s ex f car 0x115 0 d.toNat t ∧ TrapFrame s ex t) ∧
    (∀ d a, solo s ex f h (curaShape [sG 1 a]) → (opv (operands ex [sG 1 a] f) 0).toNat % 64 ≠ 0 →
      ∃ t, exec (.cload h d a) s = .next t ∧ InHandler s ex f car 0x10F (opv (operands ex [sG 1 a] f) 0) 6 t ∧ TrapFrame s ex t))

namespace Sys2Proof.Stmt

open Sys2Proof.Machine Sys2Proof.Safety

/-! ## Tiles and the matrix engine (R290 to R312, R386, R392, R415) -/

/-- The one member goes on and its cushion becomes c'; no other cushion and nothing else changes. -/
def CushBecomes (s : State) (ex : Ex) (f : Fibre) (er : Bool) (c' : Cushion) (t : State) : Prop :=
  getCush t ex.cush.cid = some c' ∧ getFibre t f.fid = some { f with pc := ex.pc + 8#64 } ∧ runless t = runless s ∧
  (∀ cid, cid ≠ ex.cush.cid → getCush t cid = getCush s cid) ∧ othersStay s ex t ∧ runAfter ex er ex.latches t

/-- The shape of an instruction that names tiles, tokens or convergence registers, and needs its cushion's core. -/
def tileShape (srcs : List SrcU) (d : Option DstU) (res : List ResU) : Shape := { Machine.shape srcs d with res := res, held := true, whole := true }
def aTile (field : Nat) (i : BitVec 6) : ResU := { field, kind := 0, idx := i.toNat }

/-- A field of the two words of a tile entry. -/
def bits (w : DWord) (lo n : Nat) : Nat := (w >>> lo).toNat % 2 ^ n

/-- The words of a tile entry that TLDEF accepts (R294, R295, R392): scratch is the cushion's scratch size. -/
def tileWords (scratch : Nat) (w0 w1 : DWord) : Prop :=
  let base := bits w0 0 19
  let pitch := bits w0 19 16
  let rows := bits w1 0 11
  let cols := bits w1 11 11
  let code := bits w1 22 5
  let rot := bits w1 27 3
  let side := bits w1 31 6
  let width := match decFmt (BitVec.ofNat 5 code) with
    | some f => fmtBits f
    | none => 8
  let raw := (cols * width + 7) / 8
  let span := if rot = 0 then raw else (raw + 127) / 128 * 128
  base % 4 = 0 ∧ pitch % 4 = 0 ∧ bits w0 35 19 % 4 = 0 ∧ bits w0 54 10 = 0 ∧ 1 ≤ rows ∧ rows ≤ 1024 ∧ 1 ≤ cols ∧ cols ≤ 1024 ∧ code ≤ 19 ∧
  rot ≤ 5 ∧ (w1.getLsbD 30 = true → code = 11) ∧ (code < 16 → side = 0) ∧ (16 ≤ code → cols % (if code < 18 then 32 else 48) = 0) ∧
  bits w1 37 27 = 0 ∧ span ≤ pitch ∧ base + (rows - 1) * pitch + span ≤ scratch

/-- Software's state change of a tile, which its side tile shares (R296, R297). -/
def withSide (c : Cushion) (i : Nat) (g : Tile → Tile) (j : Nat) : Tile :=
  if j = i then g (getTile c i)
  else if 16 ≤ bits (getTile c i).w1 22 5 ∧ j = bits (getTile c i).w1 31 6 then g (getTile c j) else getTile c j

/-- What TLSTAT delivers (R311). -/
def tileStat (t : Tile) : DWord :=
  BitVec.ofNat 64 ((match t.st with | .empty => 0 | .filling => 1 | .ready => 2 | .draining => 3) + (if t.relpend then 4 else 0) +
    (if t.wclaim then 8 else 0) + (if 0 < t.readers then 16 else 0) + t.live * 65536)

/-- A tile, and its side tile, in a state. -/
def inState (c : Cushion) (st : TState) (i : Nat) : Prop :=
  (getTile c i).st = st ∧ (16 ≤ bits (getTile c i).w1 22 5 → (getTile c (bits (getTile c i).w1 31 6)).st = st)

/-- The tiles that the operation at the head reads are READY and those it writes are EMPTY (R300). -/
def tilesAllow (c : Cushion) (op : MatOp) : Prop :=
  (∀ p ∈ op.srcs, inState c .ready p.1) ∧ (∀ p ∈ op.dsts, inState c .empty p.1)

/-- Number of an operation in MP0 and in the opcode table (R310). -/
def matNumber : Instr → Nat
  | .mma .. => 1
  | .mmag .. => 2
  | .mhad .. => 3
  | .mcond .. => 4
  | .mzero .. => 5
  | .mrd .. => 6
  | .mqnt .. => 7
  | .mxrd .. => 8
  | .mxadd .. => 9
  | _ => 0

end Sys2Proof.Stmt

open Sys2Proof Sys2Proof.Machine Sys2Proof.Safety Sys2Proof.Stmt

/-- TLDEF writes the two words of a tile that nobody reads, fills or claims, and makes it READY with LIVE = COLS; TLSTAT delivers its state; TLREL
makes it EMPTY, or RELPEND while it is read; CVSET sets a convergence register; MPROG delivers the progress registers, of which WGRANT and WTILE
tell each for itself what the head waits for. What ROW and PASS of MP0 count is the model's reading (log entry 27), and this statement leaves it
open. That a cushion with CVS 0 has progress registers of its own, which MPROG reads, is the model's choice (log entry 26). Malformed words trap
with 0x011B, a tile in use with 0x011C, a bad or pending convergence count with 0x0112 (R294 to R298, R310, R311, R386, R392). -/
def Obligations.TilesAreDefinedReadAndReleased : Prop :=
  (∀ s ex f h (d : BitVec 6) a b, solo s ex f h (tileShape [sG 1 a, sG 2 b] none [aTile 0 d]) →
    let w0 := opv (operands ex [sG 1 a, sG 2 b] f) 0
    let w1 := opv (operands ex [sG 1 a, sG 2 b] f) 1
    let t0 := getTile ex.cush d.toNat
    tileWords ex.car.ker.scratch w0 w1 → t0.wclaim = false → t0.readers = 0 → t0.st ≠ .filling → t0.st ≠ .draining →
    ∃ t, exec (.tldef h d a b) s = .next t ∧ ∃ c', getCush t ex.cush.cid = some c' ∧ CushBecomes s ex f h.er c' t ∧
      { c' with tiles := [] } = { ex.cush with tiles := [] } ∧
      getTile c' d.toNat = { t0 with w0 := w0, w1 := w1, st := .ready, relpend := false, live := bits w1 11 11 } ∧
      ∀ j, j ≠ d.toNat → getTile c' j =
        if 16 ≤ bits w1 22 5 ∧ j = bits w1 31 6 then { getTile ex.cush j with st := .ready, relpend := false } else getTile ex.cush j) ∧
  (∀ s ex h d (a : BitVec 6), ready s ex h (tileShape [] (some (dNoChan d)) [aTile 1 a]) = true →
    let row : ValueRow := ⟨h, [], d, false, fun _ _ _ => (tileStat (getTile ex.cush a.toNat), 0)⟩
    ∃ t, exec (.tlstat h d a) s = .next t ∧ ValueDone row s ex t ∧ ValueFrame row s ex t) ∧
  (∀ s ex f h (a : BitVec 6), solo s ex f h (tileShape [] none [aTile 1 a]) →
    (getTile ex.cush a.toNat).st ≠ .filling → (getTile ex.cush a.toNat).st ≠ .draining →
    ∃ t, exec (.tlrel h a) s = .next t ∧ ∃ c', getCush t ex.cush.cid = some c' ∧ CushBecomes s ex f h.er c' t ∧
      { c' with tiles := [] } = { ex.cush with tiles := [] } ∧
      ∀ j, getTile c' j = withSide ex.cush a.toNat (fun u => if u.readers = 0 then { u with st := .empty } else { u with relpend := true }) j) ∧
  (∀ s ex f h (d : BitVec 4) a, solo s ex f h (tileShape [sNoChan 1 1 a] none [{ field := 0, kind := 1, idx := d.toNat }]) →
    let n := (opv (operands ex [sNoChan 1 1 a] f) 0).toNat
    1 ≤ n → n ≤ 1024 → (getD ex.cush.cvs d.toNat ⟨0, 0, 0⟩).count = 0 →
    ∃ t, exec (.cvset h d a) s = .next t ∧ ∃ c', getCush t ex.cush.cid = some c' ∧ CushBecomes s ex f h.er c' t ∧
      { c' with cvs := [] } = { ex.cush with cvs := [] } ∧
      ∀ j, getD c'.cvs j ⟨0, 0, 0⟩ = if j = d.toNat then ⟨n, 0, 0⟩ else getD ex.cush.cvs j ⟨0, 0, 0⟩) ∧
  (∀ s ex h d, ready s ex h { Machine.shape [] (some (dNoChan d)) with held := true } = true →
    let row (v : DWord) : ValueRow := ⟨h, [], d, false, fun _ _ _ => (v, 0)⟩
    let held : Nat := (if ex.cush.mresumed then 4 else 0) + 8 * ex.cush.grant
    (∃ t, exec (.mprog h 1 d) s = .next t ∧ ValueDone (row (zext ex.cush.mdone)) s ex t) ∧
    (∃ t, exec (.mprog h 2 d) s = .next t ∧ ValueDone (row (zext ex.cush.mqueued)) s ex t) ∧
    (ex.cush.mq = [] → ∃ t, exec (.mprog h 3 d) s = .next t ∧ ValueDone (row (BitVec.ofNat 64 held)) s ex t) ∧
    (∀ op, ex.cush.mq.head? = some op →
      let short : Nat := if ex.cush.grant < op.cost then 1 else 0
      (op.phase = .queued → ¬ tilesAllow ex.cush op →
        ∃ t, exec (.mprog h 3 d) s = .next t ∧ ValueDone (row (BitVec.ofNat 64 (2 + short + held))) s ex t) ∧
      ((op.phase = .queued → tilesAllow ex.cush op) →
        ∃ t, exec (.mprog h 3 d) s = .next t ∧ ValueDone (row (BitVec.ofNat 64 (short + held))) s ex t)) ∧
    (ex.cush.mq = [] ∨ (∃ op, ex.cush.mq.head? = some op ∧ op.phase = .queued) →
      ∃ t, exec (.mprog h 0 d) s = .next t ∧ ValueDone (row (zext ex.cush.mp0)) s ex t) ∧
    (∀ op, ex.cush.mq.head? = some op → op.phase ≠ .queued →
      ∃ r p t, exec (.mprog h 0 d) s = .next t ∧
        ValueDone (row (BitVec.ofNat 64 (r % 2 ^ 11 + p % 8 * 2 ^ 11 + matNumber op.op * 2 ^ 14 + 2 ^ 20))) s ex t)) ∧
  (∀ s ex f h car, traps s f car →
    (∀ (d : BitVec 6) a b, solo s ex f h (tileShape [sG 1 a, sG 2 b] none [aTile 0 d]) →
      let t0 := getTile ex.cush d.toNat
      let use := (if t0.wclaim then 2 ^ 10 else 0) + (if t0.readers = 0 then 0 else 2 ^ 11)
      let w0 := opv (operands ex [sG 1 a, sG 2 b] f) 0
      let w1 := opv (operands ex [sG 1 a, sG 2 b] f) 1
      (bits w0 0 19 % 4 ≠ 0 → ∃ t, exec (.tldef h d a b) s = .next t ∧ InHandler s ex f car 0x11B 0 d.toNat t ∧ TrapFrame s ex t) ∧
      (tileWords ex.car.ker.scratch w0 w1 → t0.wclaim = true ∨ t0.readers ≠ 0 ∨ t0.st = .filling ∨ t0.st = .draining →
        ∃ t, exec (.tldef h d a b) s = .next t ∧
          InHandler s ex f car 0x11C 0 (d.toNat + 256 * (tileStat { t0 with relpend := false, wclaim := false, readers := 0, live := 0 }).toNat + use) t ∧
          TrapFrame s ex t)) ∧
    (∀ (a : BitVec 6), solo s ex f h (tileShape [] none [aTile 1 a]) →
      let t0 := getTile ex.cush a.toNat
      t0.st = .filling ∨ t0.st = .draining → ∃ t, exec (.tlrel h a) s = .next t ∧
        InHandler s ex f car 0x11C 0 (a.toNat + 256 * (if t0.st = .filling then 1 else 3) + (if t0.wclaim then 2 ^ 10 else 0) +
          (if t0.readers = 0 then 0 else 2 ^ 11)) t ∧ TrapFrame s ex t) ∧
    (∀ (d : BitVec 4) a, solo s ex f h (tileShape [sNoChan 1 1 a] none [{ field := 0, kind := 1, idx := d.toNat }]) →
      let n := (opv (operands ex [sNoChan 1 1 a] f) 0).toNat
      let c := (getD ex.cush.cvs d.toNat ⟨0, 0, 0⟩).count
      (c = 0 → n = 0 ∨ 1024 < n → ∃ t, exec (.cvset h d a) s = .next t ∧ InHandler s ex f car 0x112 0 (d.toNat + 512) t ∧ TrapFrame s ex t) ∧
      (c ≠ 0 → 1 ≤ n → n ≤ 1024 → ∃ t, exec (.cvset h d a) s = .next t ∧ InHandler s ex f car 0x112 0 (d.toNat + 256) t ∧ TrapFrame s ex t)))

namespace Sys2Proof.Stmt

open Sys2Proof.Machine Sys2Proof.Safety

/-! ## Signing and entry (R290 to R293, R298, R299, R301, R303 to R309, R392) -/

/-- Pass depth, panel limit and cost of a product (R290). -/
def mtxClass (a w : Fmt) (exact : Bool) : Nat × Nat × Nat :=
  if exact then (8, 32, 4)
  else match max (fmtBits a) (fmtBits w) with
    | 64 => (8, 32, 4)
    | 32 => (24, 96, 3)
    | 16 => (48, 192, 2)
    | 8 => (96, 384, 2)
    | _ => (192, 768, 3)

/-- Kind of the accumulators of a product (R291). -/
def accKind (a w : Fmt) (exact : Bool) : AccTag :=
  let int (f : Fmt) : Bool := decide (f = .s8 ∨ f = .n8 ∨ f = .i4)
  if exact then .x else if int a && int w then .i32 else if a = .f64 ∨ w = .f64 then .f64 else .f32
def tilesOfKind (k : AccTag) (d : Nat) : List Nat := if k = .f64 ∨ k = .x then [d, d + 1] else [d]

/-- LIVE of a source that a running operation has read, once it has. -/
def readAs (op : MatOp) : Option Nat := if op.data.length ≤ 1 then none else some ((getD op.data 1 []).headD []).length

/-- LIVE of a tile as the operations queued before, the last first, leave it; none where a queued MCOND is still to decide it. A tile that is being
filled will hold its COLS columns (R297, R299, R307 to R309). -/
def liveLeft (c : Cushion) : List MatOp → Nat → Option Nat
  | [], i =>
    some (if (getTile c i).st ≠ .ready ∧ ((getTile c i).wclaim = true ∨ (getTile c i).st = .filling) then bits (getTile c i).w1 11 11
      else (getTile c i).live)
  | op :: before, i =>
    if op.dsts.any (fun d => d.1 == i) then
      match op.op with
      | .mhad _ _ _ a _ | .mqnt _ _ _ a _ _ => (readAs op).orElse (fun _ => liveLeft c before a.toNat)
      | .mcond .. => none
      | _ => some (bits (getTile c i).w1 11 11)
    else liveLeft c before i

/-- A panel of weights: format, N, K where it is decided, XACT. -/
structure PanelOf where
  fmt : Fmt
  n : Nat
  k : Option Nat
  exact : Bool

/-- The panel that the operations queued before, the last first, leave: an MWLD its tile; an MMAG that of its last row, or the one before it where
it skips every row (R303, R306). -/
def panelLeft (c : Cushion) : List MatOp → Option PanelOf
  | [] => c.panel.map (fun p => ⟨p.fmt, p.n, some p.k, p.xact⟩)
  | op :: before =>
    let tile (i : Nat) (t : Tile) : PanelOf := ⟨tlFmt t, bits t.w1 0 11, (readAs op).orElse (fun _ => liveLeft c before i), t.w1.getLsbD 30⟩
    match op.op, op.srcs with
    | .mwld .., (i, t) :: _ => some (tile i t)
    | .mmag .., (_, a) :: (i, t) :: _ =>
      match (rowGroups (if op.phase = .queued then scratchOffs c op else opOffs op) op (bits a.w1 0 11)).getLast? with
      | none => panelLeft c before
      | some g => some (match op.panels[g]? with
        | some p => ⟨p.fmt, p.n, some p.k, p.xact⟩
        | none => ⟨tlFmt t, bits t.w1 0 11, liveLeft c before i, t.w1.getLsbD 30⟩)
    | _, _ => panelLeft c before

def isBlk (t : Tile) : Bool := decide (16 ≤ bits t.w1 22 5)

/-- The side tile of a block tile is as R296 says. -/
def sideFits (c : Cushion) (i : Nat) : Bool :=
  let t := getTile c i
  let sd := getTile c (bits t.w1 31 6)
  let ds : Prop := bits t.w1 22 5 = 18 ∨ bits t.w1 22 5 = 19
  decide (16 ≤ bits t.w1 22 5 → bits t.w1 31 6 < c.tiles.length ∧ bits sd.w1 22 5 = 4 ∧ bits sd.w1 0 11 = bits t.w1 0 11 ∧
    bits sd.w1 11 11 = if ds then bits t.w1 11 11 / 48 * 2 else bits t.w1 11 11 / 32)

/-- A tile that a writer may claim, with its side tile (R297). -/
def free1 (t : Tile) : Bool := decide (t.wclaim = false ∧ t.st ≠ .filling ∧ t.st ≠ .draining)
def mayClaim (c : Cushion) (i : Nat) : Bool :=
  free1 (getTile c i) && decide (16 ≤ bits (getTile c i).w1 22 5 → free1 (getTile c (bits (getTile c i).w1 31 6)) = true)

/-- What the entry of an operation takes: its cost, the tiles it reads and writes, the accumulators whose tag it sets, and the tag. -/
structure EnterRow where
  cost : Nat
  srcs : List Nat
  dsts : List Nat
  accs : List Nat
  tag : AccTag
  deriving DecidableEq, Repr

/-- A reason of R392 with the tile or accumulator it names, unless a condition holds. -/
def must (ok : Prop) [Decidable ok] (reason i : Nat) : List (Nat × Nat) := if ok then [] else [(reason, i)]

/-- A product of tile a with a panel, and what speaks against it (R290 to R292, R304). -/
def product (c : Cushion) (live : Nat → Option Nat) (t : Fmt) (ovw : Bool) (d a : Nat) (panel : Option PanelOf) (srcs : List Nat) :
    EnterRow × List (Nat × Nat) :=
  let ta := getTile c a
  let own := must (tlFmt ta = t) 1 a ++ must (sideFits c a = true) 9 a
  match panel with
  | none => (⟨1, srcs, [], [], .z⟩, (2, a) :: own)
  | some p =>
    let kind := accKind t p.fmt p.exact
    let cl := mtxClass t p.fmt p.exact
    let tiles := if d % 2 = 1 then [d] else tilesOfKind kind d
    (⟨cl.2.2, srcs, [], tilesOfKind kind d, kind⟩,
      own ++ must ((live a).all (fun x => p.k.all (fun y => decide (x = y))) = true) 2 a ++
        must (bits ta.w1 0 11 ≤ (if p.exact then 8 else 128) ∧ p.n ≤ (if p.exact then 8 else 64) ∧ p.fmt.matrix = true ∧
          p.k.all (fun k => decide (k ≤ cl.2.1)) = true) 3 a ++
        must (ovw = true ∨ ∀ j ∈ tiles, (getAcc c j).tag = .z ∨ (getAcc c j).tag = kind) 4 d ++
        must (kind = .f64 ∨ kind = .x → d % 2 = 0) 5 d)

/-- What each operation takes at entry, and what speaks against it: with LIVE of its tiles and the panel as the operations before it leave them. -/
def entryAt (c : Cushion) (ker : Kernel) (g : DWord) (live : Nat → Option Nat) (panel : Option PanelOf) : Instr → EnterRow × List (Nat × Nat)
  | .mwld _ t a _ =>
    let ta := getTile c a.toNat
    (⟨1, [a.toNat], [], [], .z⟩, must (tlFmt ta = t) 1 a.toNat ++ must (sideFits c a.toNat = true) 9 a.toNat ++
      must (bits ta.w1 0 11 ≤ (if ta.w1.getLsbD 30 then 8 else 64) ∧
        (live a.toNat).all (fun k => decide (k ≤ (mtxClass t t (ta.w1.getLsbD 30)).2.1)) = true) 3 a.toNat)
  | .mma _ t ovw d a _ => product c live t ovw d.toNat a.toNat panel [a.toNat]
  | .mmag _ t ovw d a _ _ =>
    let w := bits g 30 6
    let tw := getTile c w
    let n := bits g 19 11
    let p := product c live t ovw d.toNat a.toNat (some ⟨tlFmt tw, bits tw.w1 0 11, live w, tw.w1.getLsbD 30⟩) [a.toNat, w]
    (p.1, p.2 ++ must (bits g 48 16 = 0 ∧ 1 ≤ n ∧ n ≤ 1024 ∧ bits g 0 19 % 4 = 0 ∧ bits g 0 19 + 4 * (n + 1) ≤ ker.scratch ∧ w < ker.tiles ∧
        tlEnd tw (n - 1) ≤ ker.scratch ∧ (isBlk tw = true → tlEnd (getTile c (bits tw.w1 31 6)) (n - 1) ≤ ker.scratch)) 8 w ++
      must (sideFits c w = true) 9 w)
  | .mhad _ n d a _ =>
    let ta := getTile c a.toNat
    let td := getTile c d.toNat
    let sz := match n with | .h16 => 16 | .h32 => 32 | .h64 => 64
    let ca := bits ta.w1 22 5
    let cd := bits td.w1 22 5
    (⟨1, [a.toNat], [d.toNat], [], .z⟩,
      must (bits ta.w1 0 11 = bits td.w1 0 11 ∧ (live a.toNat).all (fun k => decide (k ≤ bits td.w1 11 11)) = true) 3 d.toNat ++
      must (8 ≤ ca ∧ ca ≤ 14 ∧ (cd = 8 ∨ cd = 9 ∨ (12 ≤ cd ∧ cd ≤ 14)) ∧ (mtxClass (tlFmt td) (tlFmt td) false).1 % sz = 0 ∧
        (live a.toNat).all (fun k => decide (k % sz = 0)) = true) 6 a.toNat ++
      must (mayClaim c d.toNat = true) 11 d.toNat)
  | .mcond _ t d a b _ =>
    let d := d.toNat
    let a := a.toNat
    let b := b.toNat
    let ta := getTile c a
    let tb := getTile c b
    let td := getTile c d
    let te := getTile c (d + 1)
    (⟨1, [a, b], [d, d + 1], [], .z⟩,
      must (tlFmt ta = t) 1 a ++ must (tlFmt td = t) 1 d ++
      must (bits ta.w1 0 11 ≤ 128 ∧ bits tb.w1 0 11 ≤ 64 ∧ (live a).all (fun x => (live b).all (fun y => decide (x = y))) = true ∧
        (live a).all (fun k => decide (k ≤ (mtxClass (tlFmt ta) (tlFmt tb) (tb.w1.getLsbD 30)).2.1)) = true ∧ bits ta.w1 0 11 ≤ bits td.w1 0 11 ∧
        (d ≠ 63 → bits tb.w1 0 11 ≤ bits te.w1 0 11)) 3 a ++
      must (isBlk ta = false ∧ isBlk tb = false ∧ (tlFmt ta).matrix = true ∧ (tlFmt tb).matrix = true ∧ (d ≠ 63 → tlFmt te = tlFmt tb)) 6 b ++
      must (d ≠ 63 ∧ d + 1 < ker.tiles ∧ a ≠ d ∧ a ≠ d + 1 ∧ b ≠ d ∧ b ≠ d + 1) 7 d ++
      must (mayClaim c d = true ∧ (d ≠ 63 → mayClaim c (d + 1) = true)) 11 d)
  | .mzero _ d _ =>
    let e := d.toNat / 2 * 2
    if ((getAcc c e).tag = .f64 ∨ (getAcc c e).tag = .x) ∧ (getAcc c (e + 1)).tag = (getAcc c e).tag then (⟨1, [], [], [e, e + 1], .z⟩, [])
    else (⟨1, [], [], [d.toNat], .z⟩, [])
  | .mrd _ t d a _ _ =>
    let td := getTile c d.toNat
    let k := (getAcc c a.toNat).tag
    let pair : Prop := k = .f64 ∨ k = .x
    (⟨1, [], [d.toNat], [], .z⟩,
      must (tlFmt td = t) 1 d.toNat ++
      must (bits td.w1 0 11 ≤ (if k = .x then 8 else 128) ∧ bits td.w1 11 11 ≤ (if k = .x then 8 else 64)) 3 d.toNat ++
      must ((k = .x → t = .f64) ∧
        (pair → a.toNat % 2 = 0 → (getAcc c (a.toNat + 1)).tag = k ∨ (getAcc c (a.toNat + 1)).tag = .z)) 4 a.toNat ++
      must (pair → a.toNat % 2 = 0) 5 a.toNat ++ must (sideFits c d.toNat = true) 9 d.toNat ++ must (mayClaim c d.toNat = true) 11 d.toNat)
  | .mqnt _ t d a b _ =>
    let ta := getTile c a.toNat
    let td := getTile c d.toNat
    let ca := bits ta.w1 22 5
    (⟨1, [a.toNat], [d.toNat], [], .z⟩,
      must (tlFmt td = t) 1 d.toNat ++
      must (bits ta.w1 0 11 = bits td.w1 0 11 ∧ (live a.toNat).all (fun k => decide (k ≤ bits td.w1 11 11 ∧
        (t.isBlock = true → k % (if t = .mx8 ∨ t = .mx4 then 32 else 48) = 0))) = true) 3 d.toNat ++
      must (8 ≤ ca ∧ ca ≤ 11 ∧ t.isBlock = true) 6 a.toNat ++
      must (sideFits c d.toNat = true ∧ bits td.w1 31 6 = b.toNat) 9 d.toNat ++ must (mayClaim c d.toNat = true) 11 d.toNat)
  | .mxrd _ a _ _ =>
    let fits (j : Nat) : Prop := (getAcc c j).tag = .x ∨ (getAcc c j).tag = .z
    (⟨1, [], [], [], .z⟩, must (a.toNat % 2 = 0) 5 a.toNat ++ must (g.toNat % 8 = 0 ∧ fits a.toNat ∧ fits (a.toNat + 1)) 10 a.toNat)
  | .mxadd _ d _ _ =>
    let fits (j : Nat) : Prop := (getAcc c j).tag = .x ∨ (getAcc c j).tag = .z
    (⟨1, [], [], [d.toNat, d.toNat + 1], .x⟩, must (d.toNat % 2 = 0) 5 d.toNat ++ must (g.toNat % 8 = 0 ∧ fits d.toNat ∧ fits (d.toNat + 1)) 10 d.toNat)
  | _ => (⟨1, [], [], [], .z⟩, [])

/-- The signed instructions: header, convergence register, g pair, and the tiles and token they name (R302). -/
def signForm : Instr → Option (Hdr × BitVec 4 × List SrcU × List ResU)
  | .mwld h _ a cv => some (h, cv, [], [aTile 1 a])
  | .mma h _ _ _ a cv => some (h, cv, [], [aTile 1 a])
  | .mmag h _ _ _ a b cv => some (h, cv, [sG 2 b], [aTile 1 a])
  | .mhad h _ d a cv => some (h, cv, [], [aTile 0 d, aTile 1 a])
  | .mcond h _ d a b cv => some (h, cv, [], [aTile 0 d, aTile 1 a, aTile 2 b])
  | .mzero h _ cv => some (h, cv, [], [])
  | .mrd h _ d _ tk cv => some (h, cv, [], [aTile 0 d, { field := 2, kind := 2, idx := tk.toNat }])
  | .mqnt h _ d a b cv => some (h, cv, [], [aTile 0 d, aTile 1 a, aTile 2 b])
  | .mxrd h _ b cv => some (h, cv, [sG 2 b], [])
  | .mxadd h _ a cv => some (h, cv, [sG 1 a], [])
  | _ => none
def signShape (cv : BitVec 4) (gs : List SrcU) (res : List ResU) : Shape :=
  { Machine.shape gs none with res := res ++ [{ field := 3, kind := 1, idx := cv.toNat }], held := true }

/-- The word that signers of a round must agree on: GNEG, GPRED, WS and ER cleared (R298). -/
def signedWord (i : Instr) : DWord := wordOf i &&& 0xFC0FFFFFFFFFFFFF#64

/-- How often a list of tiles, with the side tiles of those in block formats, names tile j. -/
def named (c : Cushion) (l : List Nat) (j : Nat) : Nat :=
  l.countP (fun i => i == j) + l.countP (fun i => decide (16 ≤ bits (getTile c i).w1 22 5) && bits (getTile c i).w1 31 6 == j)

/-- The token of an MRD and the bytes it counts (R309). -/
def mrdCount (c : Cushion) : Instr → Option (Nat × Nat)
  | .mrd _ _ d _ tk _ =>
    let td := getTile c d.toNat
    let sd := getTile c (bits td.w1 31 6)
    let span (t : Tile) : Nat := (bits t.w1 11 11 * fmtBits (tlFmt t) + 7) / 8
    some (tk.toNat, bits td.w1 0 11 * (span td + if 16 ≤ bits td.w1 22 5 then span sd else 0))
  | _ => none

/-- The cushion with the operation in its queue, and the power asked for. -/
def Entered (s : State) (ex : Ex) (f : Fibre) (h : Hdr) (i : Instr) (cv : Nat) (g : DWord) (r : EnterRow) (c' : Cushion) (t : State) : Prop :=
  let c := ex.cush
  let head : Nat := match c.mq with
    | o :: _ => o.cost
    | [] => r.cost
  c'.mq.length = c.mq.length + 1 ∧ c'.mq.dropLast = c.mq ∧
  (c'.mq.getLast?).map (fun o => (o.op, o.word, o.gpair, o.pc, o.rm, o.phase, o.cost, o.lastFibre)) =
    some (i, wordOf i, g, ex.pc, (modeNow s c).extractLsb' 0 3, .queued, r.cost, f.idx) ∧
  c'.mqueued = c.mqueued + 1#32 ∧
  (∀ j, getD c'.cvs j ⟨0, 0, 0⟩ =
    if j = cv then { getD c.cvs cv ⟨0, 0, 0⟩ with count := 0, word := signedWord i } else getD c.cvs j ⟨0, 0, 0⟩) ∧
  (∀ j, getTile c' j = { getTile c j with readers := (getTile c j).readers + named c r.srcs j,
                                           wclaim := (getTile c j).wclaim || decide (0 < named c r.dsts j) }) ∧
  (∀ j, getAcc c' j = if j ∈ r.accs then { getAcc c j with tag := r.tag } else getAcc c j) ∧
  (∀ j, getTk c' j = getTk c j + match mrdCount c i with | some (tk, n) => if tk = j then n else 0 | none => 0) ∧
  { c' with mq := [], mqueued := 0, cvs := [], tiles := [], accs := [], tks := [] } = { c with mq := [], mqueued := 0, cvs := [], tiles := [], accs := [], tks := [] } ∧
  t.power = (if head ≤ c.grant ∨ (∃ p ∈ s.power, p.cush = c.cid) then s.power
    else s.power ++ [{ cush := c.cid, amount := head - c.grant, cycle := s.clock }]) ∧
  getFibre t f.fid = some { f with pc := ex.pc + 8#64 } ∧ othersStay s ex t ∧ runAfter ex h.er ex.latches t ∧
  (∀ cid, cid ≠ c.cid → getCush t cid = getCush s cid) ∧ { movers t with power := [] } = { movers s with power := [] } ∧
  t.carpets = s.carpets ∧ t.fronds = s.fronds

/-- The core has room for one more operation of the queue (R299, R404). -/
def queueRoom (s : State) (ex : Ex) : Bool := decide (ex.cush.mq.length < 32) || sporeRoom s ex.core ex.car.asid Config.mopBytes

end Sys2Proof.Stmt

open Sys2Proof Sys2Proof.Machine Sys2Proof.Safety Sys2Proof.Stmt

/-- The ten signed matrix instructions. A signer that is not the last of its round only counts; the last one enters the operation at the tail of
the queue, with the g pair, FCTL and tiles as they stand, claims its tiles, sets the tags, counts MRD's bytes on its token and asks for the power
that the head lacks. A mismatched signer traps with 0x0113, an unarmed register with 0x0112; an operation that breaks its rule, judged by what the
operations queued before it leave, ends the carpet with 0x011E and the lowest of its reasons; a token beyond its width ends it with 0x0304, a queue
that finds no room with 0x020A. How an entry judges the panel that a queued MMAG may leave is the model's choice (log entry 41) (R290 to R292,
R297 to R299, R301 to R309, R392, R404). -/
def Obligations.MatrixInstructionsSignAndEnter : Prop :=
  (∀ s ex f i h cv gs res, signForm i = some (h, cv, gs, res) → solo s ex f h (signShape cv gs res) →
    let v := getD ex.cush.cvs cv.toNat ⟨0, 0, 0⟩
    let g := opv (operands ex gs f) 0
    v.expected ≠ 0 → v.count = 0 ∨ v.word = signedWord i →
    (v.count + 1 ≠ v.expected → ∃ t, exec i s = .next t ∧ ∃ c', getCush t ex.cush.cid = some c' ∧ CushBecomes s ex f h.er c' t ∧
      { c' with cvs := [] } = { ex.cush with cvs := [] } ∧
      ∀ j, getD c'.cvs j ⟨0, 0, 0⟩ =
        if j = cv.toNat then { v with count := v.count + 1, word := signedWord i } else getD ex.cush.cvs j ⟨0, 0, 0⟩) ∧
    (v.count + 1 = v.expected →
      let q := ex.cush.mq.reverse
      let e := entryAt ex.cush ex.car.ker g (liveLeft ex.cush q) (panelLeft ex.cush q) i
      (e.2 = [] → (∀ p, mrdCount ex.cush i = some p → getTk ex.cush p.1 + p.2 ≤ 0xFFFFFFFF) → queueRoom s ex = true →
        ∃ t, exec i s = .next t ∧ ∃ c', getCush t ex.cush.cid = some c' ∧ Entered s ex f h i cv.toNat g e.1 c' t) ∧
      (getCarpet s f.carpet = some ex.car →
        (∀ p, mrdCount ex.cush i = some p → e.2 = [] → 0xFFFFFFFF < getTk ex.cush p.1 + p.2 →
          ∃ t, exec i s = .next t ∧ CarpetEnds s f ex.pc 0x304 0 (BitVec.ofNat 64 p.1) none t ∧ (getCush t ex.cush.cid).map (·.tks) = some ex.cush.tks) ∧
        (e.2 = [] → (∀ p, mrdCount ex.cush i = some p → getTk ex.cush p.1 + p.2 ≤ 0xFFFFFFFF) → queueRoom s ex = false → f.expItem = none →
          ∃ t, exec i s = .next t ∧
            CarpetEnds s f ex.pc 0x20A 0 (BitVec.ofNat 64 (0x400 + if spillSize s ex.car.asid = 0 then 1 else 0)) none t) ∧
        ∀ p ∈ e.2, (∀ z ∈ e.2, p.1 ≤ z.1) → f.expItem = none →
          ∃ t n, exec i s = .next t ∧ (p.1, n) ∈ e.2 ∧ getCush t ex.cush.cid = some { ex.cush with
              cvs := setAt ⟨0, 0, 0⟩ ex.cush.cvs cv.toNat { v with count := 0, word := signedWord i } } ∧
            CarpetEnds s f ex.pc 0x11E (wordOf i) (BitVec.ofNat 64 (0x11E * 2 ^ 48 + p.1 + 256 * n)) none t))) ∧
  (∀ s ex f i h cv gs res car, signForm i = some (h, cv, gs, res) → solo s ex f h (signShape cv gs res) → traps s f car →
    let v := getD ex.cush.cvs cv.toNat ⟨0, 0, 0⟩
    (v.expected = 0 → ∃ t, exec i s = .next t ∧ InHandler s ex f car 0x112 0 cv.toNat t ∧ TrapFrame s ex t) ∧
    (v.expected ≠ 0 → v.count ≠ 0 → v.word ≠ signedWord i →
      ∃ t, exec i s = .next t ∧ InHandler s ex f car 0x113 v.word cv.toNat t ∧ TrapFrame s ex t))

namespace Sys2Proof.Stmt

open Sys2Proof.Machine Sys2Proof.Safety

/-! ## Tokens, copies and ROUTE (R297, R315 to R318, R320, R325 to R327, R331, R385, R393) -/

def aTok (field i : Nat) : ResU := { field, kind := 2, idx := i }
def cpySrcs (a b c : Src) : List SrcU := [sBase 2 1 a, sBase 2 2 b, sNoChan 1 3 c]

/-- No operation waits at its fork edge; the core has no dirty word and no write-back on its way, and every store of the cushion is
acknowledged, so that a fork edge is complete at once (R236). -/
def noFork (s : State) : Prop := ∀ o ∈ s.engines, o.phase ≠ .fork
def edgeClear (s : State) (ex : Ex) : Prop :=
  (∀ l ∈ s.l1, l.core = ex.core → l.dirty = 0#16) ∧ (∀ w ∈ s.wbs, w.1 ≠ ex.core) ∧ storesBefore s ex.cush.cid s.nextId = false
/-- The core has a dirty word, or the cushion a store that is not acknowledged: the fork edge waits (R236). -/
def edgeWaits (s : State) (ex : Ex) : Prop := (∃ l ∈ s.l1, l.core = ex.core ∧ l.dirty ≠ 0#16) ∨ storesBefore s ex.cush.cid s.nextId = true

/-- One more operation stands with the engines: its kind, token, addresses, tiles and issuer. -/
def Issued (s : State) (ex : Ex) (k : EngKind) (tok : Nat) (a b : DWord) (n src dst : Nat) (t : State) : Prop :=
  t.engines.length = s.engines.length + 1 ∧
  (t.engines.getLast?).map (fun o => (o.kind, o.cush, o.carpet, o.asid, o.core, o.die, o.tok, o.pc, o.a, o.b, o.n, o.src, o.dst)) =
    some (k, ex.cush.cid, ex.car.id, ex.car.asid, ex.core, ex.core / 48, tok, ex.pc, a, b, n, src, dst)

/-- Token j of the cushion counts n more, its tiles become as said, and the rest of it stays. -/
def Counts (s : State) (ex : Ex) (j n : Nat) (tile : Nat → Tile) (t : State) : Prop :=
  ∃ c', getCush t ex.cush.cid = some c' ∧ { c' with tks := [], tiles := [] } = { ex.cush with tks := [], tiles := [] } ∧
    (∀ i, getTk c' i = getTk ex.cush i + if i = j then n else 0) ∧ (∀ i, getTile c' i = tile i) ∧
    (∀ cid, cid ≠ ex.cush.cid → getCush t cid = getCush s cid)

/-- No byte at its home changes when an operation is issued. -/
def bytesStay (s t : State) : Prop := (MemCanon s → ∀ a, physRead t a = physRead s a) ∧ t.replicas = s.replicas

/-- The frond goes on with an operation issued. -/
def GoesOn (s : State) (ex : Ex) (f : Fibre) (h : Hdr) (t : State) : Prop :=
  getFibre t f.fid = some { f with pc := ex.pc + 8#64 } ∧ bytesStay s t ∧ othersStay s ex t ∧ runAfter ex h.er ex.latches t

/-- A tile copy: its header, kind, g pairs, token, source and destination tile. -/
structure CopyForm where
  h : Hdr
  k : EngKind
  a : Option Src
  b : Option Src
  tk : Nat
  src : Option (BitVec 6)
  dst : Option (BitVec 6)

inductive CopyOf : Instr → CopyForm → Prop
  | ld h d a b tk : CopyOf (.cpytLd h d a b tk) ⟨h, .cpyLd, some a, some b, tk.toNat, none, some d⟩
  | st h a b tk : CopyOf (.cpytSt h a b tk) ⟨h, .cpySt, none, some b, tk.toNat, some a, none⟩
  | tt h d a tk : CopyOf (.cpytTt h d a tk) ⟨h, .cpyTt, none, none, tk.toNat, some a, some d⟩
  | cpyd h d a b tk : CopyOf (.cpyd h d a b tk) ⟨h, .cpyd, some a, some b, tk.toNat, none, some d⟩

def CopyForm.srcs (c : CopyForm) : List SrcU := (c.a.map (sG 1)).toList ++ (c.b.map (sG 2)).toList
def CopyForm.shape (c : CopyForm) : Shape :=
  tileShape c.srcs none ((c.dst.map (aTile 0)).toList ++ (c.src.map (aTile 1)).toList ++ [aTok 7 c.tk])
/-- The addresses in its g pairs. -/
def CopyForm.addr (c : CopyForm) (ex : Ex) (f : Fibre) : DWord × DWord :=
  match c.a, c.b with
  | some _, _ => (opv (operands ex c.srcs f) 0, opv (operands ex c.srcs f) 1)
  | none, some _ => (0, opv (operands ex c.srcs f) 0)
  | none, none => (0, 0)

/-- A tile that a copy may fill, and one that it may drain (R297). -/
def copyMayFill (t : Tile) : Prop := t.wclaim = false ∧ t.st ≠ .filling ∧ t.st ≠ .draining
def copyMayDrain (t : Tile) : Prop := t.st ≠ .draining ∧ t.relpend = false

/-- Two formats between which elements are copied (R320). -/
def copyable (a b : Nat) : Prop := a = b ∨ (8 ≤ a ∧ a ≤ 14 ∧ 8 ≤ b ∧ b ≤ 14) ∨ (8 ≤ a ∧ a ≤ 11 ∧ 16 ≤ b ∧ b ≤ 19)

/-- The conditions on the tiles of a copy at its issue, in the order of their reports: scratch apart. -/
def formatsMeet (c : Cushion) (src dst : Option (BitVec 6)) : Prop :=
  ∀ a ∈ src, ∀ d ∈ dst,
    let x := (getTile c a.toNat).w1
    let y := (getTile c d.toNat).w1
    bits x 22 5 ≤ 19 ∧ bits y 22 5 ≤ 19 ∧ copyable (bits x 22 5) (bits y 22 5) ∧ bits x 0 22 = bits y 0 22
def tilesMeet (c : Cushion) (src dst : Option (BitVec 6)) : Prop :=
  (∀ a ∈ src, copyMayDrain (getTile c a.toNat)) ∧ (∀ d ∈ dst, copyMayFill (getTile c d.toNat))

/-- A tile of the operation that reaches scratch or beyond (R385). -/
def firstOutside (ex : Ex) (src dst : Option (BitVec 6)) : Option Nat :=
  ((src.toList ++ dst.toList).map (·.toNat)).find? (fun i => tileOutside ex.cush ex.car.ker.scratch i 0)

/-- The detail of a tile in use. -/
def useDetail (i : Nat) (t : Tile) : Nat :=
  i + 256 * (match t.st with | .empty => 0 | .filling => 1 | .ready => 2 | .draining => 3) + (if t.wclaim then 2 ^ 10 else 0) + (if t.readers = 0 then 0 else 2 ^ 11)

/-- TKRD and CHCNT as value rows: the counter; entries queued for this stage and room at the next (R326, R331). -/
def tkrdRow (ex : Ex) (h : Hdr) (d : Dst) (a : BitVec 3) : ValueRow := ⟨h, [], d, false, fun _ _ _ => (BitVec.ofNat 64 (getTk ex.cush a.toNat), 0)⟩
def chcntRow (s : State) (ex : Ex) (h : Hdr) (d : Dst) (a : BitVec 4) : ValueRow :=
  ⟨h, [], d, false, fun _ _ _ =>
    let queued := if ex.cush.stage = 0 then 0 else (getD ex.cush.chans a.toNat []).length
    let depth := if getD ex.car.ker.chDepth a.toNat 0 = 0 then 16 else getD ex.car.ker.chDepth a.toNat 0
    let room := ((nextStage s ex.cush).map (fun d => depth - (getD d.chans a.toNat []).length)).getD 0
    (BitVec.ofNat 64 (queued + 65536 * room), 0)⟩

end Sys2Proof.Stmt

open Sys2Proof Sys2Proof.Machine Sys2Proof.Safety Sys2Proof.Stmt

/-- CPY, CPYT, CPYD and ROUTE hand an operation to an engine and go on: CPY counts 32 on its token (an away fibre's count is on its way and
counts as a store), the others hold 1, and a destination tile is claimed. Misaligned addresses, counts above 32 or beyond the token, fibres
outside the producer group and tiles in use trap; a tile beyond scratch ends the carpet. WAIT parks until its tokens are zero, TKSET adds its
signed operand, and TKRD and CHCNT deliver their counts (R236, R297, R316 to R318, R320, R325 to R327, R331, R385, R393). Two clauses are the
model's choice: that an unacknowledged store of any fibre of the cushion holds the fork edge (log entry 23), and that CHCNT counts 0 free places where
the consuming cushion has ended (log entry 19). -/
def Obligations.CopiesRoutesAndTokensCount : Prop :=
  (∀ s ex f h a b c (tk : BitVec 3), solo s ex f h (Machine.shape (cpySrcs a b c) none) → ex.car.ker.tokMask.getLsbD tk.toNat = true →
    let src := opv (operands ex (cpySrcs a b c) f) 0
    let dst := opv (operands ex (cpySrcs a b c) f) 1
    let n := (opv (operands ex (cpySrcs a b c) f) 2).toNat
    let now := getTk ex.cush tk.toNat + upsDue s ex.cush.cid tk.toNat
    (src.toNat % 32 = 0 → dst.toNat % 32 = 0 → n ≤ 32 → now + 32 ≤ 0xFFFFFFFF →
      (f.away = false →
        ∃ t, exec (.cpy h a b c tk) s = .next t ∧ Issued s ex .cpy tk.toNat src dst n 0 0 t ∧ GoesOn s ex f h t ∧
          Counts s ex tk.toNat 32 (getTile ex.cush) t ∧
          (noFork s → edgeClear s ex → (t.engines.getLast?).map (·.phase) = some .running) ∧
          (noFork s → edgeWaits s ex → (t.engines.getLast?).map (·.phase) = some .fork)) ∧
      (f.away = true → f.stcnt < 0xFFFF → noFork s →
        ∃ t, exec (.cpy h a b c tk) s = .next t ∧ Issued s ex .cpy tk.toNat src dst n 0 0 t ∧ Continues ex f (f.stcnt + 1) t ∧
          getCush t ex.cush.cid = some ex.cush ∧ bytesStay s t ∧ runAfter ex h.er ex.latches t ∧
          ∃ o, t.engines.getLast? = some o ∧ o.upDue = true ∧ o.phase = .fork ∧
            (t.acks.getLast?).map (·.tgt) = some (.tokenUp o.id f.fid ex.cush.cid) ∧ t.acks.length = s.acks.length + 1) ∧
      (f.away = true → 0xFFFF ≤ f.stcnt → roomFor s f (parkArgs ex ex.pc .storeRoom) →
        ∃ t, exec (.cpy h a b c tk) s = .next t ∧ Parks s ex f (parkArgs ex ex.pc .storeRoom) t ∧ t.engines.length = s.engines.length)) ∧
    (∀ car, traps s f car →
      (src.toNat % 32 ≠ 0 → ∃ t, exec (.cpy h a b c tk) s = .next t ∧ InHandler s ex f car 0x10F src 5 t) ∧
      (src.toNat % 32 = 0 → dst.toNat % 32 ≠ 0 → ∃ t, exec (.cpy h a b c tk) s = .next t ∧ InHandler s ex f car 0x10F dst 5 t) ∧
      (src.toNat % 32 = 0 → dst.toNat % 32 = 0 → 32 < n → ∃ t, exec (.cpy h a b c tk) s = .next t ∧ InHandler s ex f car 0x119 0 n t) ∧
      (src.toNat % 32 = 0 → dst.toNat % 32 = 0 → n ≤ 32 → 0xFFFFFFFF < now + 32 →
        ∃ t, exec (.cpy h a b c tk) s = .next t ∧ InHandler s ex f car 0x118 0 tk.toNat t ∧ TrapFrame s ex t))) ∧
  (∀ s ex f i c, CopyOf i c → solo s ex f c.h c.shape →
    (ex.car.pkt.prodLo ≤ f.idx → f.idx ≤ ex.car.pkt.prodHi → formatsMeet ex.cush c.src c.dst → getTk ex.cush c.tk < 0xFFFFFFFF →
      tilesMeet ex.cush c.src c.dst →
      (firstOutside ex c.src c.dst = none →
        ∃ t, exec i s = .next t ∧
          Issued s ex c.k c.tk (c.addr ex f).1 (c.addr ex f).2 0 ((c.src.map (·.toNat)).getD 64) ((c.dst.map (·.toNat)).getD 64) t ∧ GoesOn s ex f c.h t ∧
          Counts s ex c.tk 1 (fun j => match c.dst with | some d => withSide ex.cush d.toNat (fun t => { t with wclaim := true }) j | none => getTile ex.cush j) t ∧
          (noFork s → edgeClear s ex → (t.engines.getLast?).map (·.phase) = some .issued) ∧
          (noFork s → edgeWaits s ex → (t.engines.getLast?).map (·.phase) = some .fork)) ∧
      (∀ j, firstOutside ex c.src c.dst = some j → f.expItem = none → getCarpet s f.carpet = some ex.car →
        ∃ t, exec i s = .next t ∧ CarpetEnds s f ex.pc 0x11D 0 (BitVec.ofNat 64 (0x11D * 2 ^ 48 + j)) none t ∧ t.engines = s.engines)) ∧
    (∀ car, traps s f car →
      (f.idx < ex.car.pkt.prodLo ∨ ex.car.pkt.prodHi < f.idx → ∃ t, exec i s = .next t ∧ InHandler s ex f car 0x11A 0 f.idx t ∧ TrapFrame s ex t) ∧
      (ex.car.pkt.prodLo ≤ f.idx → f.idx ≤ ex.car.pkt.prodHi → formatsMeet ex.cush c.src c.dst →
        (0xFFFFFFFF ≤ getTk ex.cush c.tk → ∃ t, exec i s = .next t ∧ InHandler s ex f car 0x118 0 c.tk t ∧ TrapFrame s ex t) ∧
        (getTk ex.cush c.tk < 0xFFFFFFFF →
          (∀ d ∈ c.dst, ¬ copyMayFill (getTile ex.cush d.toNat) →
            ∃ t, exec i s = .next t ∧ InHandler s ex f car 0x11C 0 (useDetail d.toNat (getTile ex.cush d.toNat)) t ∧ TrapFrame s ex t) ∧
          (∀ a ∈ c.src, (∀ d ∈ c.dst, copyMayFill (getTile ex.cush d.toNat)) → ¬ copyMayDrain (getTile ex.cush a.toNat) →
            ∃ t, exec i s = .next t ∧ InHandler s ex f car 0x11C 0 (useDetail a.toNat (getTile ex.cush a.toNat)) t ∧ TrapFrame s ex t))) ∧
      (∀ a ∈ c.src, ∀ d ∈ c.dst, ex.car.pkt.prodLo ≤ f.idx → f.idx ≤ ex.car.pkt.prodHi →
        let x := (getTile ex.cush a.toNat).w1
        let y := (getTile ex.cush d.toNat).w1
        bits x 22 5 ≤ 19 → bits y 22 5 ≤ 19 →
        (¬ copyable (bits x 22 5) (bits y 22 5) →
          ∃ t, exec i s = .next t ∧ InHandler s ex f car 0x11F 0 (a.toNat + 256 * d.toNat) t ∧ TrapFrame s ex t) ∧
        (copyable (bits x 22 5) (bits y 22 5) → bits x 0 22 ≠ bits y 0 22 →
          ∃ t, exec i s = .next t ∧ InHandler s ex f car 0x11F 0 (a.toNat + 256 * d.toNat + 65536) t ∧ TrapFrame s ex t)))) ∧
  (∀ s ex f h a (tk : BitVec 3), solo s ex f h (tileShape [sG 1 a] none [aTok 7 tk.toNat]) →
    (getTk ex.cush tk.toNat < 0xFFFFFFFF →
      ∃ t, exec (.route h a tk) s = .next t ∧ Issued s ex .route tk.toNat 0 (opv (operands ex [sG 1 a] f) 0) 0 64 64 t ∧ GoesOn s ex f h t ∧
        Counts s ex tk.toNat 1 (getTile ex.cush) t) ∧
    (∀ car, traps s f car → 0xFFFFFFFF ≤ getTk ex.cush tk.toNat →
      ∃ t, exec (.route h a tk) s = .next t ∧ InHandler s ex f car 0x118 0 tk.toNat t ∧ TrapFrame s ex t)) ∧
  (∀ s ex f h (mask : BitVec 8),
    solo s ex f h { Machine.shape [] none with res := ((List.range 8).filter (fun t => mask.getLsbD t)).map (aTok 1), held := true } →
    let args := parkArgs ex (ex.pc + 8#64) (.tokens mask)
    f.cush = ex.cush.cid → roomFor s f args →
    ((∃ j, j < 8 ∧ mask.getLsbD j = true ∧ getTk ex.cush j ≠ 0) →
      ∃ t, exec (.wait h mask) s = .next t ∧ Parks s ex f args t ∧ getCush t ex.cush.cid = some ex.cush) ∧
    ((∀ j, j < 8 → mask.getLsbD j = true → getTk ex.cush j = 0) →
      ∃ t, exec (.wait h mask) s = .next t ∧ runAfter ex true [] t ∧ (∀ l ∈ t.l1, l.core = f.core → l.valid &&& ~~~l.dirty = 0#16) ∧
        ∃ g, getFibre t f.fid = some g ∧ g.status = .ready ∧ g.wait = .none ∧ g.pc = ex.pc + 8#64)) ∧
  (∀ s ex f h (d : BitVec 3) a, solo s ex f h { Machine.shape [sNoChan 1 1 a] none with res := [aTok 0 d.toNat], held := true } →
    let v := (getTk ex.cush d.toNat : Int) + (lo32 (opv (operands ex [sNoChan 1 1 a] f) 0)).toInt
    (0 ≤ v → v ≤ 0xFFFFFFFF → f.status = .resident →
      ∃ t, exec (.tkset h d a) s = .next t ∧ getFibre t f.fid = some { f with pc := ex.pc + 8#64 } ∧ runAfter ex h.er ex.latches t ∧
        t.mem = s.mem ∧ ∃ c', getCush t ex.cush.cid = some c' ∧ { c' with tks := [] } = { ex.cush with tks := [] } ∧
          (∀ i, getTk c' i = if i = d.toNat then v.toNat else getTk ex.cush i) ∧
          ∀ g m, getFibre s g.fid = some g → g.fid ≠ f.fid → g.cush = ex.cush.cid → g.status = .parked → g.saved = false → g.wait = .tokens m →
            (∀ j, j < 8 → m.getLsbD j = true → getTk c' j = 0) → (getFibre t g.fid).map (·.status) = some .ready) ∧
    (∀ car, traps s f car → v < 0 ∨ 0xFFFFFFFF < v →
      ∃ t, exec (.tkset h d a) s = .next t ∧ InHandler s ex f car 0x118 0 d.toNat t ∧ TrapFrame s ex t)) ∧
  (∀ s ex h d (a : BitVec 3), ready s ex h { Machine.shape [] (some (dNoChan d)) with res := [aTok 1 a.toNat], held := true } = true →
    ∃ t, exec (.tkrd h d a) s = .next t ∧ ValueDone (tkrdRow ex h d a) s ex t) ∧
  (∀ s ex h d (a : BitVec 4), ready s ex h { Machine.shape [] (some (dNoChan d)) with res := [{ field := 1, kind := 3, idx := a.toNat }], held := true } = true →
    ∃ t, exec (.chcnt h d a) s = .next t ∧ ValueDone (chcntRow s ex h d a) s ex t)

namespace Sys2Proof.Stmt

open Sys2Proof.Machine Sys2Proof.Safety

/-! ## Requests, replies, walks and the exchange (R26, R44, R45, R206, R208, R215, R216, R219 to R222, R250, R253, R257 to R259, R347, R372, R418) -/

/-- The step that takes up a request: at its first arrival, or once a halted home that has accepted it goes on, or 64 cycles after a refusal
(R347, R427). -/
def takesUp (s : State) (r : Req) (i : Instr) : Prop :=
  ∃ k, s.reqs[k]? = some r ∧ (i = .homeRequest k ∧ (r.refused = 0 ∨ r.taken = true) ∨
    i = .requestRetry k ∧ 0 < r.refused ∧ r.taken = false ∧ r.retryAt ≤ s.clock)

/-- It is the first of its sender at the home; it is the first of those that the home has not accepted (R26). -/
def firstOfAll (s : State) (r : Req) : Prop := (s.reqs.find? (fun q => q.src == r.src && q.die == r.die)).map (·.id) = some r.id
def firstWaiting (s : State) (r : Req) : Prop := (s.reqs.find? (fun q => q.src == r.src && q.die == r.die && !q.taken)).map (·.id) = some r.id
/-- The core whose tickets a sender uses: an engine those of the core it works for; from 1,152 on senders are link ports. -/
def senderOf (src : Nat) : Nat := if src < 1152 then src % 384 else src
/-- Another request of its sender holds a ticket at the home: it waits for that one (R347). -/
def waitsForTicket (s : State) (r : Req) : Prop :=
  ∃ q ∈ s.reqs, q.id ≠ r.id ∧ q.die = r.die ∧ q.ticket.isSome = true ∧ senderOf q.src = senderOf r.src
/-- A circuit or a relay leads from its die to the home and one leads back (R421). -/
def reaches (s : State) (r : Req) : Prop := diesConnected s (srcDie r.src) r.die = true ∧ diesConnected s r.die (srcDie r.src) = true
/-- It reaches a home that has not accepted it, and no request of its sender stands before it (R26, R347, R421). -/
def heard (s : State) (r : Req) : Prop := r.taken = false ∧ firstWaiting s r ∧ reaches s r ∧ ¬ waitsForTicket s r
/-- The home has room for it and is not in reset. -/
def admitted (s : State) (r : Req) : Prop := dieInReset s r.die = false ∧ trackerRoom s r = true
/-- The home works, has accepted the request or accepts it now, and no earlier one of its sender is left. -/
def goes (s : State) (r : Req) : Prop :=
  ctlB s offDBGCTL r.die = false ∧ dieInReset s r.die = false ∧ firstOfAll s r ∧ (r.taken = true ∨ heard s r ∧ admitted s r)
/-- An earlier request of its sender that the home has accepted stands before it still. -/
def behindTaken (s : State) (r : Req) : Prop := ∃ q ∈ s.reqs.takeWhile (fun q => q.id != r.id), q.taken = true ∧ q.src = r.src ∧ q.die = r.die

/-- The state with the request refused: it is tried again 64 cycles later, and from the second refusal on it holds a ticket (R347). -/
def refusedNow (s : State) (r : Req) : State :=
  let tk := if r.ticket.isSome then r.ticket else if r.refused = 0 then none else some s.nextTicket
  { s with
    reqs := s.reqs.map (fun q => if q.id = r.id then { q with refused := q.refused + 1, ticket := tk, retryAt := s.clock + 64 } else q)
    nextTicket := if r.ticket = none ∧ tk ≠ none then s.nextTicket + 1 else s.nextTicket }
/-- The state with the request accepted by a home that does not work on it yet (R427). -/
def acceptedNow (s : State) (r : Req) : State :=
  { s with reqs := s.reqs.map (fun q => if q.id = r.id then { q with taken := true, ticket := none } else q) }

/-- The request has left the line of its sender; no fibre, frond, run, cushion or control register changes. -/
def Left (s : State) (r : Req) (t : State) : Prop :=
  t.reqs = s.reqs.filter (fun q => q.id != r.id) ∧ t.fibres = s.fibres ∧ t.fronds = s.fronds ∧ t.slots = s.slots ∧ t.cushions = s.cushions ∧ t.ctl = s.ctl

/-- Every byte at its home reads as before. -/
def sameBytes (s t : State) : Prop := ∀ a, physRead t a = physRead s a

/-- The join of two cells of a lattice (R219). -/
def latticeJoin (ct a b : Nat) : Nat :=
  let key (x : Nat) : Nat := if 2 ^ 31 ≤ x then x ^^^ 0xFFFFFFFF else x ^^^ 0x80000000
  match ct with
  | 1 => if (BitVec.ofNat 32 a).slt (BitVec.ofNat 32 b) then b else a
  | 3 | 4 => min a b
  | 5 | 6 => a ||| b
  | 7 => a &&& b
  | 8 => if key a < key b then b else a
  | _ => max a b
def wideCell (ct : Nat) : Bool := decide (ct = 2 ∨ ct = 4 ∨ ct = 6 ∨ ct = 9)
def component (v i : Nat) : Nat := v / 2 ^ (32 * i) % 2 ^ 32

/-- A cell of n bytes of a die's replica. -/
def cellIs (s : State) (die asid region off n : Nat) : Nat := ofBytes ((List.range n).map (fun i => memRead (replicaOf s die asid region) (off + i)))

/-- The bytes of a load once these have come: those at hand, and those the reply brings. -/
def landed (l : LoadOp) (bs : List (Nat × Byte)) : Option (List Byte) :=
  (List.range l.places.length).mapM (fun j => match l.bytes[j]?, l.places[j]? with
    | some (some b), _ => some b
    | some none, some p => (bs.find? (fun x => x.1 == (match p with | .mem _ a => a | _ => 2 ^ 60 + j))).map (·.2)
    | _, _ => none)

/-- A reply has come to a spore that waits: its join counter goes down, and at zero it joins its ready queue (R44). -/
def Joined (s : State) (f g : Fibre) : Prop :=
  g.fid = f.fid ∧ g.pc = f.pc ∧ g.stcnt = f.stcnt ∧
  (f.joinCnt ≤ 1 → g.status = .ready ∧ g.wait = .none ∧ g.joinCnt = 0 ∧ g.age = s.clock) ∧
  (1 < f.joinCnt → g.status = f.status ∧ g.wait = f.wait ∧ g.joinCnt = f.joinCnt - 1)

/-- A result is in an x register, or a pair. -/
def inReg (g : Fibre) (d : Dst) (wide : Bool) (v : DWord) : Prop :=
  ∀ i, d = .x i → (if wide then getX64 g i.toNat else zext (getX g i.toNat)) = v

/-- An answer of a die has a way to a core; one of the L1 or of another package needs none (R421). -/
def comesTo (s : State) (die core : Nat) : Prop := die < 8 → diesConnected s die (core / 48) = true
/-- The pending operation that a reply names, its spore that waits, and the reply gone. -/
def replyFor (s : State) (k : Nat) (p : Reply) (op : Nat) (l : LoadOp) (f : Fibre) : Prop :=
  s.replies[k]? = some p ∧ comesTo s p.die l.core ∧ getLoad s op = some l ∧ getFibre s l.fid = some f ∧ f.status = .parked ∧ f.saved = false ∧ l.kind ≠ .pref
/-- No word of the lines that the load fills has come into the L1 meanwhile, so that the load takes all its bytes from its reply (R206). -/
def fillsFresh (s : State) (l : LoadOp) : Prop :=
  ∀ w ∈ l.fills, ∀ c ∈ s.l1, c.core = l.core → c.line = w.1 → c.valid &&& w.2.1 = 0#16
def answered (s t : State) (p : Reply) (op : Nat) : Prop :=
  t.replies = s.replies.filter (fun q => q.id != p.id) ∧ (∀ l ∈ t.loads, l.id ≠ op) ∧ t.mem = s.mem ∧ t.l2data = s.l2data ∧ t.ctl = s.ctl

/-- A walk that runs: among the first 128 of a die that is neither halted nor in reset (R216). -/
def walks (s : State) (k : Nat) (w : Walk) : Prop :=
  s.walks[k]? = some w ∧ ((s.walks.filter (fun v => v.die == w.die)).take 128).any (fun v => v.id == w.id) = true ∧
  ctlB s offDBGCTL w.die = false ∧ dieInReset s w.die = false ∧ w.dropped = false

end Sys2Proof.Stmt

open Sys2Proof Sys2Proof.Machine Sys2Proof.Safety Sys2Proof.Stmt

/-- HOME_REQUEST and REQUEST_RETRY: the first request of its sender at a home is applied once, whole, and answered: a write changes its bytes and no
other, a read gives the bytes at the home, an atomic its old value, JOIN waits until its word is 0, a crust read and an LJOIN act on the replica of
the one die. A home in reset, or with a full tracker, refuses: the request is tried again 64 cycles later and from the second refusal holds a
ticket. A halted home accepts and does nothing more; one that the request does not reach, or that has no way back, hears nothing. A poisoned read
gives no reply, and its carpet ends (R26, R208, R219, R220, R250, R253, R257, R258, R347, R418, R421, R427). -/
def Obligations.RequestsAreServedAtTheirHomes : Prop :=
  (∀ s r i, takesUp s r i → goes s r → MemCanon s →
    (∀ tgt cells, r.op = .write tgt cells → (cells.map (·.1)).Nodup →
      ∃ t, exec i s = .next t ∧ Left s r t ∧ (∀ c ∈ cells, physRead t c.1 = c.2) ∧
        (∀ a, a ∉ cells.map (·.1) → physRead t a = physRead s a) ∧
        ((∀ p g, tgt ≠ .link p g) → t.acks = s.acks ++ [{ id := r.id, die := r.die, tgt := tgt, sent := r.sent }]) ∧
        (∀ p g port, tgt = .link p g → routePort s noCore p = some port → t.acks = s.acks ∧ t.linkOut.getLast? = some (port, .reply g []))) ∧
    (∀ tgt bytes, r.op = .read tgt bytes → (∀ b ∈ bytes, ∀ p ∈ s.poison, p.1 ≠ b.1 / 64) →
      ∃ t, exec i s = .next t ∧ Left s r t ∧ sameBytes s t ∧ t.acks = s.acks ∧
        ((∀ p g, tgt ≠ .link p g) → t.replies.dropLast = s.replies ∧
          (t.replies.getLast?).map (fun q => (q.die, q.what)) = some (r.die, .bytes tgt (bytes.map (fun b => (b.2, physRead s b.1))))) ∧
        (∀ p g port, tgt = .link p g → routePort s noCore p = some port →
          t.replies = s.replies ∧ t.linkOut = s.linkOut ++ [(port, .reply g (bytes.map (fun b => physRead s b.1)))])) ∧
    (∀ tgt bytes b, r.op = .read tgt bytes → b ∈ bytes → (∃ p ∈ s.poison, p.1 = b.1 / 64) →
      (∀ op l, tgt = .load op → l ∈ s.loads → l.id = op → l.kind ≠ .pref) →
      ∃ t, exec i s = .next t ∧ t.replies = s.replies ∧ sameBytes s t ∧ (∃ q ∈ t.queued, q.queue = 16 ∧ q.rec_.cls = 3 ∧ q.rec_.syn = 0x341) ∧
        (r.carpet ≠ 0 → ∀ c, getCarpet t r.carpet = some c → c.dead = true)) ∧
    (∀ op aop a n b cmp, r.op = .rmw (.load op) aop a n b cmp → n = 4 ∨ n = 8 → unpoisoned s a n →
      let old := ofBytes (bytesAt s a n)
      let v := rmwNew aop n (BitVec.ofNat _ old) (b.setWidth _) (cmp.setWidth _)
      ∃ t, exec i s = .next t ∧ Left s r t ∧ bytesAt t a n = (List.range n).map (fun j => v.1.extractLsb' (8 * j) 8) ∧
        (∀ x, x < a ∨ a + n ≤ x → physRead t x = physRead s x) ∧
        (t.replies.getLast?).map (fun q => (q.die, q.what)) = some (r.die, .old op (BitVec.ofNat 64 old) v.2)) ∧
    (∀ op a, r.op = .join (.load op) a → unpoisoned s a 4 → joinRuns s (.load op) = true →
      ∃ t, exec i s = .next t ∧ Left s r t ∧ sameBytes s t ∧
        (ofBytes (bytesAt s a 4) = 0 → ∃ q ∈ t.replies, q.die = r.die ∧ q.what = .done op) ∧
        (ofBytes (bytesAt s a 4) ≠ 0 → t.joins.getLast? = some { tgt := .load op, addr := a, die := r.die, sent := r.sent })) ∧
    (∀ tgt asid bytes, r.op = .crustRead tgt asid bytes → (∀ b ∈ bytes, (regionOf s asid b.2).isSome = true) →
      ∃ t, exec i s = .next t ∧ Left s r t ∧ t.replicas = s.replicas ∧ t.mem = s.mem ∧
        (t.replies.getLast?).map (fun q => (q.die, q.what)) = some (r.die, .bytes tgt (bytes.map (fun b => (b.1,
          ((regionOf s asid b.2).map (fun g => memRead (replicaOf s r.die asid g) (b.2.toNat - regionBase s asid g))).getD 0))))) ∧
    (∀ tgt asid va ct b g, r.op = .ljoin tgt asid va ct b → regionOf s asid va = some g → ct ≤ 10 → (replicaOf s r.die asid g).wf = true →
      let n := if ct = 10 then 32 else if wideCell ct then 8 else 4
      let off := (va.toNat - regionBase s asid g) / n * n
      b.toNat < 2 ^ (8 * n) →
      ∃ t, exec i s = .next t ∧ Left s r t ∧ t.mem = s.mem ∧ t.acks = s.acks ++ [{ id := r.id, die := r.die, tgt := tgt, sent := r.sent }] ∧
        (∀ d a h, (d, a, h) ≠ (r.die, asid, g) → replicaOf t d a h = replicaOf s d a h) ∧
        (ct ≠ 10 → cellIs t r.die asid g off n = latticeJoin ct (cellIs s r.die asid g off n) b.toNat) ∧
        (ct = 10 → r.die < 8 → ∀ j, j < 8 → component (cellIs t r.die asid g off n) j =
          if j = r.die then min (component (cellIs s r.die asid g off n) j + b.toNat % 2 ^ 32) 0xFFFFFFFF else component (cellIs s r.die asid g off n) j)) ∧
    (∀ op asid va ct thr, r.op = .ldge op asid va ct thr → (regionOf s asid va).isSome = true → ctlF s (offCTXCB asid) 2 2 ≠ 0 →
      ∃ t, exec i s = .next t ∧ Left s r t ∧ t.replicas = s.replicas ∧ ∃ l ∈ t.ldges, l.op = op ∧ l.die = r.die ∧ l.va = va ∧ l.thr = thr) ∧
    (∀ op asid va thr g, r.op = .ldge op asid va 0 thr → regionOf s asid va = some g → ctlF s (offCTXCB asid) 2 2 = 0 →
      let v := cellIs s r.die asid g (va.toNat - regionBase s asid g) 4
      (∃ t, exec i s = .next t ∧ Left s r t ∧ t.replicas = s.replicas ∧
        (thr.toNat ≤ v → (regionType s asid g = 0) → ∃ q ∈ t.replies, q.die = r.die ∧ q.what = .value op (BitVec.ofNat 64 v)) ∧
        (v < thr.toNat → t.ldges.getLast? = some { op, die := r.die, asid, va, ctype := 0, thr, carpet := r.carpet, sent := r.sent }))) ∧
    (∀ a, r.op = .prefL2 a → ∃ t, exec i s = .next t ∧ Left s r t ∧ sameBytes s t ∧ t.replies = s.replies ∧ t.acks = s.acks)) ∧
  (∀ s r i, takesUp s r i → heard s r → (∀ id, r.op ≠ .sync id) →
    (¬ admitted s r → exec i s = .next (refusedNow s r)) ∧
    (admitted s r → ctlB s offDBGCTL r.die = true ∨ behindTaken s r → exec i s = .next (acceptedNow s r))) ∧
  (∀ s k r, s.reqs[k]? = some r →
    (r.taken = true → ctlB s offDBGCTL r.die = true ∨ dieInReset s r.die = true ∨ behindTaken s r →
      exec (.homeRequest k) s = .next s ∧ exec (.requestRetry k) s = .next s) ∧
    (r.taken = false → ¬ reaches s r ∨ waitsForTicket s r ∨
      (∃ q, s.reqs.find? (fun q => q.src == r.src && q.die == r.die && !q.taken) = some q ∧ q.id ≠ r.id) →
      exec (.homeRequest k) s = .next s ∧ exec (.requestRetry k) s = .next s) ∧
    (0 < r.refused → r.taken = false → exec (.homeRequest k) s = .next s) ∧
    (r.refused = 0 ∨ r.taken = true ∨ s.clock < r.retryAt → exec (.requestRetry k) s = .next s))

namespace Sys2Proof.Stmt

open Sys2Proof.Machine Sys2Proof.Safety

/-- CRUST_SYNC_REQUEST and the exchange: a firing sends a snapshot of the dirty blocks of its entry to the partner and clears their dirty bits of
that entry alone; a firing that cannot be made waits; the partner joins the blocks into its replica, and no replica of another die changes; an
acknowledgement ends an exchange that was absorbed, and no other, once it has a way back. A sync reaches the eight dies one by one and is answered
when all have pushed what changed and every push is absorbed; a die takes or refuses its request as a home does (R219 to R222, R241, R259, R347,
R421, R427). -/
def crustsExchange : Prop :=
  (∀ s d e, d < 8 → e < 16 →
    let w := (ctlW s (offEXSCHED d e)).toNat
    let partner := w / 4 % 8
    let point := s.clock % (64 * max 1 (w / 2 ^ 24 % 65536)) = 64 * (w / 2 ^ 40 % 65536) ∧ (d, e) ∉ (cycNow s).fired
    let due := (d, e) ∈ s.fireDue
    let clear := ctlB s offDBGCTL d = false ∧ dieInReset s d = false ∧ ctlB s offDBGCTL partner = false ∧ dieInReset s partner = false ∧
      diesConnected s d partner = true ∧ ∀ x ∈ s.exchanges, (x.die, x.entry) ≠ (d, e)
    let bs := (s.dirty.filter (fun x => x.die == d && x.entry == e && ctlB s (offCRTAB x.blk.asid x.blk.region) 1)).map (·.blk)
    (w % 2 = 0 → exec (.exchangeFire d e) s = .next { s with fireDue := s.fireDue.filter (fun p => p != (d, e)) }) ∧
    (w % 2 = 1 → ¬ point → ¬ due → exec (.exchangeFire d e) s = .next s) ∧
    (w % 2 = 1 → w / 2 % 2 = 0 → (point ∨ due) → ¬ clear →
      ∃ t, exec (.exchangeFire d e) s = .next t ∧
        { t with cyc := s.cyc } = { s with fireDue := s.fireDue.filter (fun p => p != (d, e)) ++ [(d, e)] }) ∧
    (w % 2 = 1 → w / 2 % 2 = 0 → (point ∨ due) → clear →
      ∃ t, exec (.exchangeFire d e) s = .next t ∧ t.replicas = s.replicas ∧ (d, e) ∉ t.fireDue ∧ t.fibres = s.fibres ∧ t.mem = s.mem ∧
        (∀ x, x ∈ t.dirty ↔ x ∈ s.dirty ∧ ¬ (x.die = d ∧ x.entry = e ∧ x.blk ∈ bs)) ∧
        (bs = [] → t.exchanges = s.exchanges) ∧
        (bs ≠ [] → t.exchanges.dropLast = s.exchanges ∧
          (t.exchanges.getLast?).map (fun x => (x.die, x.entry, x.dst, x.pkg, x.sync, x.absorbed, x.blocks)) =
            some (d, e, partner, none, none, false, bs.map (fun b => (b, (replicaOf s d b.asid b.region).filter (fun c => c.1 / 256 == b.block))))))) ∧
  (∀ s k x, s.exchanges[k]? = some x → x.absorbed = false → x.pkg = none → ctlB s offDBGCTL x.dst = false → dieInReset s x.dst = false →
    diesConnected s x.die x.dst = true →
    ∃ t, exec (.exchangeReceive k) s = .next t ∧ t.fibres = s.fibres ∧ t.mem = s.mem ∧ t.ctl = s.ctl ∧
      (∀ y ∈ t.exchanges, y.id = x.id → y.absorbed = true) ∧
      t.exchanges.map (fun y => { y with absorbed := false }) = s.exchanges.map (fun y => { y with absorbed := false }) ∧
      (∀ d a g, d ≠ x.dst → replicaOf t d a g = replicaOf s d a g) ∧
      ∀ b cells, x.blocks = [(b, cells)] → ctlB s (offCRTAB b.asid b.region) 1 = true → (replicaOf s x.dst b.asid b.region).wf = true →
        let ct := regionType s b.asid b.region
        let n := if wideCell ct then 8 else 4
        ct < 10 → ∀ i, i < 256 / n →
          cellIs t x.dst b.asid b.region (256 * b.block + n * i) n =
            latticeJoin ct (cellIs s x.dst b.asid b.region (256 * b.block + n * i) n)
              (ofBytes ((List.range n).map (fun j => memRead cells (256 * b.block + n * i + j))))) ∧
  (∀ s k x, s.exchanges[k]? = some x → (x.absorbed = true ∨ ctlB s offDBGCTL x.dst = true ∨ dieInReset s x.dst = true ∨ diesConnected s x.die x.dst = false) →
    exec (.exchangeReceive k) s = .next s) ∧
  (∀ s k x, s.exchanges[k]? = some x →
    (x.absorbed = false ∨ x.pkg = none ∧ diesConnected s x.dst x.die = false → exec (.exchangeAck k) s = .next s) ∧
    (x.absorbed = true → x.pkg.isSome = true ∨ diesConnected s x.dst x.die = true → s.syncs = [] →
      exec (.exchangeAck k) s = .next { s with exchanges := s.exchanges.filter (fun y => y.id != x.id) })) ∧
  (∀ s k x y, s.exchanges[k]? = some x → x.absorbed = true → x.pkg.isSome = true ∨ diesConnected s x.dst x.die = true → s.syncs = [y] →
    y.dies = [] → y.exch = [x.id] → y.back = none → y.sc ≠ .system →
    ∃ t, exec (.exchangeAck k) s = .next t ∧ (∀ z ∈ t.exchanges, z.id ≠ x.id) ∧ ∃ p ∈ t.replies, p.what = .absorbed y.id 0) ∧
  (∀ s k r id, (s.reqs.filter (fun q => match q.op with | .sync _ => true | _ => false))[k]? = some r → r.op = .sync id →
    0 < r.refused → r.taken = false → s.clock < r.retryAt → exec (.crustSyncRequest k) s = .next s) ∧
  (∀ s k r id, (s.reqs.filter (fun q => match q.op with | .sync _ => true | _ => false))[k]? = some r → r.op = .sync id →
    r.refused = 0 ∨ r.retryAt ≤ s.clock → heard s r →
    (¬ admitted s r → exec (.crustSyncRequest k) s = .next (refusedNow s r)) ∧
    (admitted s r → ctlB s offDBGCTL r.die = true ∨ behindTaken s r → exec (.crustSyncRequest k) s = .next (acceptedNow s r))) ∧
  (∀ s k r id y, (s.reqs.filter (fun q => match q.op with | .sync _ => true | _ => false))[k]? = some r → r.op = .sync id →
    r.refused = 0 ∨ r.taken = true ∨ r.retryAt ≤ s.clock → goes s r → s.syncs = [y] → y.id = id →
    ((∃ d ∈ y.dies, d ≠ r.die) →
      ∃ t, exec (.crustSyncRequest k) s = .next t ∧ t.reqs = s.reqs.filter (fun q => q.id != r.id) ∧ t.replies = s.replies ∧ t.replicas = s.replicas ∧
        (∃ z, t.syncs = [z] ∧ z.id = id ∧ z.dies = y.dies.filter (fun d => d != r.die) ∧ z.asked = y.asked ++ [(r.die, r.sent)]) ∧
        ∀ x, x ∈ t.dirty → x ∈ s.dirty) ∧
    (y.dies = [r.die] → y.exch = [] → y.back = none → y.sc ≠ .system → s.exchanges = [] → (∀ x ∈ s.dirty, x.die ≠ r.die) →
      ∃ t, exec (.crustSyncRequest k) s = .next t ∧ t.exchanges = [] ∧ ∃ p ∈ t.replies, p.what = .absorbed id 0))

end Sys2Proof.Stmt

open Sys2Proof Sys2Proof.Machine Sys2Proof.Safety Sys2Proof.Stmt

/-- REPLY_LAND and ENGINE_READ_REPLY, STORE_ACK, TRANSLATION_WALK_COMPLETE: a reply lands in its spore's registers, counts its join counter down and
wakes it at zero; an engine and a matrix operation take their bytes; an acknowledgement counts a store down and frees a write-back; all wait for a
way from their die. A walk that finds its leaf fills the die's cache and wakes its waiters, one that finds none holds them behind one record of the
page, which names the access whose miss brought the walk, and a malformed or poisoned entry ends their carpets, a poisoned one by the model's choice
(log entry 40). Crust blocks travel by the exchange and by LSYNC, as crustsExchange says (R31, R44, R45, R206, R207, R215, R216, R219 to R222, R237,
R241, R253, R259, R317, R372, R395, R398, R418, R421). -/
def Obligations.RepliesLandWalksEndAndCrustsExchange : Prop :=
  crustsExchange ∧
  (∀ s k p op l f bs, replyFor s k p op l f → p.what = .bytes (.load op) bs → (∀ x ∈ l.places, l1Poison s l.core x = false) →
    (∀ v, landed l bs = some v → v.length = accBytes l.size → l.bytes.length = l.places.length → fillsFresh s l →
      ∃ t, exec (.replyLand k) s = .next t ∧ answered s t p op ∧ ∃ g, getFibre t l.fid = some g ∧ Joined s f g ∧
        (l.size ≠ .w128 → inReg g l.d (decide (l.size = .w64)) (memValue l.size v)) ∧
        (l.size = .w128 → ∀ i, l.d = .x i → ∀ j, j < 4 → getX g (i.toNat + j) = BitVec.ofNat 32 (ofBytes ((v.drop (4 * j)).take 4)))) ∧
    (landed l bs = none → l.bytes.length = l.places.length →
      ∃ t, exec (.replyLand k) s = .next t ∧ getFibre t l.fid = some f ∧ (∃ m ∈ t.loads, m.id = op) ∧ t.mem = s.mem)) ∧
  (∀ s k p op l f v, replyFor s k p op l f →
    (∀ fl, p.what = .old op v fl → l.size = .w32 ∨ l.size = .w64 →
      ∃ t, exec (.replyLand k) s = .next t ∧ answered s t p op ∧ ∃ g, getFibre t l.fid = some g ∧ Joined s f g ∧
        inReg g l.d (decide (l.size = .w64)) (if l.size = .w64 then v else zext (lo32 v)) ∧
        (f.away = true → g.awFlags = f.awFlags ||| fl) ∧
        (f.away = false → ∀ c, getCush s f.cush = some c → (getCush t f.cush).map (·.fsr) = some (c.fsr ||| fl))) ∧
    (p.what = .value op v → l.size = .w32 ∨ l.size = .w64 →
      ∃ t, exec (.replyLand k) s = .next t ∧ answered s t p op ∧ ∃ g, getFibre t l.fid = some g ∧ Joined s f g ∧
        inReg g l.d (decide (l.size = .w64)) (if l.size = .w64 then v else zext (lo32 v))) ∧
    (p.what = .done op →
      ∃ t, exec (.replyLand k) s = .next t ∧ answered s t p op ∧ ∃ g, getFibre t l.fid = some g ∧ Joined s f g ∧ g.x = f.x)) ∧
  (∀ s k p id off bs o, s.replies[k]? = some p → p.what = .bytes (.engine id off) bs → getEng s id = some o → comesTo s p.die o.core → 1 < o.want →
    (∃ t, exec (.engineReadReply k) s = .next t ∧ getEng t id = some { o with want := o.want - 1, buf := o.buf ++ bs } ∧
      t.replies = s.replies.filter (fun q => q.id != p.id) ∧ t.fibres = s.fibres ∧ t.cushions = s.cushions ∧ t.mem = s.mem ∧ t.reqs = s.reqs) ∧
    exec (.replyLand k) s = .next s) ∧
  (∀ s k p id off bs, s.replies[k]? = some p → p.what = .bytes (.matrix id off) bs →
    (∀ c ∈ s.cushions, (∃ o ∈ c.mq, o.id = id) → comesTo s p.die c.core) →
    ∃ t, exec (.engineReadReply k) s = .next t ∧ t.fibres = s.fibres ∧ t.mem = s.mem ∧
      ∀ c : Cushion, c ∈ s.cushions → ∃ d : Cushion, d ∈ t.cushions ∧ d.cid = c.cid ∧ d.tiles = c.tiles ∧ d.mq.length = c.mq.length ∧
        ∀ (n : Nat) (o : MatOp), c.mq[n]? = some o → d.mq[n]? = some (if o.id = id then { o with outstanding := o.outstanding - 1, image := o.image ++ bs } else o)) ∧
  (∀ s k (a : Ack) fid cush num, s.acks[k]? = some a → a.tgt = .store fid cush num → calm s = true → noFork s →
    let acks := s.acks.filter (fun b => b.id != a.id)
    let n := if storePending { s with acks := acks } cush num then 0 else 1
    (∀ f, getFibre s fid = some f → comesTo s a.die f.core →
      ∃ t, exec (.storeAck k) s = .next t ∧ getFibre t fid = some { f with stcnt := f.stcnt - n } ∧
      t.acks = acks ∧ t.mem = s.mem ∧ t.l2data = s.l2data ∧ t.cushions = s.cushions) ∧
    (∀ c, getFibre s fid = none → getCush s cush = some c → comesTo s a.die c.core →
      ∃ t, exec (.storeAck k) s = .next t ∧ getCush t cush = some { c with retired := c.retired - n } ∧
      t.acks = acks ∧ t.fibres = s.fibres)) ∧
  (∀ s k (a : Ack) core, s.acks[k]? = some a → a.tgt = .writeBack core → diesConnected s a.die (core / 48) = true → calm s = true → noFork s →
    exec (.storeAck k) s = .next { s with acks := s.acks.filter (fun b => b.id != a.id), wbs := s.wbs.filter (fun w => w.2 != a.id) }) ∧
  (∀ s k (a : Ack) op fid cush o c, s.acks[k]? = some a → a.tgt = .tokenUp op fid cush → getEng s op = some o → getCush s cush = some c →
    getTk c o.tok + 32 ≤ 0xFFFFFFFF → calm s = true → ∀ f, getFibre s fid = some f → comesTo s a.die f.core →
    ∃ t, exec (.storeAck k) s = .next t ∧ getFibre t fid = some { f with stcnt := f.stcnt - 1 } ∧ bytesStay s t ∧
      (getEng t op).map (fun e => (e.upDue, e.kind, e.a, e.b, e.n, e.tok)) = some (false, o.kind, o.a, o.b, o.n, o.tok) ∧
      ∃ c', getCush t cush = some c' ∧ { c' with tks := [] } = { c with tks := [] } ∧ ∀ j, getTk c' j = getTk c j + if j = o.tok then 32 else 0) ∧
  (∀ s k p op l id off bs o fid cush num f, ¬ comesTo s p.die l.core → ¬ comesTo s p.die o.core → ¬ comesTo s p.die f.core →
    (s.replies[k]? = some p → getLoad s op = some l → (getFibre s l.fid).isSome = true → p.what = .bytes (.load op) bs →
      exec (.replyLand k) s = .next s) ∧
    (s.replies[k]? = some p → getEng s id = some o → p.what = .bytes (.engine id off) bs → exec (.engineReadReply k) s = .next s) ∧
    ∀ a : Ack, s.acks[k]? = some a → a.die = p.die → a.tgt = .store fid cush num → getFibre s fid = some f → exec (.storeAck k) s = .next s) ∧
  (∀ s k w, walks s k w → MemCanon s →
    (∀ x, walkTable s w.asid w.va = .ok x → w.waiters = [] →
      ∃ t, exec (.translationWalkComplete k) s = .next t ∧ t.walks = s.walks.filter (fun v => v.id != w.id) ∧ t.coreTlb = s.coreTlb ∧
        (w.die, x) ∈ t.dieTlb ∧ t.fibres = s.fibres ∧ bytesStay s t ∧ t.ctl = s.ctl) ∧
    (∀ x fid acc pc f, walkTable s w.asid w.va = .ok x → w.waiters = [.fibre fid w.va acc pc] → acc.va = w.va →
      w.va.toNat % 2 ^ 16 + acc.n ≤ 2 ^ 16 → getFibre s fid = some f → f.status = .parked → f.saved = false →
      tlbFind s.coreTlb f.core w.asid w.va = none → leafCheck s acc x w.va acc.n x.level = none →
      ∃ t, exec (.translationWalkComplete k) s = .next t ∧ (w.die, x) ∈ t.dieTlb ∧ (f.core, x) ∈ t.coreTlb ∧
        (∃ g, getFibre t fid = some g ∧ g.status = .ready ∧ g.wait = .none ∧ g.pc = f.pc ∧ g.x = f.x) ∧ t.detects = s.detects ∧ bytesStay s t) ∧
    (∀ lv fid va acc pc f, walkTable s w.asid w.va = .pageFault lv → w.waiters = [.fibre fid va acc pc] → getFibre s fid = some f → s.holds = [] →
      ∃ t, exec (.translationWalkComplete k) s = .next t ∧ getFibre t fid = some { f with wait := .replay } ∧ t.dieTlb = s.dieTlb ∧
        t.holds.map (fun h => (h.die, h.asid, h.va, h.waiters)) = [(w.die, w.asid, va, [.fibre fid va acc pc])] ∧ t.queued.dropLast = s.queued ∧
        (t.queued.getLast?).map (fun q => (q.queue, q.rec_.cls, q.rec_.syn, q.rec_.w1, q.rec_.w2, q.rec_.w3)) =
          some (match w.first with
            | some m => (w.asid, 1, 0x200, m.pc, m.w2, w.va)
            | none => (w.asid, 1, 0x200, pc, fibreW2 s f, va))) ∧
    (∀ lv why fid va acc pc f, walkTable s w.asid w.va = .bad lv why → w.waiters = [.fibre fid va acc pc] → getFibre s fid = some f →
      (getCarpet s f.carpet).isSome = true → f.expItem = none →
      ∃ t, exec (.translationWalkComplete k) s = .next t ∧
        CarpetEnds s f pc 0x202 va (accDetail acc.kind lv why) (some f.cush) t) ∧
    (∀ p fid va acc pc f, walkTable s w.asid w.va = .poisoned p → w.waiters = [.fibre fid va acc pc] → getFibre s fid = some f →
      ∃ t, exec (.translationWalkComplete k) s = .next t ∧ t.dieTlb = s.dieTlb ∧ t.coreTlb = s.coreTlb ∧ bytesStay s t ∧
        (∃ q ∈ t.queued, q.queue = 16 ∧ q.rec_.cls = 3 ∧ q.rec_.syn = 0x341) ∧ ∀ c, getCarpet t f.carpet = some c → c.dead = true))

namespace Sys2Proof.Stmt

open Sys2Proof.Machine Sys2Proof.Safety

/-! ## Fibres between turns, launch and placement (R35, R43, R44, R46 to R48, R52, R53, R56, R263, R272, R334 to R342, R346) -/

/-- A die that is neither halted nor in reset (R376, R427). -/
def dieUp (s : State) (die : Nat) : Prop := ctlB s offDBGCTL die = false ∧ dieInReset s die = false

/-- A carpet that is alive, of a context that runs (R348, R373). -/
def alive (s : State) (id : Nat) (k : Carpet) : Prop := getCarpet s id = some k ∧ k.dead = false ∧ ctlF s (offCTXCB k.asid) 2 2 = 0

/-- Only fibres change, and of them only the one. -/
def onlyFibre (s : State) (fid : Nat) (g : Fibre) (t : State) : Prop :=
  getFibre t fid = some g ∧ { t with fibres := [] } = { s with fibres := [] } ∧ ∀ n, n ≠ fid → getFibre t n = getFibre s n

/-- A page in a die's translation cache maps a 64-byte aligned address for a read, to memory of this package (R214, R216). -/
def dieReads (s : State) (die asid : Nat) (k : AccKind) (va : DWord) (n : Nat) (a : Nat) : Prop :=
  preCheck s asid k (accParts va n) = none ∧ ∃ x, tlbFind s.dieTlb die asid va = some x ∧ leafCheck s (gAcc k va n true false) x va n 7 = none ∧
    leafRmt x.leaf = false ∧ leafCR x.leaf = false ∧ physOf (leafKind x.leaf) (leafPA x va) = some a

/-- The frond that a slot takes: of the highest priority, then the oldest, then of the nearest cushion slot after the last served (R346). -/
def bestFrond (s : State) (core last : Nat) (f : Frond) : Prop :=
  let dist (g : Frond) : Nat := slotDist last (((getCush s g.cush).map (·.slot)).getD 0)
  f ∈ s.fronds ∧ frondReady s core f = true ∧ ∀ g ∈ s.fronds, frondReady s core g = true →
    frondPrio s g ≤ frondPrio s f ∧ (frondPrio s g = frondPrio s f → f.age ≤ g.age ∧ (g.age = f.age → dist f ≤ dist g))

/-- The bytes for which a core has granted landing slots to spores that are still under way. -/
def grantedBytes (s : State) (c : Nat) : Nat :=
  ((s.fibres.filter (fun g => g.landCore == some c && !g.landed && g.core != c)).map sporeBytes).sum
/-- What fits in a core's record area as a landed spore, beside those it has granted a slot to (R48, R263). -/
def landable (s : State) (f : Fibre) (c : Nat) : Prop :=
  (s.fibres.filter (fun g => g.landCore == some c)).length < 8 ∧ recordUse s c + grantedBytes s c + sporeBytes f ≤ recBytes s c

/-- No item is left spilled of a fibre, which is about to change (R46). -/
def unspilled (s : State) (fid : Nat) : List Nat := s.spilled.filter (fun k => k != fid)

/-- Room at a core for a spore that comes from another: in its record area, or by spilling, or in the spill area (R345, R404). -/
def landRoom (s : State) (f : Fibre) (c : Nat) : Option State :=
  makeRoom { s with fibres := s.fibres.filter (fun g => g.fid != f.fid) } c (asidOf s f.carpet) (sporeBytes f) f.fid

/-- The write-backs that a core started before a moment are done (R207). -/
def backDone (s : State) (core b : Nat) : Prop := ∀ w ∈ s.wbs, w.1 = core → b ≤ w.2

/-- A read of a spore with a poisoned unit is refused: its record is queued and its carpet ends (R411, R418). -/
def SporeRefused (s : State) (f : Fibre) (p : Nat × Nat) (core : Nat) (t : State) : Prop :=
  (∃ q ∈ t.queued, q.queue = 16 ∧ q.rec_.cls = 3 ∧ q.rec_.syn = 0x341 ∧ q.rec_.w3 = shownPA (64 * p.1) ∧
    q.rec_.w4 = BitVec.ofNat 64 (p.2 + homeDie (64 * p.1) * 16) ∧ q.rec_.w2 = recW2 0 core 0 0x3FF 0) ∧
  (∀ k, getCarpet t f.carpet = some k → k.dead = true) ∧ t.fibres = s.fibres ∧ t.fronds = s.fronds ∧ t.l1 = s.l1 ∧ t.mem = s.mem

/-- A task record that its cushion leaves names the cushion's place from then on; no other fibre changes (R41, R52). -/
def homesKept (s : State) (c : Cushion) (t : State) : Prop :=
  t.fibres.length = s.fibres.length ∧ ∀ (n : Nat) (f : Fibre), s.fibres[n]? = some f →
    t.fibres[n]? = some (if f.task = true ∧ f.cush = c.cid then { f with home := some ⟨c.core, c.slot, c.stage, c.pos⟩ } else f)

/-- The replies of a walk: its cursors, and its result where it is written to a register (R44, R272). -/
def repliesOf (h : Hdr) (d : Option Dst) (ks : List (Nat × Cursor)) (v : Option (DWord × Bool)) : List WkLand :=
  ks.map (fun k => .cursor k.1 k.2) ++ (match d, v, h.ws with | some d, some v, false => [.reg d v.1 v.2] | _, _, _ => [])

/-- Nothing of a cushion is left to be done, and there is no task record that it could restore (R52). -/
def idleCushion (s : State) (c : Cushion) : Prop :=
  (∀ f ∈ s.fibres, f.task = false → f.cush ≠ c.cid) ∧
  (∀ f ∈ s.fibres, couldRestore s c f = false) ∧
  (∀ o ∈ s.engines, o.cush ≠ c.cid) ∧ (∀ h ∈ s.held, h.cush ≠ c.cid) ∧ c.mq = [] ∧ c.retired = 0

/-- What a die's translation cache says of the cell of a condition of a packet (R216, R338). -/
def cellLeaf (s : State) (die asid : Nat) (va : DWord) (x : Xlat) : Prop :=
  preCheck s asid .load (accParts va 1) = none ∧ tlbFind s.dieTlb die asid va = some x ∧ leafCheck s (gAcc .load va 1 false false) x va 1 7 = none

/-- A leaf is of a crust page of a type. -/
def crustPage (x : Xlat) (ct : Nat) : Prop := leafCR x.leaf = true ∧ leafCtype x.leaf = ct

/-- A packet's start condition is met, or there is none; its context runs (R335, R338). -/
def mayAccept (s : State) (p : ReadPacket) : Prop :=
  ctlF s (offCTXCB p.asid) 2 2 = 0 ∧ (p.readable = true → p.pkt.scv = true →
    ∀ v, ldgeValue s (p.q % 8) p.asid p.pkt.scAddr p.pkt.scType = some v →
      cellLe (if p.pkt.scType = 10 then 2 else p.pkt.scType) p.pkt.scThr.toNat v = true)

/-- One packet is accepted before another: by priority, then by context, then by queue (R336). -/
def comesFirst (r p : ReadPacket) : Prop :=
  p.pkt.prio < r.pkt.prio ∨ (p.pkt.prio = r.pkt.prio ∧ (r.asid < p.asid ∨ (r.asid = p.asid ∧ r.q < p.q)))

/-- The id of the carpet that a packet launches (R339). -/
def launchId (r : ReadPacket) : Nat := r.asid * 2 ^ 28 + r.q * 2 ^ 24 + r.index % 2 ^ 24

/-- What the placement of one cushion of a patch leaves: the cushion as R58 starts it, and its fibres, of which those below 32 have a window and a
frond of one (R58, R341, R342). -/
def CushionPlaced (v : State) (k : Carpet) (i n core o : Nat) (w : State) : Prop :=
  ∃ c, w.cushions = v.cushions ++ [c] ∧ w.mem = v.mem ∧
    (c.carpet, c.core, some c.slot, c.stripe, c.patch, c.stage, c.pos) = (k.id, core, freeSlot v core, o, i, n / k.pkt.width, n % k.pkt.width) ∧
    (c.px, c.py, c.pz) = (i % k.pkt.px, i / k.pkt.px % k.pkt.py, i / (k.pkt.px * k.pkt.py)) ∧
    (c.fsr, c.fctl, c.scratch, c.mq, c.frozen, c.saved) = (0, 0, [], [], false, false) ∧
    w.fibres.length = v.fibres.length + k.pkt.nfib ∧ w.fibres.take v.fibres.length = v.fibres ∧
    ∀ m, m < k.pkt.nfib → ∃ f, w.fibres[v.fibres.length + m]? = some f ∧ (f.carpet, f.cush, f.idx, f.lane) = (k.id, c.cid, m, m % 32) ∧
      f.pc = k.pkt.kernel + BitVec.ofNat 64 k.ker.codeOff + BitVec.ofNat 64 k.ker.entry ∧ f.winSize = k.ker.budget ∧ f.prio = k.pkt.prio ∧
      f.pred = 1#8 ∧ (∀ j, getX f j = 0#32) ∧ (m < 32 → f.status = .resident ∧ ∃ r ∈ w.fronds, r.members = [f.fid]) ∧ (32 ≤ m → f.status = .ready)

/-- A launch queue's packet is due: the queue is valid, its context runs, its die is up, and none of its packets waits (R335, R336). -/
def queueDue (s : State) (asid q : Nat) : Prop :=
  ctlB s (offLQ asid q) 0 = true ∧ ctlF s (offCTXCB asid) 2 2 = 0 ∧ dieUp s (q % 8) ∧ ∀ p ∈ s.packets, p.asid = asid → p.q ≠ q

end Sys2Proof.Stmt

open Sys2Proof Sys2Proof.Machine Sys2Proof.Safety Sys2Proof.Stmt

/-- The steps of fibres and launch. FORCED_PARK parks a resident fibre whole; RUN_START gives a free slot the frond of R346 unless the gate is
closed; FROND_MERGE joins two; SPORE_RESTORE gives the head of a wait list its window and registers; SPORE_AGE_PROMOTE raises a priority;
LANDING_RESERVE_GRANT and SPORE_LAND bring a sent spore to a core; WALKER_COMPLETE completes a cursor
instruction with the results that the statement about cursors gives it, and lands them one by one; CUSHION_END and CARPET_RETIRE end what is
done; LAUNCH_PACKET_READ, LAUNCH_ACCEPT and PATCH_PLACE turn a packet into a carpet and its cushions: a patch is placed whole, cushion by cushion,
or not at all (R35, R43, R47, R48, R52, R53, R56, R263,
R272, R334 to R343, R346, R404, R406, R417, R428). The model's choices among it: a slot that has served no cushion yet counts from slot 15 (log entry
38); the cushion and index a task record gets, and which records keep a cushion from ending (log entry 28); that the launch unit's
reads without a way end the launch with 0x0306 (log entry 22); and that a new cushion's scratch lists no byte, since unwritten bytes read as zero (log
entry 1). -/
def Obligations.FibresAreScheduledAndCarpetsLaunched : Prop :=
  (∀ s f fr car, getFibre s f.fid = some f → f.status = .resident → getCarpet s f.carpet = some car →
    s.fronds.find? (fun r => r.members.contains f.fid) = some fr →
    let a : ParkArgs := { at_ := none, resume := f.pc, wait := .none, join := 0, dstG := 0, dstK := 0 }
    (car.dead = false → dieUp s (f.core / 48) → roomFor s f a →
      ∃ t, exec (.forcedPark f.fid) s = .next t ∧ t.mem = s.mem ∧ t.ctl = s.ctl ∧ t.cushions = s.cushions ∧ t.carpets = s.carpets ∧
        (∃ g, getFibre t f.fid = some g ∧ g.status = .ready ∧ g.wait = .none ∧ g.joinCnt = 0 ∧ g.pc = f.pc ∧ g.x = f.x ∧ g.k = f.k ∧
          g.pred = f.pred ∧ g.age = s.clock ∧ g.prio = car.pkt.prio ∧ ∀ i, i < 16 → g.liveG.getLsbD i = decide (i < f.winSize)) ∧
        (∀ r ∈ t.fronds, r.fr = fr.fr → f.fid ∉ r.members) ∧
        (∀ n, n ≠ f.fid → getFibre t n = getFibre s n) ∧
        ∀ c n k, getSlot s c n = some k → k.frond = some fr.fr → ∃ k', getSlot t c n = some k' ∧ k'.frond = none ∧ k'.latches = []) ∧
    (car.dead = true ∨ ¬ dieUp s (f.core / 48) → exec (.forcedPark f.fid) s = .next s) ∧
    (car.dead = false → dieUp s (f.core / 48) → ctlF s (offCTXCB car.asid) 2 2 = 1 → ¬ roomFor s f a → MemCanon s →
      ∃ t, exec (.forcedPark f.fid) s = .next t ∧ (getFibre t f.fid).map (·.status) = some .resident ∧ ctlF t (offCTXCB car.asid) 2 2 = 0 ∧
        ctlB t (offCTXCB car.asid) 4 = true)) ∧
  (∀ s core slot, core < 384 → slot < 4 →
    let busy := (s.slots.filter (fun k => k.core == core && k.frond.isSome)).length
    let free := ∀ k, getSlot s core slot = some k → k.frond = none
    let waits := ∃ k c, getSlot s core slot = some k ∧ k.endedAt = some c ∧
      ∃ j ∈ s.slots, j.core = core ∧ j.slot < slot ∧ j.frond = none ∧ j.endedAt = some c
    (free → ¬ waits → dieUp s (core / 48) → busy < ctlF s offPWEVT 8 3 → (∃ f ∈ s.fronds, frondReady s core f = true) →
      ∃ t f, exec (.runStart core slot) s = .next t ∧ bestFrond s core (((getSlot s core slot).map (·.lastCush)).getD 15) f ∧
        (∃ k, getSlot t core slot = some k ∧ k.frond = some f.fr ∧ k.latches = [] ∧ k.lastCush = ((getCush s f.cush).map (·.slot)).getD 0) ∧
        (∀ c n, (c, n) ≠ (core, slot) → getSlot t c n = getSlot s c n) ∧
        { t with slots := [] } = { s with slots := [] }) ∧
    (waits ∨ (∃ k, getSlot s core slot = some k ∧ k.frond.isSome = true) ∨ ¬ dieUp s (core / 48) ∨ ctlF s offPWEVT 8 3 ≤ busy ∨
        (∀ f ∈ s.fronds, frondReady s core f = false) →
      exec (.runStart core slot) s = .next s)) ∧
  (∀ s a b x y, getFrond s a = some x → getFrond s b = some y →
    (a ≠ b → x.core = y.core → x.cush = y.cush → x.away = y.away → frondReady s x.core x = true → frondReady s x.core y = true →
      frondPc s x = frondPc s y → (∀ g ∈ frondLanes s x, ∀ h ∈ frondLanes s y, g.lane ≠ h.lane) →
      ∃ t, exec (.frondMerge a b) s = .next t ∧ getFrond t b = none ∧ (∀ c, c ≠ a → c ≠ b → getFrond t c = getFrond s c) ∧
        { t with fronds := [], nextId := 0 } = { s with fronds := [], nextId := 0 } ∧
        (getFrond t a).map (fun f => (f.members, f.age, f.core, f.cush, f.away, f.order)) =
          some (x.members ++ y.members, min x.age y.age, x.core, x.cush, x.away, 0)) ∧
    (a = b ∨ x.core ≠ y.core ∨ x.cush ≠ y.cush ∨ x.away ≠ y.away ∨ frondPc s x ≠ frondPc s y ∨
        (∃ g ∈ frondLanes s x, ∃ h ∈ frondLanes s y, g.lane = h.lane) →
      exec (.frondMerge a b) s = .next s)) ∧
  (∀ s j f h sh d ks v fl, walkerFree s f j → CursForm j.instr h sh d → CursStep (inWalker s f j) f j.instr ks v fl →
    let ls := repliesOf h d ks v
    f.joinCnt = max 1 ls.length →
    ∃ t g, exec (.walkerComplete f.fid) s = .next t ∧ bytesStay s t ∧ getFibre t f.fid = some g ∧ g.pc = f.pc ∧
      g.awFlags = (if f.away then f.awFlags ||| fl else f.awFlags) ∧
      (∀ c, getCush s f.cush = some c → (getCush t f.cush).map (·.fsr) = some (if f.away then c.fsr else c.fsr ||| fl)) ∧
      (ls.length ≤ 1 → g.status = .ready ∧ g.wait = .none ∧ ∀ q ∈ t.jobs, q.fid ≠ f.fid) ∧
      (∀ x y rest, ls = x :: y :: rest → g.status = .parked ∧ g.joinCnt = f.joinCnt - 1 ∧
        (t.jobs.find? (fun q => q.fid == f.fid)).map (·.due) = some (y :: rest)) ∧
      (∀ k c, ls.head? = some (.cursor k c) → g.x = f.x ∧ ∀ n, getK g n = if n = k then c else getK f n) ∧
      (∀ i z wide, ls.head? = some (.reg (.x i) z wide) → (∀ n, getK g n = getK f n) ∧
        (if wide then getX64 g i.toNat = z else getX g i.toNat = lo32 z) ∧
        ∀ n, n ≠ i.toNat → (n = i.toNat + 1 → wide = false) → getX g n = getX f n)) ∧
  (∀ s j f x rest, s.jobs.find? (fun q => q.fid == f.fid) = some j → getFibre s f.fid = some f → f.status = .parked → f.wait = .reply →
    j.due = x :: rest → rest ≠ [] → 1 < f.joinCnt →
    ∃ t, exec (.walkerComplete f.fid) s = .next t ∧ t.mem = s.mem ∧ (t.jobs.find? (fun q => q.fid == f.fid)).map (·.due) = some rest ∧
      ∃ g, getFibre t f.fid = some g ∧ g.status = .parked ∧ g.joinCnt = f.joinCnt - 1 ∧ ∀ k c, x = .cursor k c → getK g k = c) ∧
  (∀ s core bank, core < 384 → bank < 32 →
    (¬ dieUp s (core / 48) ∨ waitHead s core bank = none → exec (.sporeRestore core bank) s = .next s) ∧
    (∀ w, waitHead s core bank = some w → w.f.status = .ready → w.task.isSome = true ∨ w.f.affinity = 1 ∨ w.f.affinity = 2 →
      (∀ c, takenBy s w.f = some c → c = core) ∧
      (takenBy s w.f = none → w.f.tgtDie = core / 48 ∧ (windowPlace s core bank w.need).isSome = true)) ∧
    (∀ w n f, waitHead s core bank = some w → w.f.group = some n → f ∈ s.fibres → f.group = some n →
      (∀ v, waitHead s core f.lane = some v → v.f.fid ≠ f.fid) → exec (.sporeRestore core bank) s = .next s) ∧
    (∀ w, dieUp s (core / 48) → waitHead s core bank = some w → w.f.group = none → getFibre s w.f.fid = some w.f →
      (∀ p, w.f.poisoned = some p → ∃ t, exec (.sporeRestore core bank) s = .next t ∧ SporeRefused s w.f p core t) ∧
      (∀ b, w.f.poisoned = none → w.f.core ≠ core → w.f.claim = some b → ¬ backDone s w.f.core b → FibresApart s →
        let queued := w.f.task = true ∨ w.f.affinity = 1 ∨ w.f.affinity = 2
        ∃ t, exec (.sporeRestore core bank) s = .next t ∧ { t with fibres := [] } = { s with fibres := [] } ∧
          (∀ n, n ≠ w.f.fid → getFibre t n = getFibre s n) ∧
          (queued → getFibre t w.f.fid = some { w.f with taken := some core } ∧
            ∀ c n v, waitHead t c n = some v → v.f.fid = w.f.fid → v.f.status = .ready → c = core) ∧
          (¬ queued → getFibre t w.f.fid = some w.f)) ∧
      (∀ off, w.f.poisoned = none → w.f.core = core ∨ (∃ b, w.f.claim = some b ∧ backDone s w.f.core b) → windowPlace s core bank w.need = some off →
        ∃ t g, exec (.sporeRestore core bank) s = .next t ∧ getFibre t w.f.fid = some g ∧ (∀ n, n ≠ w.f.fid → getFibre t n = getFibre s n) ∧
          t.mem = s.mem ∧ t.ctl = s.ctl ∧ t.cushions = s.cushions ∧ (w.f.core = core → t.l1 = s.l1) ∧
          (w.f.core ≠ core → ∀ l ∈ t.l1, l.core = core → l.valid &&& ~~~l.dirty = 0#16) ∧
          g.status = .resident ∧ g.wait = .none ∧ g.joinCnt = 0 ∧ g.core = core ∧ g.winOff = off ∧ g.winSize = w.need ∧ g.pc = w.f.pc ∧
          g.pred = w.f.pred ∧ g.taken = none ∧ g.claim = none ∧
          (∃ r ∈ t.fronds, w.f.fid ∈ r.members ∧ r.core = core ∧ r.cush = g.cush) ∧
          (w.task = none → g.cush = w.f.cush ∧ g.idx = w.f.idx ∧ ∀ i, i < 16 * w.need →
            getX g i = if i < 16 * w.f.winSize ∧ w.f.liveG.getLsbD (i / 16) = true then getX w.f i else 0) ∧
          ∀ c i, w.task = some (c, i) → g.cush = c.cid ∧ g.idx = i ∧ g.lane = i % 32 ∧ g.task = false ∧ getX64 g 0 = w.f.frame))) ∧
  (∀ s f k, getFibre s f.fid = some f → getCarpet s f.carpet = some k →
    (f.status = .ready → f.prio < 3 → alive s f.carpet k → f.age + 2 ^ 20 * (f.prio + 1 - k.pkt.prio) ≤ s.clock →
      ∃ t, exec (.sporeAgePromote f.fid) s = .next t ∧ onlyFibre s f.fid { f with prio := f.prio + 1 } t) ∧
    (f.status ≠ .ready ∨ 3 ≤ f.prio ∨ s.clock < f.age + 2 ^ 20 * (f.prio + 1 - k.pkt.prio) → exec (.sporeAgePromote f.fid) s = .next s)) ∧
  (∀ s r rest f k, s.landing = r :: rest → r.die < 8 → dieUp s r.die → getFibre s r.fid = some f → f.saved = false → alive s f.carpet k →
    ((∃ c, c / 48 = r.die ∧ landable s f c) →
      ∃ t c, exec (.landingReserveGrant r.die) s = .next t ∧ c / 48 = r.die ∧ landable s f c ∧
        (∀ d, d / 48 = r.die → landable s f d → freeIn s d f.lane ≤ freeIn s c f.lane) ∧
        getFibre t r.fid = some { f with landCore := some c } ∧ (∀ n, n ≠ r.fid → getFibre t n = getFibre s n) ∧
        { t with fibres := [], landing := [] } = { s with fibres := [], landing := [] } ∧ t.landing = s.landing.filter (fun q => q.fid != r.fid)) ∧
    ((∀ c, c / 48 = r.die → ¬ landable s f c) → exec (.landingReserveGrant r.die) s = .next s)) ∧
  (∀ s f k c b, getFibre s f.fid = some f → alive s f.carpet k → f.landCore = some c → f.landed = false → dieUp s (c / 48) →
    diesConnected s (f.core / 48) (c / 48) = true → f.claim = some b →
    let fctl := match getCush s f.cush with
      | some h => if f.core / 48 = h.core / 48 then modeNow s h else f.awFctl
      | none => f.awFctl
    (f.poisoned = none → backDone s f.core b → FibresApart s →
      (recordUse { s with fibres := s.fibres.filter (fun g => g.fid != f.fid), spilled := unspilled s f.fid } c + sporeBytes f ≤ recBytes s c →
        ∃ t, exec (.sporeLand f.fid) s = .next t ∧ getFibre t f.fid = some { f with landed := true, core := c, claim := none, awFctl := fctl } ∧
          t.spilled = unspilled s f.fid ∧
          (∀ n, n ≠ f.fid → getFibre t n = getFibre s n) ∧ t.mem = s.mem ∧ t.fronds = s.fronds ∧ (∀ l ∈ t.l1, l.core = c → l.valid &&& ~~~l.dirty = 0#16)) ∧
      (∀ r, landRoom s f c = some r →
        ∃ t, exec (.sporeLand f.fid) s = .next t ∧ getFibre t f.fid = some { f with landed := true, core := c, claim := none, awFctl := fctl } ∧
          t.spilled = r.spilled ∧ t.mem = s.mem ∧ t.fronds = s.fronds ∧
          (f.status ≠ .resident → f.saved = false → ∀ k, k ∈ t.spilled → k ∈ s.spilled ∨ ∃ i ∈ sporeItems t, i.h = k ∧ i.core = c)) ∧
      (landRoom s f c = none → ∃ t, exec (.sporeLand f.fid) s = .next t ∧ t.fibres = s.fibres ∧ t.mem = s.mem ∧
        CarpetEnds s f (f.pc - 8#64) 0x20A 0 (BitVec.ofNat 64 (0x200 + if ctlF s (offCTXCB (asidOf s f.carpet) + 0x10) 0 32 = 0 then 1 else 0)) none t)) ∧
    (∀ p, f.poisoned = some p → ∃ t, exec (.sporeLand f.fid) s = .next t ∧ SporeRefused s f p f.core t) ∧
    (f.poisoned = none → ¬ backDone s f.core b → exec (.sporeLand f.fid) s = .next s)) ∧
  (∀ s c k, getCush s c.cid = some c → c.frozen = false → c.saved = false → alive s c.carpet k →
    (idleCushion s c → (∀ v ∈ c.cvs, v.count = 0) →
      ∃ t, exec (.cushionEnd c.cid) s = .next t ∧ getCush t c.cid = none ∧ (∀ n, n ≠ c.cid → getCush t n = getCush s n) ∧
        (∀ p ∈ t.power, p.cush ≠ c.cid) ∧ homesKept s c t ∧ t.mem = s.mem ∧ t.carpets = s.carpets) ∧
    (∀ i v, idleCushion s c → c.cvs[i]? = some v → v.count ≠ 0 → (∀ j w, j < i → c.cvs[j]? = some w → w.count = 0) →
      ∃ t, exec (.cushionEnd c.cid) s = .next t ∧ t.cushions = s.cushions ∧ (∀ q, getCarpet t c.carpet = some q → q.dead = true) ∧
        (t.detects.getLast?).map (fun d => (d.carpet, d.rec_.syn, d.rec_.w4)) = some (c.carpet, 0x20B, BitVec.ofNat 64 (i + v.count * 2 ^ 16))) ∧
    ((∃ f ∈ s.fibres, (f.task = false ∧ f.cush = c.cid) ∨ couldRestore s c f = true) ∨ (∃ o ∈ s.engines, o.cush = c.cid) ∨ c.mq ≠ [] ∨ c.retired ≠ 0 →
      exec (.cushionEnd c.cid) s = .next s)) ∧
  (∀ s k, getCarpet s k.id = some k →
    let ended := k.dead = false ∧ k.placed = k.pkt.px * k.pkt.py * k.pkt.pz ∧ (∀ c ∈ s.cushions, c.carpet ≠ k.id) ∧ ∀ f ∈ s.fibres, f.carpet ≠ k.id
    (¬ ended → exec (.carpetRetire k.id) s = .next s) ∧
    (ended → k.barrier = none →
      ∃ t, exec (.carpetRetire k.id) s = .next t ∧ (∃ b, getCarpet t k.id = some { k with barrier := some b }) ∧ (∀ l ∈ t.l1, l.dirty = 0#16) ∧
        t.mem = s.mem ∧ t.replicas = s.replicas) ∧
    (∀ b, ended → k.barrier = some b → (∃ w ∈ s.wbs, w.2 < b) → exec (.carpetRetire k.id) s = .next s) ∧
    (∀ b, ended → k.barrier = some b → (∀ w ∈ s.wbs, b ≤ w.2) → dieUp s (k.q % 8) →
      (k.pkt.cjv = false ∨ k.noJoin = true → exec (.carpetRetire k.id) s = .next { s with carpets := s.carpets.filter (fun c => c.id != k.id) }) ∧
      (k.pkt.cjv = true → k.noJoin = false → ∃ t, exec (.carpetRetire k.id) s = .next t ∧ getCarpet t k.id = none ∧ t.mem = s.mem ∧
        (∀ g, regionOf s k.asid k.pkt.cjAddr = some g → ctlF s (offCRTAB k.asid g) 3 4 < 10 → (replicaOf s (k.q % 8) k.asid g).wf = true →
          let ct := ctlF s (offCRTAB k.asid g) 3 4
          let n := if wideCell ct then 8 else 4
          let off := (k.pkt.cjAddr.toNat - regionBase s k.asid g) / n * n
          k.pkt.cjVal.toNat < 2 ^ (8 * n) → cellIs t (k.q % 8) k.asid g off n = latticeJoin ct (cellIs s (k.q % 8) k.asid g off n) k.pkt.cjVal.toNat) ∧
        (regionOf s k.asid k.pkt.cjAddr = none → t.replicas = s.replicas ∧
          (t.queued.getLast?).map (fun q => (q.queue, q.rec_.cls, q.rec_.syn, q.rec_.w3)) = some (k.asid, 2, 0x208, k.pkt.cjAddr))))) ∧
  (∀ s asid q v, asid < 16 → q < 16 → ldgeValue s (q % 8) asid (ctlW s (offLQ asid q + 0x10)) 0 = some v →
    let head := ctlF s (offLQ asid q + 0x18) 0 32
    let va := ctlW s (offLQ asid q + 8) + BitVec.ofNat 64 (128 * (head % 2 ^ ctlF s (offLQ asid q) 8 4))
    (queueDue s asid q → head < v → MemCanon s → s.walks = [] →
      ∃ t p, exec (.launchPacketRead asid q) s = .next t ∧ t.packets = s.packets ++ [p] ∧ (p.asid, p.q, p.addr, p.index) = (asid, q, va.toNat, head) ∧
        ctlF t (offLQ asid q + 0x18) 0 32 = (head + 1) % 2 ^ 32 ∧ t.fibres = s.fibres ∧ sameBytes s t ∧
        ∀ a, va.toNat % 128 = 0 → dieReads s (q % 8) asid .load va 128 a → (∀ x ∈ s.poison, x.1 ≠ a / 64 ∧ x.1 ≠ a / 64 + 1) →
          let b (off n : Nat) : Nat := ofBytes ((physBytes s (a + off) n))
          p.readable = true ∧ p.lost = none ∧ (p.pkt.kernel.toNat, p.pkt.param.toNat, p.pkt.px, p.pkt.py, p.pkt.pz, p.pkt.nfib, p.pkt.prio, p.pkt.asid) =
            (b 0 8, b 8 8, b 16 2 + 1, b 18 2 + 1, b 20 2 + 1, b 24 2 % 2048, b 30 2 % 4, b 36 4 % 16)) ∧
    (∀ x pkg, queueDue s asid q → head < v → MemCanon s → va.toNat % 128 = 0 → preCheck s asid .load (accParts va 128) = none →
      tlbFind s.dieTlb (q % 8) asid va = some x → leafCheck s (gAcc .load va 128 true false) x va 128 7 = none → leafCR x.leaf = false →
      leafRmt x.leaf = true → leafRpkg x.leaf = pkg → pkg ≠ pkgIdOf s → routePort s 384 pkg = none →
      ∃ t p, exec (.launchPacketRead asid q) s = .next t ∧ t.packets = s.packets ++ [p] ∧ p.readable = false ∧ p.lost = some (va, pkg)) ∧
    (¬ queueDue s asid q ∨ v ≤ head → exec (.launchPacketRead asid q) s = .next s)) ∧
  (∀ s r, r ∈ s.packets → r.asid < 16 → r.q < 16 →
    ((∀ p ∈ s.packets, p.asid = r.asid → p.q = r.q → p = r) →
      ¬ mayAccept s r ∨ ¬ dieUp s (r.q % 8) ∨ (∃ p ∈ s.packets, p.q % 8 = r.q % 8 ∧ mayAccept s p ∧ comesFirst p r) →
      exec (.launchAccept r.asid r.q) s = .next s) ∧
    (mayAccept s r → dieUp s (r.q % 8) → r.q % 8 ∉ (cycNow s).accepted →
      (∀ p ∈ s.packets, p ≠ r → p.q % 8 = r.q % 8 → mayAccept s p → comesFirst r p) →
      let taken (t : State) : Prop := t.packets = s.packets.filter (fun p => !(p.asid == r.asid && p.q == r.q)) ∧ t.fibres = s.fibres ∧ t.cushions = s.cushions
      let refused (syn : Nat) (w3 w4 : DWord) : Prop := ∃ t, exec (.launchAccept r.asid r.q) s = .next t ∧ taken t ∧ t.carpets = s.carpets ∧
        (t.queued.getLast?).map (fun q => (q.queue, q.rec_.cls, q.rec_.syn, q.rec_.w2, q.rec_.w3, q.rec_.w4)) =
          some (r.asid, 2, syn, recW2 (launchId r) 0x1FF 0 0x3FF 0, w3, w4)
      let bad : Prop := refused 0x401 (BitVec.ofNat 64 r.addr) 0
      let s' := noteAccept { s with packets := s.packets.filter (fun p => !(p.asid == r.asid && p.q == r.q)) } (r.q % 8)
      let ph := phase1 s' r
      (∀ va pkg, r.lost = some (va, pkg) → refused 0x306 va (BitVec.ofNat 64 pkg)) ∧
      (r.lost = none → r.readable = false ∨ packetFields r.asid r.pkt = false ∨ (r.pkt.scv = true ∧ regionOf s r.asid r.pkt.scAddr = none) → bad) ∧
      (r.lost = none → r.readable = true → packetFields r.asid r.pkt = true → (r.pkt.scv = true → regionOf s r.asid r.pkt.scAddr ≠ none) →
        ((r.pkt.scv = true → ∃ x, cellLeaf s (r.q % 8) r.asid r.pkt.scAddr x ∧ crustPage x r.pkt.scType) →
          (r.pkt.cjv = true → ∃ x, cellLeaf s (r.q % 8) r.asid r.pkt.cjAddr x ∧ crustPage x r.pkt.cjType) → ph = (s', .ok ())) ∧
        (∀ x, r.pkt.scv = true → cellLeaf s (r.q % 8) r.asid r.pkt.scAddr x → ¬ crustPage x r.pkt.scType → bad) ∧
        (∀ x, r.pkt.scv = false → r.pkt.cjv = true → cellLeaf s (r.q % 8) r.asid r.pkt.cjAddr x → ¬ crustPage x r.pkt.cjType → bad)) ∧
      (ph.2 = .fail → bad) ∧ (ph.2 = .wait → exec (.launchAccept r.asid r.q) s = .next s) ∧
      ∀ u, ph.2 = .ok u →
        let im := phase2 ph.1 (r.q % 8) r.asid r.pkt.kernel
        (im.2 = .fail → refused 0x400 r.pkt.kernel 0) ∧ (im.2 = .wait → exec (.launchAccept r.asid r.q) s = .next s) ∧
        (∀ va pkg, im.2 = .lost va pkg → refused 0x306 va (BitVec.ofNat 64 pkg)) ∧
        ∀ k, im.2 = .ok k → let pb := phase3 im.1 (r.q % 8) r.asid r.pkt k
          (pb.2 = .fail → bad) ∧ (pb.2 = .wait → exec (.launchAccept r.asid r.q) s = .next s) ∧
          (∀ va pkg, pb.2 = .lost va pkg → refused 0x306 va (BitVec.ofNat 64 pkg)) ∧
          ∀ ps, pb.2 = .ok ps → ∃ t, exec (.launchAccept r.asid r.q) s = .next t ∧ taken t ∧ t.queued = pb.1.queued ∧
            t.carpets = s.carpets ++ [⟨launchId r, r.asid, r.q, r.pkt, k, ps, s.clock, 0, false, none, false, [], false⟩])) ∧
  (∀ s asid q, asid < 16 → q < 16 → q % 8 ∈ (cycNow s).accepted → exec (.launchAccept asid q) s = .next s) ∧
  (∀ s die n budget nfib prio mat core o, pickCore s die n budget nfib mat = some (core, o) →
    coreFor s die n budget nfib prio mat = (s, some (core, o)) ∧ core / 48 = die ∧ coreFits s core n budget nfib mat = some o ∧
    ∀ d, d / 48 = die → (coreFits s d n budget nfib mat).isSome = true →
      coreFree s d ≤ coreFree s core ∧ (coreFree s d = coreFree s core → core ≤ d)) ∧
  (∀ s die, die < 8 →
    (firstPatch s die = none → exec (.patchPlace die) s = .next s) ∧
    (∀ k i, firstPatch s die = some (k, i) → getCarpet s k.id = some k →
      let place (u : State) : State × Option (Nat × Nat) :=
        coreFor u die (footprint k.ker / 32) k.ker.budget k.pkt.nfib k.pkt.prio (decide (0 < k.ker.cvs))
      let all := k.pkt.stages * k.pkt.width
      (i ≠ k.placed → exec (.patchPlace die) s = .next s) ∧
      (i = k.placed → ∃ us : Nat → State, us 0 = s ∧
        (∀ n v core o, n < all → place (us n) = (v, some (core, o)) → CushionPlaced v k i n core o (us (n + 1))) ∧
        ((∀ n, n < all → (place (us n)).2 ≠ none) → ∃ t, exec (.patchPlace die) s = .next t ∧
          { t with carpets := [] } = { us all with carpets := [] } ∧ (getCarpet t k.id).map (·.placed) = some (i + 1)) ∧
        (∀ n, n < all → (place (us n)).2 = none → exec (.patchPlace die) s = .next s))))

namespace Sys2Proof.Stmt

open Sys2Proof.Machine Sys2Proof.Safety

/-! ## Power, the matrix queue and the engines (R14, R236, R237, R297, R300, R301, R303, R316 to R330, R385, R412 to R415) -/

/-- The carpet of an engine operation ends: a detection of this syndrome is due, and no byte at a home changes (R373, R411). -/
def EngineEnds (s : State) (carpet syn : Nat) (pc w3 w4 : DWord) (t : State) : Prop :=
  t.detects.length = s.detects.length + 1 ∧
  (t.detects.getLast?).map (fun d => (d.carpet, d.rec_.cls, d.rec_.syn, d.rec_.w1, d.rec_.w3, d.rec_.w4)) = some (carpet, 2, syn, pc, w3, w4) ∧
  (∀ c, getCarpet t carpet = some c → c.dead = true) ∧ t.mem = s.mem ∧ t.fibres = s.fibres

/-- The physical bytes of an engine's access of n bytes, with every translation in the die's cache (R216, R236). -/
def dieGoesTo (s : State) (die asid : Nat) (va : DWord) (n : Nat) (w : Bool) : Option (List Nat) := (viaDie s die asid .engine va n w).bind inMem

/-- A byte is asked for at its home, or sent to it, by some request. -/
def askedFor (t : State) (a at_ : Nat) : Prop := ∃ q ∈ t.reqs, q.die = homeDie a ∧ ∃ tgt bs, q.op = .read tgt bs ∧ (a, at_) ∈ bs
def sentTo (t : State) (a : Nat) (v : Byte) : Prop := ∃ q ∈ t.reqs, q.die = homeDie a ∧ ∃ tgt cs, q.op = .write tgt cs ∧ (a, v) ∈ cs

/-- A matrix queue's head may go on: its carpet lives, its context runs, its die is up, and its grant covers the cost (R300, R301). -/
def headGoes (s : State) (c : Cushion) (k : Carpet) (op : MatOp) (rest : List MatOp) : Prop :=
  getCush s c.cid = some c ∧ alive s c.carpet k ∧ c.saved = false ∧ dieUp s (c.core / 48) ∧ c.mq = op :: rest ∧ op.cost ≤ c.grant

/-- An operation has finished reading a source: one reader fewer, and a released tile that nobody reads is EMPTY (R297, R300). -/
def sourceLeft (c : Cushion) (i : Nat) (c' : Cushion) : Prop :=
  ∀ n, getTile c' n = withSide c i (fun u =>
    if u.readers ≤ 1 ∧ u.relpend = true then { u with readers := 0, st := .empty, relpend := false } else { u with readers := u.readers - 1 }) n

/-- A tile and its side tile are in a state (R296, R297). -/
def tileIs (c : Cushion) (i : Nat) (st : TState) : Prop :=
  (getTile c i).st = st ∧ (16 ≤ bits (getTile c i).w1 22 5 → (getTile c (bits (getTile c i).w1 31 6)).st = st)

/-- The one cushion becomes c', and nothing else of the package changes but what is named. -/
def onlyCush (s : State) (cid : Nat) (c' : Cushion) (t : State) : Prop :=
  getCush t cid = some c' ∧ (∀ n, n ≠ cid → getCush t n = getCush s n) ∧ t.fibres = s.fibres ∧ t.mem = s.mem ∧ t.carpets = s.carpets

/-- An engine operation that may go on, with its cushion and carpet (R332, R427). -/
def engGoes (s : State) (o : EngOp) (c : Cushion) (k : Carpet) : Prop :=
  getEng s o.id = some o ∧ getCush s o.cush = some c ∧ getCarpet s o.carpet = some k ∧ k.dead = false ∧ c.saved = false ∧ dieUp s o.die ∧
  ctlF s (offCTXCB o.asid) 2 2 = 0

/-- The hold on the token is replaced by the count (R316). -/
def CountedAs (o : EngOp) (c : Cushion) (total : Nat) (t : State) : Prop :=
  (getEng t o.id).map (·.left) = some total ∧ ∃ c', getCush t o.cush = some c' ∧
    ∀ j, getTk c' j = if j = o.tok then getTk c j - 1 + total else getTk c j

/-- The piece that is applied at its destination is the last: the last acknowledged write, the row that has come, the decoded bytes (R237). -/
def ackOf (s : State) (id n : Nat) (a : Ack) : Prop :=
  a ∈ s.acks ∧ a.tgt = .engine id n ∧ (∀ o, getEng s id = some o → comesTo s a.die o.core) ∧ ∀ b ∈ s.acks, b ≠ a → ∀ m, b.tgt ≠ .engine id m
def allCome (o : EngOp) : Prop := o.todo = [] ∧ o.want = 0
def lastPiece (s : State) (c : Cushion) (o : EngOp) : Prop :=
  match o.kind with
  | .cpy | .cpySt | .route => ∃ a, ackOf s o.id o.left a
  | .cpyLd | .cpyTt => o.busy = true ∧ allCome o ∧ o.left = rowBatch c o * rowCount c o
  | .cpyd => o.uncounted = o.left

/-- The lowest reason for which an Unfurl block header fails, for a tile of a format code (R321, R413). -/
def headerReason (code : Nat) (o : EngOp) : Option Nat :=
  let b (i : Nat) : Nat := (bufByte o i).toNat
  if b 0 ≠ 0x55 ∨ b 1 ≠ 0x46 ∨ b 2 ≠ 1 ∨ 64 ≤ b 3 ∨ b 12 + b 13 + b 14 + b 15 ≠ 0 then some 1
  else if b 3 % 32 ≠ code then some 2
  else if 32 ≤ b 3 % 64 ∧ o.blkIdx = 0 then some 3
  else if b 4 + 256 * b 5 = 0 ∨ 4096 < b 4 + 256 * b 5 ∨ b 6 + b 7 = 0 then some 8
  else none

/-- The integer of an element code (R121). -/
def codeInt (t : Fmt) (code : Nat) : Int := intIn t (BitVec.ofNat 64 code)

/-- The passes of an integer product in ascending K, kp products each: every pass saturates once (R137, R304). -/
def intPasses (kp : Nat) : Nat → Int → List Int → Int
  | 0, acc, _ => acc
  | n + 1, acc, ps => intPasses kp n (max (-0x80000000) (min 0x7FFFFFFF (acc + (ps.take kp).sum))) (ps.drop kp)

def integerFmt (t : Fmt) : Prop := t = .s8 ∨ t = .n8 ∨ t = .i4

/-- An integer accumulator element after the products of an activation row with row n of a panel (R290, R304). -/
def intElem (t : Fmt) (p : Panel) (row : List Nat) (n prev : Nat) : Nat :=
  let ps := (row.zip (getD p.rows n [])).map (fun x => codeInt t x.1 * codeInt p.fmt x.2)
  let kp := if fmtBits t = 8 ∨ fmtBits p.fmt = 8 then 96 else 192
  (BitVec.ofInt 32 (intPasses kp ((ps.length + kp - 1) / kp) (BitVec.ofNat 32 prev).toInt ps)).toNat

/-- An accumulator tile holds each element once, in 32 bits; rows hold codes of a format. -/
def accSound (a : Acc) : Prop := (a.elems.map (·.1)).Nodup ∧ ∀ e ∈ a.elems, e.2 < 2 ^ 32
def codesOf (t : Fmt) (rows : List (List Nat)) : Prop := ∀ r ∈ rows, ∀ x ∈ r, x < 2 ^ fmtBits t

/-- Only the accumulators of a cushion change, and of them one tile or pair; the tags stay (R292). -/
def onlyAccs (c : Cushion) (is : List Nat) (c1 : Cushion) : Prop :=
  { c1 with accs := [], panel := none } = { c with accs := [], panel := none } ∧ ∀ i, (getAcc c1 i).tag = (getAcc c i).tag ∧ (i ∉ is → getAcc c1 i = getAcc c i)

/-- The finite number of an encoding. -/
def isNumber (t : Fmt) (code : Nat) (v : ℚ) : Prop := ∃ neg m e, decVal t code = .fin neg m e ∧ v = ratOf neg m e

/-- The number of an element by its code, its column and the side bytes of its row (R120, R132, R133). -/
def elemNumber (t : Fmt) (side : List Nat) (col code : Nat) (v : ℚ) : Prop :=
  let mx (g : Fmt) : Prop := getD side (col / 32) 0 ≠ 255 ∧ ∃ w, isNumber g code w ∧ v = w * (2 : ℚ) ^ ((getD side (col / 32) 0 : Int) - 127)
  let ds (mb off : Nat) : Prop :=
    let e := getD side (2 * (col / 48) + code / 2 ^ (mb + 1) % 2) 0
    e ≠ 255 ∧ v = (if code / 2 ^ mb % 2 = 1 then -1 else 1) * (code % 2 ^ mb : Nat) * (2 : ℚ) ^ ((e : Int) - off)
  match t with
  | .mx8 => mx .e4m3
  | .mx4 => mx .e2m1
  | .ds8 => ds 6 132
  | .ds4 => ds 2 128
  | _ => isNumber t code v

/-- The numbers of a row. -/
def rowNumbers (t : Fmt) (side codes : List Nat) (xs : List ℚ) : Prop :=
  xs.length = codes.length ∧ ∀ j v, xs[j]? = some v → elemNumber t side j (getD codes j 0) v

/-- The natural nearest to a number that is not negative, the even one of two (rint of R134). -/
def nearestNat (x : ℚ) (n : Nat) : Prop := |x - n| ≤ 1 / 2 ∧ (|x - n| = 1 / 2 → n % 2 = 0)

/-- The integer to which a mode rounds a number (R124). -/
def intRounds (mode : Rnd) (v : ℚ) (z : Int) : Prop :=
  match mode with
  | .rne => |v - z| ≤ 1 / 2 ∧ (|v - z| = 1 / 2 → z % 2 = 0)
  | .rna => |v - z| ≤ 1 / 2 ∧ (|v - z| = 1 / 2 → |v| ≤ |(z : ℚ)|)
  | .rz => z = if v < 0 then -⌊-v⌋ else ⌊v⌋
  | .ru => z = -⌊-v⌋
  | .rd => z = ⌊v⌋
  | .sr _ => True

/-- A number rounded once to a format: a zero sum is +0 (R136). -/
def roundsTo (t : Fmt) (mode : Rnd) (sat : Bool) (v : ℚ) (y : Nat × BitVec 5) : Prop :=
  ∃ neg m e, ratOf neg m e = v ∧ (m = 0 → neg = false) ∧ y = roundTo (fInfo t) mode sat false (.fin neg m e)

/-- A result with the rows it reads at hand. -/
def readsAll (op : MatOp) (rows : List (List Nat)) : Prop := op.phase = .read ∧ getD op.data 1 [] = rows

/-- A tile without block format that TLDEF accepts, in a scratch of canonical form (R294, R295). -/
def plainTile (c : Cushion) (t : Tile) : Prop := tileWords 524288 t.w0 t.w1 ∧ bits t.w1 22 5 < 16 ∧ c.scratch.wf = true

/-- An element that is not a zero (R308). -/
def nonzero (t : Fmt) (x : Nat) : Bool := if t.isFloat then decide (x % 2 ^ (fmtBits t - 1) ≠ 0) else decide (x ≠ 0)

/-- Byte b of an image of a long accumulator (R138). -/
def imgByte (a : LongAcc) (b : Nat) : Byte :=
  if b < 544 then BitVec.ofNat 8 ((a.l % 2 ^ 4352).toNat / 256 ^ b)
  else BitVec.ofNat 8 (((if a.nan then 1 else 0) + (if a.pinf then 2 else 0) + (if a.ninf then 4 else 0) + (a.wrap % 2 ^ 16).toNat * 2 ^ 16) / 256 ^ (b - 544))

/-- A long accumulator within its bounds (R138). -/
def longSound (a : LongAcc) : Prop := -(2 ^ 4351) ≤ a.l ∧ a.l < 2 ^ 4351 ∧ -32767 ≤ a.wrap ∧ a.wrap ≤ 32767

/-- What a long accumulator reads out as (R140). -/
def readsOut (mode : Rnd) (a : LongAcc) (code : Nat) : Prop :=
  (a.nan = true ∨ a.pinf = true ∧ a.ninf = true → code = 0x7FF8000000000000) ∧
  (a.nan = false → a.ninf = false → a.pinf = true ∨ 0 < a.wrap → code = 0x7FF0000000000000) ∧
  (a.nan = false → a.pinf = false → a.ninf = true ∨ a.wrap < 0 → code = 0xFFF0000000000000) ∧
  (a.nan = false → a.pinf = false → a.ninf = false → a.wrap = 0 → ∃ y, roundsTo .f64 mode false (a.l * (2 : ℚ) ^ (-2176 : Int)) y ∧ code = y.1)

/-- Accumulator element n of row m as MRD converts it into a format without blocks (R309): of a long accumulator, or of an element. -/
def convertsTo (c : Cushion) (op : MatOp) (a : Nat) (t : Fmt) (m n code : Nat) : Prop :=
  let e := accElem (getAcc c a) (64 * m + n)
  let mode := rmOf (op.rm.setWidth 4)
  match op.tag with
  | .x => readsOut mode (pairLong c a (8 * m + n)) code
  | .z => code = 0
  | .i32 =>
    let z := (BitVec.ofNat 32 e).toInt
    e < 2 ^ 32 → (integerFmt t → code = (intClamp t z % 2 ^ fmtBits t).toNat) ∧ (t.isFloat = true → ∃ y, roundsTo t mode true z y ∧ code = y.1)
  | k =>
    let g : Fmt := if k = .f64 then .f64 else .f32
    let e := elemAt c k a (64 * m + n)
    (t.isFloat = true → code = (roundTo (fInfo t) mode true false (decFloat (fInfo g) e)).1) ∧
    (integerFmt t →
      (∀ v, isNumber g e v → ∃ z, intRounds mode v z ∧ code = (intClamp t z % 2 ^ fmtBits t).toNat) ∧
      (∀ sig, decVal g e = .nan sig → code = 0) ∧
      ∀ neg, decVal g e = .inf neg → code = ((if neg then (intRange t).1 else (intRange t).2) % 2 ^ fmtBits t).toNat)

/-- An accumulator element goes through the passes of a product in binary32 or binary64: each adds its kp products exactly and rounds the sum once
(R136, R304). -/
inductive Passes (t : Fmt) (kp : Nat) : Nat → List ℚ → Nat → BitVec 5 → Prop
  | done acc : Passes t kp acc [] acc 0
  | pass acc a p ps y r fl : isNumber t acc a → roundsTo t .rne false (a + ((p :: ps).take kp).sum) y → Passes t kp y.1 ((p :: ps).drop kp) r fl →
      Passes t kp acc (p :: ps) r (y.2 ||| fl)

/-- What the products of an activation row with row n of a panel leave in accumulator (m, n), where they are numbers: of binary32 and binary64 the
passes' result, of a long accumulator the exact sum (R135, R136, R139). -/
def elemGoes (c c1 : Cushion) (op : MatOp) (t : Fmt) (ovw : Bool) (d : Nat) (p : Panel) (row side : List Nat) (m n : Nat) (fl : BitVec 5) : Prop :=
  ∀ xs ws, rowNumbers t side row xs → rowNumbers p.fmt (getD p.side n []) (getD p.rows n []) ws → xs.length = ws.length →
    let ps := (xs.zip ws).map (fun q => q.1 * q.2)
    (op.tag = .x →
      let x := if ovw then zeroLong else pairLong c d (8 * m + n)
      let y := pairLong c1 d (8 * m + n)
      longSound x → x.wrap.natAbs + ps.length < 32767 →
        (y.l : ℚ) + y.wrap * 2 ^ 4352 = x.l + x.wrap * 2 ^ 4352 + ps.sum * 2 ^ 2176 ∧ longSound y ∧ (y.nan, y.pinf, y.ninf) = (x.nan, x.pinf, x.ninf)) ∧
    (op.tag = .f32 ∨ op.tag = .f64 →
      ∀ r f, Passes (if op.tag = .f64 then .f64 else .f32) (mtxClass t p.fmt false).1 (if ovw then 0 else elemAt c op.tag d (64 * m + n)) ps r f →
        elemAt c1 op.tag d (64 * m + n) = r ∧ f ||| fl = fl)

/-- A product with floating accumulators: its kind, the columns it writes, and its accumulators, in an even pair where they take one (R291, R292). -/
def floatProduct (c : Cushion) (op : MatOp) (t : Fmt) (d cols : Nat) (rows : List (List Nat)) : Prop :=
  (op.tag = .f32 ∨ op.tag = .f64 ∨ op.tag = .x) ∧ readsAll op rows ∧ t.matrix = true ∧ cols ≤ (if op.tag = .x then 8 else 64) ∧
  (op.tag ≠ .f32 → d % 2 = 0) ∧ (op.tag = .x → t = .f64 ∧ codesOf .f64 rows) ∧
  ∀ i ∈ tilesOfKind op.tag d, ((getAcc c i).elems.map (·.1)).Nodup

/-- A panel that goes with it. -/
def floatPanel (op : MatOp) (p : Panel) : Prop := p.fmt.matrix = true ∧ (op.tag = .x → p.fmt = .f64 ∧ codesOf .f64 p.rows)

/-- MMA and MMAG: of integers, in binary32 and binary64, and in long accumulators (R135 to R137, R139, R304, R306). -/
def productValues : Prop :=
  (∀ c op p h t ovw d a cv rows, op.op = .mma h t ovw d a cv → op.tag = .i32 → readsAll op rows → c.panel = some p → integerFmt t → integerFmt p.fmt →
    p.n ≤ 64 → accSound (getAcc c d.toNat) →
    ∃ c1, opResult c op = .done c1 0 ∧ onlyAccs c [d.toNat] c1 ∧ c1.panel = c.panel ∧
      ∀ m n, n < 64 →
        let prev := accElem (getAcc c d.toNat) (64 * m + n)
        accElem (getAcc c1 d.toNat) (64 * m + n) =
          if m < rows.length ∧ n < p.n then intElem t p (getD rows m []) n (if ovw then 0 else prev) else if op.clear then 0 else prev) ∧
  (∀ c op h t ovw d a b cv rows ta i tw o, op.op = .mmag h t ovw d a b cv → op.tag = .i32 → readsAll op rows → integerFmt t → op.srcs = [ta, (i, tw)] →
    o = getD (getD op.data 0 []) 0 [] → o.Pairwise (· ≤ ·) → o.length = bits op.gpair 19 11 + 1 → 1 ≤ bits op.gpair 19 11 → bits op.gpair 19 11 ≤ 1024 →
    bits tw.w1 0 11 ≤ 64 → (∀ p ∈ op.panels, integerFmt p.fmt) → accSound (getAcc c d.toNat) →
    ∃ c1, opResult c op = .done c1 0 ∧ onlyAccs c [d.toNat] c1 ∧
      ∀ m n, m < rows.length → n < bits tw.w1 0 11 →
        let prev := accElem (getAcc c d.toNat) (64 * m + n)
        let x := m + bits op.gpair 36 12
        (∀ g p, getD o g 0 ≤ x → x < getD o (g + 1) 0 → op.panels[g]? = some p →
          accElem (getAcc c1 d.toNat) (64 * m + n) = intElem t p (getD rows m []) n (if ovw then 0 else prev)) ∧
        (x < getD o 0 0 ∨ getD o (bits op.gpair 19 11) 0 ≤ x → accElem (getAcc c1 d.toNat) (64 * m + n) = if ovw ∨ op.clear then 0 else prev)) ∧
  (∀ c op p h t ovw d a cv rows, op.op = .mma h t ovw d a cv → c.panel = some p → floatProduct c op t d.toNat p.n rows → floatPanel op p →
    ∃ c1 fl, opResult c op = .done c1 fl ∧ onlyAccs c (tilesOfKind op.tag d.toNat) c1 ∧ c1.panel = c.panel ∧
      ∀ m n, m < rows.length → n < p.n → elemGoes c c1 op t ovw d.toNat p (getD rows m []) (getD (getD op.data 2 []) m []) m n fl) ∧
  (∀ c op h t ovw d a b cv rows ta i tw o, op.op = .mmag h t ovw d a b cv → op.srcs = [ta, (i, tw)] →
    floatProduct c op t d.toNat (bits tw.w1 0 11) rows → (∀ p ∈ op.panels, floatPanel op p) →
    o = getD (getD op.data 0 []) 0 [] → o.Pairwise (· ≤ ·) → o.length = bits op.gpair 19 11 + 1 → 1 ≤ bits op.gpair 19 11 → bits op.gpair 19 11 ≤ 1024 →
    ∃ c1 fl, opResult c op = .done c1 fl ∧ onlyAccs c (tilesOfKind op.tag d.toNat) c1 ∧
      ∀ m n, m < rows.length → n < bits tw.w1 0 11 →
        let x := m + bits op.gpair 36 12
        (∀ g p, getD o g 0 ≤ x → x < getD o (g + 1) 0 → op.panels[g]? = some p →
          elemGoes c c1 op t ovw d.toNat p (getD rows m []) (getD (getD op.data 2 []) m []) m n fl) ∧
        (x < getD o 0 0 ∨ getD o (bits op.gpair 19 11) 0 ≤ x →
          (op.tag = .x → pairLong c1 d.toNat (8 * m + n) = if ovw ∨ op.clear then zeroLong else pairLong c d.toNat (8 * m + n)) ∧
          (op.tag ≠ .x → elemAt c1 op.tag d.toNat (64 * m + n) = if ovw ∨ op.clear then 0 else elemAt c op.tag d.toNat (64 * m + n))))

/-- MHAD over groups of 16 and 64, MCOND, and MQNT (R132 to R134, R307, R308, R309). -/
def tileValues : Prop :=
  (∀ c op h z size (den : ℚ) d a cv i ta td rows, (z = .h16 ∧ size = 16 ∧ den = 4 ∨ z = .h64 ∧ size = 64 ∧ den = 8) →
    op.op = .mhad h z d a cv → readsAll op rows → op.srcs = [(i, ta)] → op.dsts = [(d.toNat, td)] → plainTile c td →
    rows.length = bits td.w1 0 11 → (tlFmt td).isFloat = true → bits ta.w1 22 5 < 16 →
    ∀ live, (∀ r ∈ rows, r.length = live) → 0 < live → live % size = 0 → live ≤ bits td.w1 11 11 →
    ∃ c1 fl, opResult c op = .done c1 fl ∧ (∀ j, getTile c1 j = withSide c d.toNat (fun u => { u with st := .ready, live := live }) j) ∧
      ∀ m xs, m < rows.length → List.Forall₂ (isNumber (tlFmt ta)) (getD rows m []) xs →
        ∀ g j, size * g + j < live → j < size →
          ∃ y, roundsTo (tlFmt td) .rne true
              (((List.range size).map (fun k => (if (Nat.digits 2 (Nat.land k j)).sum % 2 = 1 then (-1 : ℚ) else 1) * getD xs (size * g + k) 0)).sum / den) y ∧
            getD (rowCodes c1 td 0 m live) (size * g + j) 0 = y.1 ∧ y.2 ||| fl = fl) ∧
  (∀ c op h t d a b cv ia ta ib tb td te rowsA rowsB, op.op = .mcond h t d a b cv → readsAll op rowsA → getD op.data 3 [] = rowsB →
    op.srcs = [(ia, ta), (ib, tb)] → op.dsts = [(d.toNat, td), (d.toNat + 1, te)] → plainTile c td → plainTile c te →
    (∀ x r y q, r < bits td.w1 0 11 → q < bits te.w1 0 11 → x < bits td.w0 19 16 → y < bits te.w0 19 16 →
      bits td.w0 0 19 + r * bits td.w0 19 16 + x ≠ bits te.w0 0 19 + q * bits te.w0 19 16 + y) →
    rowsA.length ≤ bits td.w1 0 11 → rowsB.length ≤ bits te.w1 0 11 → codesOf (tlFmt td) rowsA → codesOf (tlFmt te) rowsB →
    bits (getTile c d.toNat).w1 22 5 < 16 → bits (getTile c (d.toNat + 1)).w1 22 5 < 16 →
    ∀ ks, 0 < rowsA.length → (∀ r ∈ rowsA ++ rowsB, r.length = ks) →
    let keep := (List.range ks).filter (fun k => rowsA.any (fun r => nonzero (tlFmt ta) (getD r k 0)) && rowsB.any (fun r => nonzero (tlFmt tb) (getD r k 0)))
    let kp := (mtxClass (tlFmt ta) (tlFmt tb) (tb.w1.getLsbD 30)).1
    let k2 := kp * max 1 ((keep.length + kp - 1) / kp)
    (k2 ≤ bits td.w1 11 11 → k2 ≤ bits te.w1 11 11 →
      ∃ c1, opResult c op = .done c1 0 ∧
        (∀ j, getTile c1 j = if j = d.toNat ∨ j = d.toNat + 1 then { getTile c j with st := .ready, live := k2 } else getTile c j) ∧
        ∀ j, j < k2 →
          (∀ m, m < rowsA.length → getD (rowCodes c1 td 0 m k2) j 0 = if j < keep.length then getD (getD rowsA m []) (getD keep j 0) 0 else 0) ∧
          (∀ n, n < rowsB.length → getD (rowCodes c1 te 0 n k2) j 0 = if j < keep.length then getD (getD rowsB n []) (getD keep j 0) 0 else 0)) ∧
    (bits td.w1 11 11 < k2 ∨ bits te.w1 11 11 < k2 → opResult c op = .fail 0x11E op.word (BitVec.ofNat 64 (0x11E * 2 ^ 48 + 3 + d.toNat * 256)))) ∧
  (∀ c op h t d a b cv i ta td rows g emax, op.op = .mqnt h t d a b cv → readsAll op rows → op.srcs = [(i, ta)] → op.dsts = [(d.toNat, td)] →
    (t = .mx8 ∧ g = Fmt.e4m3 ∧ emax = 8 ∨ t = .mx4 ∧ g = .e2m1 ∧ emax = 2) → tlFmt td = t → tileWords 524288 td.w0 td.w1 →
    (let sd := getTile c b.toNat
     bits td.w1 31 6 = b.toNat ∧ tileWords 524288 sd.w0 sd.w1 ∧ bits sd.w1 22 5 = 4 ∧ bits sd.w1 0 11 = bits td.w1 0 11 ∧
       bits sd.w1 11 11 = bits td.w1 11 11 / 32 ∧
     ∀ x r y q, r < bits td.w1 0 11 → q < bits sd.w1 0 11 → x < bits td.w0 19 16 → y < bits sd.w0 19 16 →
      bits td.w0 0 19 + r * bits td.w0 19 16 + x ≠ bits sd.w0 0 19 + q * bits sd.w0 19 16 + y) →
    c.scratch.wf = true → rows.length = bits td.w1 0 11 → bits ta.w1 22 5 < 16 →
    ∀ live, (∀ r ∈ rows, r.length = live) → live % 32 = 0 → live ≤ bits td.w1 11 11 →
    ∃ c1 fl, opResult c op = .done c1 fl ∧ ∀ m k, m < rows.length → 32 * k < live →
      let x := getD (sideBytes c1 td 0 m) k 0
      let code (j : Nat) : Nat := getD (rowCodes c1 td 0 m live) (32 * k + j) 0
      (∀ vs, List.Forall₂ (isNumber (tlFmt ta)) (((getD rows m []).drop (32 * k)).take 32) vs →
        ((∀ v ∈ vs, v = 0) → x = 0) ∧
        (∀ v (e : Int), v ∈ vs → (∀ w ∈ vs, |w| ≤ |v|) → (2 : ℚ) ^ e ≤ |v| → |v| < (2 : ℚ) ^ (e + 1) → (x : Int) = max 0 (min 254 (e - emax + 127))) ∧
        ∀ j v, vs[j]? = some v → v ≠ 0 → ∃ y, roundsTo g .rne true (v * (2 : ℚ) ^ (127 - (x : Int))) y ∧ code j = y.1 ∧ y.2 &&& flNX ||| fl = fl) ∧
      ((∃ z ∈ ((getD rows m []).drop (32 * k)).take 32, ∀ neg e n, decVal (tlFmt ta) z ≠ .fin neg e n) →
        x = 255 ∧ fl &&& flNV = flNV ∧ ∀ j, j < 32 → code j = 0)) ∧
  (∀ c op h t d a b cv i ta td rows mb off, op.op = .mqnt h t d a b cv → readsAll op rows → op.srcs = [(i, ta)] → op.dsts = [(d.toNat, td)] →
    (t = .ds8 ∧ mb = 6 ∧ off = 132 ∨ t = .ds4 ∧ mb = 2 ∧ off = 128) → tlFmt td = t → tileWords 524288 td.w0 td.w1 →
    (let sd := getTile c b.toNat
     bits td.w1 31 6 = b.toNat ∧ tileWords 524288 sd.w0 sd.w1 ∧ bits sd.w1 22 5 = 4 ∧ bits sd.w1 0 11 = bits td.w1 0 11 ∧
       bits sd.w1 11 11 = bits td.w1 11 11 / 24 ∧
     ∀ x r y q, r < bits td.w1 0 11 → q < bits sd.w1 0 11 → x < bits td.w0 19 16 → y < bits sd.w0 19 16 →
      bits td.w0 0 19 + r * bits td.w0 19 16 + x ≠ bits sd.w0 0 19 + q * bits sd.w0 19 16 + y) →
    c.scratch.wf = true → rows.length = bits td.w1 0 11 → bits ta.w1 22 5 < 16 →
    ∀ live, (∀ r ∈ rows, r.length = live) → live % 48 = 0 → live ≤ bits td.w1 11 11 →
    ∃ c1 fl, opResult c op = .done c1 fl ∧ ∀ m k, m < rows.length → 48 * k < live →
      let e (n : Nat) : Nat := getD (sideBytes c1 td 0 m) (2 * k + n) 0
      let code (j : Nat) : Nat := getD (rowCodes c1 td 0 m live) (48 * k + j) 0
      let q := 2 ^ mb - 1
      let scaled (v : ℚ) (x : Nat) : ℚ := |v| * (2 : ℚ) ^ ((off : Int) - x)
      let err (v : ℚ) (n x : Nat) : ℚ := |(|v| - n * (2 : ℚ) ^ ((x : Int) - off))|
      (∀ vs, List.Forall₂ (isNumber (tlFmt ta)) (((getD rows m []).drop (48 * k)).take 48) vs →
        ((∀ v ∈ vs, v = 0) → e 0 = 0) ∧ e 1 = e 0 - 4 ∧
        (∀ v ∈ vs, v ≠ 0 → (∀ w ∈ vs, |w| ≤ |v|) → e 0 ≤ 254 ∧ ((∃ n, nearestNat (scaled v (e 0)) n ∧ n ≤ q) ∨ e 0 = 254) ∧
          ∀ x n, x < e 0 → nearestNat (scaled v x) n → q < n) ∧
        ∀ j v, vs[j]? = some v → ∃ n0 n1, nearestNat (scaled v (e 0)) n0 ∧ nearestNat (scaled v (e 1)) n1 ∧
          let second : Prop := err v (min n1 q) (e 1) < err v (min n0 q) (e 0)
          (second → code j % 2 ^ mb = min n1 q ∧ code j / 2 ^ (mb + 1) = 1 ∧ (err v (min n1 q) (e 1) ≠ 0 → flNX ||| fl = fl)) ∧
          (¬ second → code j % 2 ^ mb = min n0 q ∧ code j / 2 ^ (mb + 1) = 0 ∧ (err v (min n0 q) (e 0) ≠ 0 → flNX ||| fl = fl)) ∧
          (v ≠ 0 → (code j / 2 ^ mb % 2 = 1 ↔ v < 0))) ∧
      ((∃ z ∈ ((getD rows m []).drop (48 * k)).take 48, ∀ neg x n, decVal (tlFmt ta) z ≠ .fin neg x n) →
        e 0 = 255 ∧ e 1 = 255 ∧ fl &&& flNV = flNV ∧ ∀ j, j < 48 → code j = 0))

/-- A row of ROUTE: a NaN or infinite largest score makes every weight NaN in either mode, one expert alone weighs 1, and the experts are taken by
descending key, NaN last, the lower number first among equals (R328). -/
def routeValues : Prop :=
  (∀ sig vs, (∃ v ∈ vs, v.isNan = true) ∨ (∃ v ∈ vs, v = .inf false) ∨ (vs ≠ [] ∧ ∀ v ∈ vs, v = .inf true) →
    routeWeights sig vs = (vs.map (fun _ => 0x7FC00000), flNV)) ∧
  (∀ neg m e, routeWeights false [.fin neg m e] = ([0x3F800000], 0)) ∧
  ∀ sel : List FV, (routeOrder sel).Perm (List.range sel.length) ∧ ∀ i j a b : Nat, i < j → (routeOrder sel)[i]? = some a → (routeOrder sel)[j]? = some b →
    ∀ x y : FV, sel[a]? = some x → sel[b]? = some y →
      (y.isNan = false → x.isNan = false ∧ fvLt x y = false) ∧ ((x.isNan = y.isNan ∧ fvLt y x = false) → a < b)

/-- Rows of MRD, and the images of MXRD and MXADD (R138 to R140, R309, R415). -/
def readOutValues : Prop :=
  (∀ s c k op rest h t d a tk cv td, headGoes s c k op rest → op.phase = .running → getEng s op.id = none →
    (∀ c2 ∈ s.cushions, ∀ o ∈ c2.mq, o.id = op.id → c2 = c ∧ o = op) → (∀ b ∈ s.acks, b.tgt ≠ .matrix op.id) →
    op.op = .mrd h t d a tk cv → op.dsts = [(d.toNat, td)] → tlFmt td = t → op.prog < bits td.w1 0 11 → plainTile c td →
    (op.tag = .x → t = .f64) →
    ∃ t' c', exec (.copyBytesApplied op.id) s = .next t' ∧ getCush t' c.cid = some c' ∧ t'.mem = s.mem ∧ (c'.mq.head?).map (·.prog) = some (op.prog + 1) ∧
      (∀ j, getTk c' j = if j = tk.toNat then getTk c j - (bits td.w1 11 11 * fmtBits t + 7) / 8 else getTk c j) ∧
      (∀ n, n < bits td.w1 11 11 → convertsTo c op a.toNat t op.prog n (getD (rowCodes c' td 0 op.prog (bits td.w1 11 11)) n 0)) ∧
      ∀ j, getTile c' j =
        if op.prog + 1 = bits td.w1 0 11 then withSide c d.toNat (fun u => { u with st := .ready, live := bits td.w1 11 11 }) j else getTile c j) ∧
  (∀ s c k op rest h a b cv as, headGoes s c k op rest → op.phase = .running → opHeld s c.cid op.id = false → op.op = .mxrd h a b cv → op.prog = 0 →
    accParts op.gpair 35328 = [(op.gpair, 35328)] → dieGoesTo s (c.core / 48) k.asid op.gpair 35328 true = some as →
    ∃ t, exec (.matrixOpStart c.cid) s = .next t ∧ t.mem = s.mem ∧
      ∀ j n, j < 64 → n < 552 → sentTo t (getD as (552 * j + n) 0) (imgByte (pairLong c a.toNat j) n)) ∧
  (∀ (c : Cushion) (op : MatOp) h d a cv (b : Nat → LongAcc), op.op = .mxadd h d a cv → op.outstanding = 0 → op.added = 0 → op.prog = (accParts op.gpair 35328).length →
    (∀ j, longSound (b j)) → (∀ j, longSound (pairLong c d.toNat j)) → (∀ j, (b j).wrap.natAbs + (pairLong c d.toNat j).wrap.natAbs < 32766) →
    (∀ j n, j < 64 → n < 552 → (op.image.find? (fun x => x.1 == 552 * j + n)).map (·.2) = some (imgByte (b j) n)) →
    ∃ c1, opResult c op = .done c1 0 ∧ onlyAccs c [d.toNat, d.toNat + 1] c1 ∧ ∀ j, j < 64 →
      let x := pairLong c d.toNat j
      let y := pairLong c1 d.toNat j
      let sum := x.l + (b j).l
      let w : Int := if 2 ^ 4351 ≤ sum then 1 else if sum < -(2 ^ 4351) then -1 else 0
      y.l = sum - w * 2 ^ 4352 ∧ y.wrap = x.wrap + w + (b j).wrap ∧ (y.nan, y.pinf, y.ninf) = (x.nan || (b j).nan, x.pinf || (b j).pinf, x.ninf || (b j).ninf)) ∧
  (∀ (c : Cushion) (op : MatOp) h d a cv j, op.op = .mxadd h d a cv → op.outstanding = 0 → op.added = 0 → op.prog = (accParts op.gpair 35328).length → j < 64 →
    (let st (i n : Nat) : Nat := (((op.image.find? (fun (x : Nat × Byte) => x.1 == 552 * i + 544 + n)).map (fun (x : Nat × Byte) => x.2)).getD 0).toNat
     let bad (i : Nat) : Prop := 8 ≤ st i 0 ∨ st i 1 ≠ 0 ∨ st i 4 ≠ 0 ∨ st i 5 ≠ 0 ∨ st i 6 ≠ 0 ∨ st i 7 ≠ 0
     bad j ∧ ∀ i, i < j → ¬ bad i) →
    opResult c op = .fail 0x305 (op.gpair + BitVec.ofNat 64 (552 * j)) (BitVec.ofNat 64 j))

end Sys2Proof.Stmt

open Sys2Proof Sys2Proof.Machine Sys2Proof.Safety Sys2Proof.Stmt

/-- Power goes to the oldest request while the pool has it, and comes back after 256 idle cycles. A matrix operation starts when its tiles allow it,
reads its sources (MMAG its panels before the rows of A end), and writes its result. The values that the rules give are stated of MMA and MMAG over
numbers, of MHAD over groups of 16 and 64, of MCOND, of MQNT, of MRD except into block formats, of MXRD and of MXADD (R131 to R140, R304, R306 to
R309); of ROUTE the order of its experts and its NaN rows (R328). MHAD over groups of 32, the exponentials of ROUTE and the decoding of an Unfurl
block are not restated: of those the statement says where the values go that the definitions opResult, routeWrites and unfurlBlock give. A copy or
ROUTE reads its descriptor, which is checked and replaces the hold by the byte count; its pieces count down as they are applied, and the last one
makes the tiles READY or EMPTY; an acknowledgement with no way from its die has not come. The Unfurl decoder checks a header when it has come and
its table before the payload is asked for, and puts the bytes of a block in scratch or ends the carpet, and ROUTE sends its outputs home (R14, R236,
R237, R297, R300, R301, R303, R305, R316, R318 to R324, R327 to R330, R385, R412 to R415, R421). -/
def Obligations.PowerIsGrantedAndEnginesRun : Prop :=
  productValues ∧ tileValues ∧ readOutValues ∧ routeValues ∧
  (∀ s p, p ∈ s.power → MemCanon s →
    let core (q : PowerReq) : Nat := ((getCush s q.cush).map (·.core)).getD 0
    (∀ q ∈ s.power, q ≠ p → p.cycle < q.cycle ∨ p.cycle = q.cycle ∧ core p < core q) →
    let used := ctlF s offPWPOOL 16 16
    let size := ((cycNow s).pool).getD (ctlF s offPWPOOL 0 16)
    (used + p.amount ≤ size → used + p.amount < 2 ^ 16 →
      ∃ t, exec .powerGrant s = .next t ∧ t.power = s.power.erase p ∧ ctlF t offPWPOOL 16 16 = used + p.amount ∧
      (∀ c, getCush s p.cush = some c → ∃ c', onlyCush s p.cush c' t ∧ c'.grant = c.grant + p.amount ∧
        { c' with grant := 0, mq := [] } = { c with grant := 0, mq := [] } ∧
        c'.mq.map (fun o => { o with began := 0, steps := 0 }) = c.mq.map (fun o => { o with began := 0, steps := 0 }))) ∧
    (size < used + p.amount → exec .powerGrant s = .next s)) ∧
  (∀ s c, getCush s c.cid = some c → MemCanon s →
    (c.mq = [] → 0 < c.grant → c.mlast + 256 ≤ s.clock →
      ∃ t, exec (.powerGrantReturn c.cid) s = .next t ∧ ctlF t offPWPOOL 16 16 = ctlF s offPWPOOL 16 16 - c.grant ∧
        onlyCush s c.cid { c with grant := 0 } t) ∧
    (c.mq ≠ [] ∨ c.grant = 0 ∨ s.clock < c.mlast + 256 → exec (.powerGrantReturn c.cid) s = .next s)) ∧
  (∀ s c k op rest, headGoes s c k op rest → op.phase = .queued → (∀ p ∈ op.srcs, tileIs c p.1 .ready) → (∀ p ∈ op.dsts, tileIs c p.1 .empty) →
    (∀ b, op.barrier = some b → (∀ w ∈ s.wbs, w.1 = c.core → b ≤ w.2) ∧ storesBefore s c.cid b = false) → opHeld s c.cid op.id = false →
    (∀ h a g cv, op.op ≠ .mxrd h a g cv ∧ op.op ≠ .mxadd h a g cv) →
    (startBad c k.ker op = none → c.bad = [] →
      ∃ t c', exec (.matrixOpStart c.cid) s = .next t ∧ onlyCush s c.cid c' t ∧
        (c'.mq.head?).map (fun o => (o.id, o.op, o.phase)) = some (op.id, op.op, .running) ∧ c'.mq.length = c.mq.length ∧ c'.mlast = s.clock ∧
        (c'.scratch, c'.accs, c'.tks, c'.panel, c'.fsr) = (c.scratch, c.accs, c.tks, c.panel, c.fsr) ∧
        (∀ p ∈ op.dsts, (getTile c' p.1).st = .filling ∧ (getTile c' p.1).wclaim = false) ∧
        ∀ j, (∀ p ∈ op.dsts, j ≠ p.1 ∧ j ≠ bits (getTile c p.1).w1 31 6) → getTile c' j = getTile c j) ∧
    (∀ r, startBad c k.ker op = some r →
      ∃ t, exec (.matrixOpStart c.cid) s = .next t ∧
        EngineEnds s c.carpet 0x11E op.pc op.word (BitVec.ofNat 64 (0x11E * 2 ^ 48 + (r.1 + r.2 * 256) % 2 ^ 48)) t) ∧
    (∀ h x o d a cv p, op.op = .mma h x o d a cv → (getTile c a.toNat).st = .ready → c.panel = some p → (getTile c a.toNat).live ≠ p.k →
      ∃ t, exec (.matrixOpStart c.cid) s = .next t ∧
        EngineEnds s c.carpet 0x11E op.pc op.word (BitVec.ofNat 64 (0x11E * 2 ^ 48 + 2 + a.toNat * 256)) t)) ∧
  (∀ s c op rest, getCush s c.cid = some c →
    (c.mq = [] ∨ c.mq = op :: rest ∧ (op.phase = .read ∨ c.grant < op.cost ∨ opHeld s c.cid op.id = true ∨
      op.phase ≠ .queued ∧ (∀ h a g cv, op.op ≠ .mxrd h a g cv ∧ op.op ≠ .mxadd h a g cv) ∨
      op.phase = .queued ∧ ((∃ p ∈ op.srcs, ¬ tileIs c p.1 .ready) ∨ ∃ p ∈ op.dsts, ¬ tileIs c p.1 .empty))) →
    exec (.matrixOpStart c.cid) s = .next s) ∧
  (∀ s c k op rest j i t0, headGoes s c k op rest → op.phase = .running → op.data.length = 1 + 2 * j → op.srcs[j]? = some (i, t0) →
    (∀ h x o d a b cv, op.op ≠ .mmag h x o d a b cv) → (16 ≤ bits (getTile c i).w1 22 5 → bits (getTile c i).w1 31 6 ≠ i) →
    c.bad = [] →
    ∃ t c', exec (.matrixSourceReadDone c.cid) s = .next t ∧ onlyCush s c.cid c' t ∧
      { c' with mq := [], tiles := [] } = { c with mq := [], tiles := [] } ∧ c'.mq.length = c.mq.length ∧ sourceLeft c i c' ∧
      ∃ o, c'.mq.head? = some o ∧ o.phase = (if j + 1 = op.srcs.length then .read else .running) ∧
        o.data = op.data ++ [(List.range (bits t0.w1 0 11)).map (fun r => rowCodes c t0 0 r (getTile c i).live),
                             (List.range (bits t0.w1 0 11)).map (fun r => sideBytes c t0 0 r)]) ∧
  (∀ s c k op rest h x v d at_ b cv a ta w tw, headGoes s c k op rest → op.op = .mmag h x v d at_ b cv → op.srcs = [(a, ta), (w, tw)] → op.phase = .running →
    c.bad = [] →
    (op.data.length = 1 → (16 ≤ bits (getTile c w).w1 22 5 → bits (getTile c w).w1 31 6 ≠ w) →
      ∃ t c', exec (.matrixSourceReadDone c.cid) s = .next t ∧ onlyCush s c.cid c' t ∧
        { c' with mq := [], tiles := [] } = { c with mq := [], tiles := [] } ∧ c'.mq.length = c.mq.length ∧ sourceLeft c w c' ∧
        ∃ o, c'.mq.head? = some o ∧ o.phase = .running ∧ o.data.head? = op.data.head? ∧
          ∀ r g, r < bits ta.w1 0 11 → mmagGroup (getD (getD op.data 0 []) 0 []) (bits op.gpair 19 11) (bits op.gpair 36 12) r = some g →
            ∃ p, o.panels[g]? = some p ∧ p.n = bits tw.w1 0 11 ∧ p.k = (getTile c w).live ∧
              p.rows = (List.range (bits tw.w1 0 11)).map (fun r => rowCodes c tw g r (getTile c w).live) ∧
              p.side = (List.range (bits tw.w1 0 11)).map (fun r => sideBytes c tw g r)) ∧
    (op.data.length = 3 → (16 ≤ bits (getTile c a).w1 22 5 → bits (getTile c a).w1 31 6 ≠ a) →
      ∃ t c', exec (.matrixSourceReadDone c.cid) s = .next t ∧ onlyCush s c.cid c' t ∧
        { c' with mq := [], tiles := [] } = { c with mq := [], tiles := [] } ∧ c'.mq.length = c.mq.length ∧ sourceLeft c a c' ∧
        ∃ o, c'.mq.head? = some o ∧ o.phase = .read ∧ o.panels = op.panels ∧
          getD o.data 1 [] = (List.range (bits ta.w1 0 11)).map (fun r => rowCodes c ta 0 r (getTile c a).live) ∧
          getD o.data 2 [] = (List.range (bits ta.w1 0 11)).map (fun r => sideBytes c ta 0 r))) ∧
  (∀ s c k op rest, headGoes s c k op rest → op.phase ≠ .queued →
    (∀ c1 fl, opResult c op = .done c1 fl →
      ∃ t c', exec (.matrixOpComplete c.cid) s = .next t ∧ onlyCush s c.cid c' t ∧ (c'.mq, c'.mdone, c'.mlast) = (rest, c1.mdone + 1#32, s.clock) ∧
        (c'.scratch, c'.accs, c'.tiles, c'.panel, c'.tks, c'.fsr) = (c1.scratch, c1.accs, c1.tiles, c1.panel, c1.tks, c1.fsr ||| fl) ∧
        ∀ n m, rest = n :: m → n.cost ≤ c1.grant → t.power = s.power) ∧
    (∀ h x a cv i t0 more, op.op = .mwld h x a cv → op.phase = .read → op.srcs = (i, t0) :: more →
      ∃ t c' p, exec (.matrixOpComplete c.cid) s = .next t ∧ onlyCush s c.cid c' t ∧ c'.panel = some p ∧ p.rows = getD op.data 1 [] ∧
        p.side = getD op.data 2 [] ∧ p.n = bits t0.w1 0 11 ∧ p.k = ((p.rows.head?).map (·.length)).getD 0 ∧ p.xact = t0.w1.getLsbD 30 ∧
        (c'.scratch, c'.accs, c'.tiles, c'.mdone, c'.mq) = (c.scratch, c.accs, c.tiles, c.mdone + 1#32, rest)) ∧
    (∀ h d cv, op.op = .mzero h d cv →
      ∃ t c', exec (.matrixOpComplete c.cid) s = .next t ∧ onlyCush s c.cid c' t ∧ (c'.scratch, c'.tiles, c'.mdone, c'.mq) = (c.scratch, c.tiles, c.mdone + 1#32, rest) ∧
        ∀ j, let inPair := (op.tag = .f64 ∨ op.tag = .x) ∧ j / 2 = d.toNat / 2
          (getAcc c' j).tag = (getAcc c j).tag ∧ (inPair ∨ j = d.toNat → (getAcc c' j).elems = [] ∧ (getAcc c' j).longs = []) ∧
          (¬ inPair → j ≠ d.toNat → getAcc c' j = getAcc c j)) ∧
    (∀ syn w3 w4, opResult c op = .fail syn w3 w4 → ∃ t, exec (.matrixOpComplete c.cid) s = .next t ∧ EngineEnds s c.carpet syn op.pc w3 w4 t) ∧
    (opResult c op = .wait → exec (.matrixOpComplete c.cid) s = .next s)) ∧
  (∀ s o c k, engGoes s o c k → o.stalled = false →
    (o.kind = .route → (s.engines.find? (fun e => e.kind == .route && e.die == o.die)).map (·.id) = some o.id) →
    let n := if o.kind = .route then 64 else 32
    let d := bufBytes o 0 n
    let i := if o.kind = .cpySt then o.src else o.dst
    (o.phase = .issued → o.kind ≠ .cpyTt →
      (o.b.toNat % n ≠ 0 → ∃ t, exec (.copyDescriptorRead o.id) s = .next t ∧
        EngineEnds s o.carpet (if o.kind = .route then 0x302 else 0x300) o.pc o.b 0 t) ∧
      (∀ as, o.b.toNat % n = 0 → o.todo = [] → dieGoesTo s o.die o.asid o.b n false = some as →
        ∃ t, exec (.copyDescriptorRead o.id) s = .next t ∧ (getEng t o.id).map (·.phase) = some .descRead ∧ t.fibres = s.fibres ∧ t.mem = s.mem ∧
          ∀ j, j < n → askedFor t (getD as j 0) j)) ∧
    (o.phase = .issued → o.kind = .cpyTt →
      let total := bits (getTile c o.src).w1 0 11 * rowCount c o
      getTk c o.tok + total - 1 ≤ 0xFFFFFFFF →
      ∃ t, exec (.copyDescriptorRead o.id) s = .next t ∧ CountedAs o c total t ∧ bytesStay s t) ∧
    (o.phase = .descRead → allCome o → o.kind ≠ .cpyTt →
      (∀ r, o.kind ≠ .route → strideBad o.kind (getTile c i) d = some r →
        ∃ t, exec (.copyDescriptorRead o.id) s = .next t ∧ EngineEnds s o.carpet 0x300 o.pc o.b (BitVec.ofNat 64 r) t) ∧
      (o.kind ≠ .route → o.kind ≠ .cpy → strideBad o.kind (getTile c i) d = none → tileOutside c k.ker.scratch i (sdCount d) = false →
        let total := bits (getTile c i).w1 0 11 * (sdCount d + 1) * rowCount c { o with desc := d }
        getTk c o.tok + total - 1 ≤ 0xFFFFFFFF → ∃ t, exec (.copyDescriptorRead o.id) s = .next t ∧ CountedAs o c total t ∧ bytesStay s t) ∧
      (∀ r, o.kind = .route → routeBad d = some r →
        ∃ t, exec (.copyDescriptorRead o.id) s = .next t ∧ EngineEnds s o.carpet 0x302 o.pc o.b (BitVec.ofNat 64 r) t) ∧
      (o.kind = .route → routeBad d = none →
        let total := 12 * rdRows d * rdK d + 8 * rdExperts d + 4
        getTk c o.tok + total - 1 ≤ 0xFFFFFFFF → ∃ t, exec (.copyDescriptorRead o.id) s = .next t ∧ CountedAs o c total t ∧ bytesStay s t))) ∧
  (∀ s o c k, engGoes s o c k →
    (∀ a n, o.kind = .cpy → ackOf s o.id n a →
      (n < o.left → ∃ t c', exec (.copyBytesApplied o.id) s = .next t ∧ t.acks = s.acks.filter (fun b => b.id != a.id) ∧
        getEng t o.id = some { o with want := o.want - 1, left := o.left - n } ∧ getCush t o.cush = some c' ∧ t.mem = s.mem ∧
        ∀ j, getTk c' j = if j = o.tok then getTk c j - n else getTk c j) ∧
      (o.left ≤ n → exec (.copyBytesApplied o.id) s = .next s)) ∧
    (o.kind = .cpy → o.todo = [] → (∀ a ∈ s.acks, ∀ n, a.tgt = .engine o.id n → ¬ comesTo s a.die o.core) → exec (.copyBytesApplied o.id) s = .next s) ∧
    (o.kind = .cpyLd → o.phase = .running → o.busy = true → allCome o → rowBatch c o * rowCount c o < o.left → c.scratch.wf = true →
      let td := getTile c o.dst
      let rows := bits td.w1 0 11
      let n := rowBatch c o * rowCount c o
      ∃ t c', exec (.copyBytesApplied o.id) s = .next t ∧ (getEng t o.id).map (fun e => (e.left, e.row)) = some (o.left - n, o.row + rowBatch c o) ∧
        getCush t o.cush = some c' ∧ (∀ j, getTk c' j = if j = o.tok then getTk c j - n else getTk c j) ∧ c'.tiles = c.tiles ∧
        (rowBatch c o = 1 → sdFmt o.desc = tlFmt td → bits td.w1 22 5 < 16 → ∀ b, b < rawSpan td →
          memRead c'.scratch (tlOff td (o.row / rows) (o.row % rows) b) = bufByte o b))) ∧
  (∀ s o c k, engGoes s o c k → o.phase = .running → lastPiece s c o →
    ∃ t c', exec (.copyComplete o.id) s = .next t ∧ getEng t o.id = none ∧ (∀ n, n ≠ o.id → getEng t n = getEng s n) ∧ t.mem = s.mem ∧
      getCush t o.cush = some c' ∧ (∀ j, getTk c' j = if j = o.tok then getTk c j - o.left else getTk c j) ∧
      (o.kind = .cpyLd ∨ o.kind = .cpyd → ∀ j, getTile c' j = withSide c o.dst (fun u => { u with st := .ready, live := bits u.w1 11 11 }) j) ∧
      (o.kind = .cpySt → ∀ j, getTile c' j = withSide c o.src (fun u => { u with st := .empty }) j) ∧
      (o.kind = .cpyTt → (getTile c' o.src).st = .empty) ∧ (o.kind = .cpy ∨ o.kind = .route → c'.tiles = c.tiles)) ∧
  (∀ s n p id off bs o c, s.replies[n]? = some p → p.what = .bytes (.engine id off) bs → getEng s id = some o → getCush s o.cush = some c → o.want = 1 →
    o.todo = [] → o.kind = .cpyd → o.phase = .running → o.busy = true → o.fails = none →
    let o1 := { o with want := 0, buf := o.buf ++ bs }
    (∀ r, o.header = false → headerReason (bits (getTile c o.dst).w1 22 5) o1 = some r →
      ∃ t, exec (.engineReadReply n) s = .next t ∧ getEng t id = some { o1 with header := true, fails := some r } ∧ bytesStay s t) ∧
    (o.header = true → o.table = true → 2 ^ 15 < (((List.range 128).flatMap (fun i => [(bufByte o1 (16 + i)).toNat % 16, (bufByte o1 (16 + i)).toNat / 16])).map
        (fun l => if l = 0 then 0 else 2 ^ (15 - l))).sum →
      ∃ t, exec (.engineReadReply n) s = .next t ∧ getEng t id = some { o1 with table := false, fails := some 4 } ∧ bytesStay s t)) ∧
  (∀ s die o c k, die < 8 → decoderNext s die = some o → engGoes s o c k →
    (∀ r, o.fails = some r → ∃ t, exec (.unfurlBlockDecode die) s = .next t ∧
      EngineEnds s o.carpet 0x301 o.pc o.nextBlk (BitVec.ofNat 64 (r + o.blkIdx % 2 ^ 16 * 2 ^ 16)) t) ∧
    (o.fails = none → let lens := if ufShared o then o.lens else lensOf (bufBytes o 16 128)
      (∀ bs r crc, unfurlBlock o lens = (bs, some (r, crc)) → ∃ t, exec (.unfurlBlockDecode die) s = .next t ∧
        EngineEnds s o.carpet 0x301 o.pc o.nextBlk (BitVec.ofNat 64 (r + o.blkIdx % 2 ^ 16 * 2 ^ 16 + crc * 2 ^ 32)) t) ∧
      ∀ bs, unfurlBlock o lens = (bs, none) → ∃ t c', exec (.unfurlBlockDecode die) s = .next t ∧ getCush t o.cush = some c' ∧ bytesStay s t ∧
        c'.scratch = memWriteAll c.scratch ((List.range bs.length).map (fun p => (streamAt c (getTile c o.dst) (o.stream + p), getD bs p 0))) ∧
        (c'.tiles, c'.tks) = (c.tiles, c.tks) ∧
        (getEng t o.id).map (fun e => (e.stream, e.uncounted, e.blkIdx, e.nextBlk.toNat)) =
          some (o.stream + bs.length, o.uncounted + bs.length, o.blkIdx + 1, (o.nextBlk.toNat + ufHead o + ufCcount o + 15) / 16 * 16 % 2 ^ 64))) ∧
  (∀ s die o c k, die < 8 → s.engines.find? (fun e => e.kind == .route && e.die == die) = some o → engGoes s o c k → o.phase = .running →
    o.busy = false → allCome o →
    let w := routeWrites o
    (∀ it ∈ w.1, (dieGoesTo s o.die o.asid it.va it.n true).isSome = true) →
    ∃ t c', exec (.routeRun die) s = .next t ∧ (getEng t o.id).map (·.busy) = some true ∧ t.mem = s.mem ∧ t.fibres = s.fibres ∧
      getCush t o.cush = some c' ∧ { c' with fsr := 0, fsrNew := none } = { c with fsr := 0, fsrNew := none } ∧ c'.fsr = c.fsr ||| w.2 ∧
      ∀ it ∈ w.1, ∀ as, dieGoesTo s o.die o.asid it.va it.n true = some as → ∀ j v, it.data[j]? = some v → sentTo t (getD as j 0) v)

namespace Sys2Proof.Stmt

open Sys2Proof.Machine Sys2Proof.Safety

/-! ## Control space, crust regions, contexts, host (R5, R13, R19 to R22, R59, R200, R201, R211, R217, R218, R221, R334, R348 to R350, R369, R425, R443) -/

/-- A write of 8 bytes. -/
def wr8 (off : Nat) (v : DWord) : CtlWrite := { off, bytes := 8, value := v }

/-- Only these control registers change, and nothing else of the package. -/
def CtlOnly (s : State) (offs : List Nat) (t : State) : Prop :=
  { t with ctl := [] } = { s with ctl := [] } ∧ ∀ o, o ∉ offs → ctlW t o = ctlW s o

/-- The fields of a register take the bits of a word; its other bits stay (R5). -/
def FieldsTake (s : State) (off : Nat) (fs : List (Nat × Nat)) (v : DWord) (t : State) : Prop :=
  ∀ i, i < 64 → (ctlW t off).getLsbD i = if fs.any (fun f => decide (f.1 ≤ i ∧ i < f.1 + f.2)) then v.getLsbD i else (ctlW s off).getLsbD i

/-- A core holds a cushion (R59). -/
def holdsCushion (s : State) (core : Nat) : Prop := ∃ c ∈ s.cushions, c.core = core ∧ c.saved = false

/-- A context has carpets (R200, R348). -/
def hasCarpet (s : State) (asid : Nat) : Prop := ∃ k ∈ s.carpets, k.asid = asid ∧ k.gone = false

/-- A launch queue may be armed: its tail is a MAXN32 cell of an active region, its ring aligned and canonical (R334). -/
def mayArm (s : State) (asid q : Nat) : Prop :=
  let ring := ctlW s (offLQ asid q + 8)
  let tail := ctlW s (offLQ asid q + 0x10)
  (∃ g, regionOf s asid tail = some g ∧ ctlF s (offCRTAB asid g) 3 4 = 0) ∧ tail.toNat % 4 = 0 ∧ ring.toNat % 128 = 0 ∧ canonicalVA ring = true

/-- The last waiting record is a device record of this syndrome, W3 and W4 (R369, R375). -/
def deviceRecord (t : State) (syn : Nat) (w3 w4 : DWord) : Prop :=
  (t.queued.getLast?).map (fun q => (q.queue, q.rec_.cls, q.rec_.syn, q.rec_.w3, q.rec_.w4)) = some (16, 3, syn, w3, w4)

/-- An access of n bytes from an address used a translation that the invalidation `am` of the page matches: its context in the low four bits of
`am`, then its mode, then the level of the page (R217). -/
def usedMatching (am : Nat) (page : DWord) (asid : Nat) (va : DWord) (n : Nat) : Prop :=
  let size := 2 ^ pageBits (am / 64)
  match am / 16 % 4 with
  | 0 => asid = am % 16 ∧ va.toNat < page.toNat / size * size + size ∧ page.toNat / size * size < va.toNat + n
  | 1 => asid = am % 16
  | _ => True

/-- A request used a translation that the invalidation matches: that of its address, or of a page of the accesses that go together in it. -/
def requestMatches (am : Nat) (page : DWord) (r : Req) : Prop :=
  if r.pages = [] then usedMatching am page r.asid r.va (match r.op with | .read (.matrix _ _) _ | .write (.matrix _) _ => 1 | _ => 16)
  else ∃ p ∈ r.pages, usedMatching am page r.asid p 65536

/-- An access translated before the invalidation that used a matching translation still waits: at its home, at another package, held at its core, or
at an engine for those it goes with (R217). -/
def oldAccessWaits (s : State) (seq am : Nat) (page : DWord) : Prop :=
  (∃ r ∈ s.reqs, r.xlated < seq ∧ r.carpet ≠ 0 ∧ requestMatches am page r) ∨
  (∃ r ∈ s.remote, r.2.xlated < seq ∧ requestMatches am page r.2) ∨
  (∃ h ∈ s.held, h.id < seq ∧ usedMatching am page (((getCush s h.cush).map (fun c => asidOf s c.carpet)).getD 0) h.va 16) ∨
  ∃ o ∈ s.engines, ∃ b ∈ o.stage, b.2.2 < seq ∧ usedMatching am page o.asid b.2.1 1

/-- An address that an invalidation covers, by its mode: one page, a context, all (R217). -/
def invalidated (mode asid : Nat) (va : DWord) (x : Xlat) : Prop :=
  match mode with
  | 0 => x.asid = asid ∧ va.toNat / 2 ^ pageBits x.level = x.base / 2 ^ pageBits x.level
  | 1 => x.asid = asid
  | _ => True

/-- The host reaches the package through this bridge (R18, R424). -/
def hostReaches (s : State) : Prop := ctlB s offLKBRIDGE 4 = true ∧ s.hostUp = true ∧ s.running = true

/-- The package's number in its group (R12). -/
def member (s : State) : Nat := ctlF s offPKGID 0 12 % 16

/-- BRWIN names physical bytes of this package, n from address a (R20). -/
def hostBytes (s : State) (off n a : Nat) : Prop :=
  off + n ≤ 2 ^ 34 ∧ 0 < n ∧ ctlF s offBRWIN 0 4 = member s ∧ ctlB s offBRWIN 8 = true ∧ a = ctlF s offBRWIN 30 27 * 2 ^ 30 + off ∧ a + n ≤ 2 ^ 39

/-- An access received through BAR 2, with the window as BRWIN places it when it is received (R20). -/
def received (s : State) (off n : Nat) (data : Option (List Byte)) : BarAcc :=
  { addr := BitVec.ofNat 64 (ctlF s offBRWIN 30 27 * 2 ^ 30 + off), member := ctlF s offBRWIN 0 4, asid := ctlF s offBRWIN 4 4, phys := ctlB s offBRWIN 8
    bytes := n, write := data }

/-- Operations of a context's matrix queue that stand where a suspension stops them: none, or one not yet begun (R312, R349). -/
def queueStands (c : Cushion) : Prop := ∀ op rest, c.mq = op :: rest → op.phase = .queued

end Sys2Proof.Stmt

open Sys2Proof Sys2Proof.Machine Sys2Proof.Safety Sys2Proof.Stmt

/-- Writes and reads of the control space: fields take what is written, W1C bits clear, read-only registers and unassigned offsets do nothing, RC
fields clear when read; PWPOOL clamps, BRGSEL sends held interrupts again, USCFG and CRPART write back first, XLINV_C drops translations and stays
busy until old walks and requests are gone, launch queues arm, fault queues open. Crust regions become active, are loaded and retire. A context is
suspended, saved or the suspension abandoned, and resumed. The host reads and writes bytes and registers through BAR 2 and BAR 4, and a bridge takes
interrupt messages. The model's choices in it: a BAR 2 access that must wait stands in a list and changes nothing else (log entry 16); the 384 in
the hash for messages without a requesting core, and an interrupt message that is lost without a route (log entry 22); a USCFG write that replaces
an earlier resize (log entry 29); reason 4 for a BAR 2 access without a route (log entry 32); that memory stays as it is when a context becomes
suspended, the spill area being no memory of the model's (log entry 17); and that the fibres stay as they are when an L1 has its new size, an away
window that it covers among them (log entry 38) (R5, R6, R13, R14, R19 to R22, R59, R200, R201, R211, R217, R218, R221, R334, R348 to R350, R369,
R417, R424, R425, R443). -/
def Obligations.ControlSpaceRegionsContextsAndHost : Prop :=
  (∀ s w, cregAt (w.off / 8 * 8) = none ∨ (w.bytes ≠ 4 ∧ w.bytes ≠ 8) ∨ w.off % w.bytes ≠ 0 → exec (.registerWrite w) s = .next s) ∧
  (∀ s v, MemCanon s →
    (∃ t, exec (.registerWrite (wr8 0x7000 v)) s = .next t ∧ CtlOnly s [0x7000] t ∧ ctlW t 0x7000 = v) ∧
    (∃ t, exec (.registerWrite { off := 0x7004, bytes := 4, value := v }) s = .next t ∧ CtlOnly s [0x7000] t ∧
      ctlW t 0x7000 = (ctlW s 0x7000 &&& 0xFFFFFFFF#64) ||| (v <<< 32)) ∧
    (∃ t, exec (.registerWrite (wr8 0x1008 v)) s = .next t ∧ CtlOnly s [0x1008] t ∧ ctlW t 0x1008 = ctlW s 0x1008 &&& ~~~(v &&& 3#64)) ∧
    (∀ off, off ∈ [0x100, 0x200, 0x32008] → exec (.registerWrite (wr8 off v)) s = .next s) ∧
    (∀ c, c < 384 →
      let waits := holdsCushion s c ∨ ∃ f ∈ s.fibres, f.core = c ∧ f.status ≠ .resident ∧ f.saved = false
      (waits → exec (.registerWrite (wr8 (offVLTCFG c) v)) s = .next s) ∧
      (¬ waits → ∃ t, exec (.registerWrite (wr8 (offVLTCFG c) v)) s = .next t ∧ CtlOnly s [offVLTCFG c] t ∧ ctlF t (offVLTCFG c) 0 4 = max 1 (bits v 0 4))) ∧
    (∀ d e, d < 8 → e < 16 → ∃ t, exec (.registerWrite (wr8 (offEXSCHED d e) v)) s = .next t ∧ CtlOnly s [offEXSCHED d e] t ∧
      ctlF t (offEXSCHED d e) 24 16 = max 1 (bits v 24 16) ∧ ctlF t (offEXSCHED d e) 40 16 = bits v 40 16 % max 1 (bits v 24 16) ∧
      ctlF t (offEXSCHED d e) 0 5 = bits v 0 5 ∧ ctlF t (offEXSCHED d e) 8 12 = bits v 8 12) ∧
    (∀ a, a < 16 →
      (hasCarpet s a → exec (.registerWrite (wr8 (offCTXMEM a) v)) s = .next s ∧ exec (.registerWrite (wr8 (offCTXMEM a + 8) v)) s = .next s) ∧
      (¬ hasCarpet s a →
        (∃ t, exec (.registerWrite (wr8 (offCTXMEM a) v)) s = .next t ∧ CtlOnly s [offCTXMEM a] t ∧ FieldsTake s (offCTXMEM a) [(0, 1), (12, 27)] v t) ∧
        (∃ t, exec (.registerWrite (wr8 (offCTXMEM a + 8) v)) s = .next t ∧ CtlOnly s [offCTXMEM a + 8] t ∧ FieldsTake s (offCTXMEM a + 8) [(22, 42)] v t))) ∧
    (∃ t, exec (.registerWrite (wr8 offWDCFG v)) s = .next t ∧ CtlOnly s [offWDCFG] t ∧ ctlF t offWDCFG 0 16 = max 1 (bits v 0 16) ∧
      ctlF t offWDCFG 16 16 = max 1 (bits v 16 16)) ∧
    (∃ t, exec (.rcFieldRead 0x7000 8) s = .next t ∧ { t with ctl := [], hostData := [] } = { s with ctl := [], hostData := [] } ∧
      (∀ o, ctlW t o = ctlW s o) ∧ t.hostData = leBytes 8 (ctlW s 0x7000).toNat) ∧
    (∀ p, p < 16 → ∃ t u, exec (.rcFieldRead (offLKSTAT p) 8) s = .next t ∧ { t with ctl := [], hostData := [] } = { s with ctl := [], hostData := [] } ∧
      (∀ o, o ≠ offLKSTAT p → ctlW t o = ctlW s o) ∧ ctlW t (offLKSTAT p) = ctlW s (offLKSTAT p) &&& ~~~(0xFFFF0000#64) ∧
      t.hostData = leBytes 8 (u : DWord).toNat ∧ ∀ i, i < 64 → u.getLsbD i =
        if i = 3 then false else if i = 2 then decide (bridgePort s = some p) else (ctlW s (offLKSTAT p)).getLsbD i) ∧
    (∀ off n, cregAt (off / 8 * 8) = none → exec (.rcFieldRead off n) s = .next { s with hostData := leBytes n 0 }) ∧
    (∃ t, exec (.pwpoolWrite (wr8 0x1000 v)) s = .next t ∧ CtlOnly { s with cyc := t.cyc } [0x1000, 0x1008] t ∧
      t.cyc.cycle = s.clock ∧ t.cyc.pool = some (if s.cyc.cycle = s.clock then s.cyc.pool.getD (ctlF s 0x1000 0 16) else ctlF s 0x1000 0 16) ∧
      let n := max 48 (min 768 (bits v 0 16))
      ctlF t 0x1000 0 16 = n ∧ ctlF t 0x1000 16 16 = ctlF s 0x1000 16 16 ∧
        ctlW t 0x1008 = if n < ctlF s 0x1000 16 16 then ctlW s 0x1008 ||| 1#64 else ctlW s 0x1008) ∧
    (∃ t, exec (.brwinWrite (wr8 0x300 v)) s = .next t ∧ CtlOnly s [0x300] t ∧ FieldsTake s 0x300 [(0, 4), (4, 4), (8, 1), (30, 27)] v t) ∧
    (s.irqHeld = [] → ∃ t, exec (.brgselWrite (wr8 0x208 v)) s = .next t ∧ CtlOnly s [0x208] t ∧ FieldsTake s 0x208 [(0, 4), (4, 1)] v t) ∧
    (∀ m x, s.irqHeld = [(m, x)] → x < 17 → bits v 0 5 = 16 + member s → ctlB s offLKBRIDGE 4 = true → s.hostUp = true →
      ∃ t, exec (.brgselWrite (wr8 0x208 v)) s = .next t ∧ t.irqHeld = [] ∧ t.msix = s.msix ++ [x] ∧ ctlB t (offBRPEND x) (member s) = true)) ∧
  (∀ s core v, core < 384 → MemCanon s →
    let kb := max 4 (min 16 (bits v 0 5))
    (holdsCushion s core → exec (.uscfgWrite (wr8 (offUSCFG core) v)) s = .next s) ∧
    (¬ holdsCushion s core → kb = ctlF s (offUSCFG core) 0 5 →
      exec (.uscfgWrite (wr8 (offUSCFG core) v)) s = .next s) ∧
    (¬ holdsCushion s core → kb ≠ ctlF s (offUSCFG core) 0 5 →
      ∃ t b, exec (.uscfgWrite (wr8 (offUSCFG core) v)) s = .next t ∧ t.ctl = s.ctl ∧ t.fibres = s.fibres ∧ (∀ l ∈ t.l1, l.core = core → l.dirty = 0#16) ∧
        t.resizes = s.resizes.filter (fun r => r.1 != core) ++ [(core, kb, b)]) ∧
    (∀ k b, s.resizes.find? (fun r => r.1 == core) = some (core, k, b) →
      ((∀ w ∈ s.wbs, w.1 = core → b ≤ w.2) → (∀ l ∈ s.l1, l.core = core → l.dirty = 0#16) → ∃ t, exec (.l1ResizeDone core) s = .next t ∧
        ctlF t (offUSCFG core) 0 5 = k % 32 ∧ (∀ o, o ≠ offUSCFG core → ctlW t o = ctlW s o) ∧ (∀ l ∈ t.l1, l.core ≠ core) ∧
        t.resizes = s.resizes.filter (fun r => r.1 != core) ∧ t.mem = s.mem ∧ t.fibres = s.fibres) ∧
      ((∀ w ∈ s.wbs, w.1 = core → b ≤ w.2) → (∃ l ∈ s.l1, l.core = core ∧ l.dirty ≠ 0#16) → ∃ t n, exec (.l1ResizeDone core) s = .next t ∧
        t.ctl = s.ctl ∧ t.mem = s.mem ∧ t.fibres = s.fibres ∧ (∀ l ∈ t.l1, l.core = core → l.dirty = 0#16) ∧ (core, k, n) ∈ t.resizes) ∧
      ((∃ w ∈ s.wbs, w.1 = core ∧ w.2 < b) → exec (.l1ResizeDone core) s = .next s))) ∧
  (∀ s v, MemCanon s →
    let used := ∃ a r, a < 16 ∧ r < 64 ∧ (ctlB s (offCRTAB a r) 0 = true ∨ ctlB s (offCRTAB a r) 1 = true)
    let n := min 8 (bits v 0 4)
    (used ∨ n = ctlF s 0x5800 0 4 → exec (.crpartWrite (wr8 0x5800 v)) s = .next s) ∧
    (¬ used → n ≠ ctlF s 0x5800 0 4 → ∃ t, exec (.crpartWrite (wr8 0x5800 v)) s = .next t ∧ ctlF t 0x5800 0 4 = n ∧
      (∀ o, o ≠ 0x5800 → ctlW t o = ctlW s o) ∧ t.l2 = [] ∧ sameBytes s t ∧ t.fibres = s.fibres)) ∧
  (∀ s v, MemCanon s →
    let mode := bits v 4 2
    (v.getLsbD 8 = false ∨ mode = 3 → exec (.xlinvGo (wr8 0x7008 v)) s = .next s) ∧
    (v.getLsbD 8 = true → mode ≠ 3 →
      (ctlB s 0x7008 9 = true → ∃ t, exec (.xlinvGo (wr8 0x7008 v)) s = .next t ∧ CtlOnly s [0x7008] t ∧ ctlB t 0x7008 9 = true) ∧
      (ctlB s 0x7008 9 = false → ∃ t, exec (.xlinvGo (wr8 0x7008 v)) s = .next t ∧ ctlB t 0x7008 9 = true ∧
        t.inval.map (fun i => (i.1, i.2.1 % 64, i.2.2)) = some (s.nextId, bits v 0 4 + 16 * mode, ctlW s 0x7000) ∧
        (∀ e, e ∈ t.coreTlb ↔ e ∈ s.coreTlb ∧ ¬ invalidated mode (bits v 0 4) (ctlW s 0x7000) e.2) ∧
        (∀ e, e ∈ t.dieTlb ↔ e ∈ s.dieTlb ∧ ¬ invalidated mode (bits v 0 4) (ctlW s 0x7000) e.2) ∧
        t.walks = s.walks.map (fun k => { k with dropped := k.dropped || ((s.walks.filter (fun v => v.die == k.die)).take 128).any (fun v => v.id == k.id) }) ∧
        t.mem = s.mem ∧ t.fibres = s.fibres))) ∧
  (∀ s, MemCanon s →
    (s.inval = none ∨ (∃ k ∈ s.walks, k.dropped = true) → exec .xlinvComplete s = .next s) ∧
    (∀ seq am page, s.inval = some (seq, am, page) → (∀ k ∈ s.walks, k.dropped = false) →
      (¬ oldAccessWaits s seq am page → ∃ t, exec .xlinvComplete s = .next t ∧
        { t with ctl := [], inval := none } = { s with ctl := [], inval := none } ∧ t.inval = none ∧
        ctlB t 0x7008 9 = false ∧ ∀ o, o ≠ 0x7008 → ctlW t o = ctlW s o) ∧
      (oldAccessWaits s seq am page → exec .xlinvComplete s = .next s))) ∧
  (∀ s a r v, a < 16 → r < 64 → MemCanon s →
    let off := offCRTAB a r
    let w := wr8 off v
    let active := ctlB s off 0
    let loaded := ctlB s off 1
    (active = true → ∃ t, exec (.crustRegionWrite w) s = .next t ∧ CtlOnly s [off] t ∧ FieldsTake s off [(0, 1)] v t) ∧
    (active = false → loaded = true →
      (v.getLsbD 0 = false → exec (.crustRegionWrite w) s = .next s) ∧
      (v.getLsbD 0 = true → ∃ t, exec (.crustRegionWrite w) s = .next t ∧ CtlOnly s [offCRSTAT] t ∧ FieldsTake s offCRSTAT [(0, 1)] 1#64 t)) ∧
    (active = false → loaded = false → 10 < bits v 3 4 →
      (v.getLsbD 0 = false → exec (.crustRegionWrite w) s = .next s) ∧
      (v.getLsbD 0 = true → ∃ t, exec (.crustRegionWrite w) s = .next t ∧ CtlOnly s [offCRSTAT] t ∧ FieldsTake s offCRSTAT [(0, 1)] 1#64 t)) ∧
    (active = false → loaded = false → bits v 3 4 ≤ 10 →
      (v.getLsbD 0 = false → ∃ t, exec (.crustRegionWrite w) s = .next t ∧ CtlOnly s [off] t ∧ FieldsTake s off [(0, 1), (2, 1), (3, 4), (8, 56)] v t) ∧
      (∀ u, v.getLsbD 0 = true → exec (.crustRegionWrite (wr8 off (v &&& ~~~1#64))) s = .next u →
        (regionFits u a r = true → ∃ t, exec (.crustRegionWrite w) s = .next t ∧ CtlOnly s [off] t ∧ FieldsTake s off [(0, 1), (2, 1), (3, 4), (8, 56)] v t) ∧
        (regionFits u a r = false → ∃ t, exec (.crustRegionWrite w) s = .next t ∧ ctlB t off 0 = false ∧ ctlB t offCRSTAT 0 = true ∧ CtlOnly s [off, offCRSTAT] t))) ∧
    ((active = true ∨ loaded = true → exec (.crustRegionWrite (wr8 (off + 8) v)) s = .next s) ∧
      (active = false → loaded = false → ∃ t, exec (.crustRegionWrite (wr8 (off + 8) v)) s = .next t ∧ CtlOnly s [off + 8] t ∧
        FieldsTake s (off + 8) [(0, 32)] v t)) ∧
    (active = false ∨ loaded = true ∨ (∃ d, d < 8 ∧ dieInReset s d = true) → exec (.crustRegionReady a r) s = .next s) ∧
    (active = true → loaded = false → (∀ d, d < 8 → dieInReset s d = false) → ∃ t, exec (.crustRegionReady a r) s = .next t ∧
      FieldsTake s off [(1, 1)] 2#64 t ∧ (∀ o, o ≠ off → ctlW t o = ctlW s o) ∧ t.mem = s.mem ∧ t.fibres = s.fibres ∧
      ∀ d, d < 8 → ∀ i, i < 256 * ctlF s (off + 8) 0 16 →
        memRead (replicaOf t d a r) i = match backing s a r i with | some p => physRead s p | none => 0) ∧
    (active = true ∨ loaded = false ∨ (∃ d, d < 8 ∧ (dieInReset s d = true ∨ replicaOf s d a r ≠ replicaOf s 0 a r)) →
      exec (.crustRegionRetired a r) s = .next s) ∧
    (active = false → loaded = true → (∀ d, d < 8 → dieInReset s d = false ∧ replicaOf s d a r = replicaOf s 0 a r) →
      (∀ x ∈ s.exchanges, ∀ b ∈ x.blocks, ¬ (b.1.asid = a ∧ b.1.region = r)) →
      ∃ t, exec (.crustRegionRetired a r) s = .next t ∧ ctlB t off 1 = false ∧ (∀ d, replicaOf t d a r = []) ∧
        ∀ i p, i < 256 * ctlF s (off + 8) 0 16 → backing s a r i = some p →
          (∀ j, j < 256 * ctlF s (off + 8) 0 16 → backing s a r j = some p → j = i) → physRead t p = memRead (replicaOf s 0 a r) i)) ∧
  (∀ s a q v, a < 16 → q < 16 → MemCanon s →
    let off := offLQ a q
    let valid := ctlB s off 0
    (valid = true → (∃ t, exec (.launchQueueWrite (wr8 off v)) s = .next t ∧ CtlOnly s [off] t ∧ FieldsTake s off [(0, 1)] v t) ∧
      exec (.launchQueueWrite (wr8 (off + 8) v)) s = .next s ∧ exec (.launchQueueWrite (wr8 (off + 0x10) v)) s = .next s) ∧
    (valid = false →
      (13 ≤ bits v 8 4 → exec (.launchQueueWrite (wr8 off v)) s = .next s) ∧
      (bits v 8 4 ≤ 12 → v.getLsbD 0 = true ∧ mayArm s a q → ∃ t, exec (.launchQueueWrite (wr8 off v)) s = .next t ∧ CtlOnly s [off, off + 0x18] t ∧
        FieldsTake s off [(0, 1), (8, 4)] v t ∧ ctlF t (off + 0x18) 0 32 = 0) ∧
      (bits v 8 4 ≤ 12 → ¬ (v.getLsbD 0 = true ∧ mayArm s a q) → ∃ t, exec (.launchQueueWrite (wr8 off v)) s = .next t ∧ CtlOnly s [off] t ∧
        FieldsTake s off [(8, 4)] v t) ∧
      (∃ t, exec (.launchQueueWrite (wr8 (off + 8) v)) s = .next t ∧ CtlOnly s [off + 8] t ∧ ctlW t (off + 8) = v) ∧
      ∃ t, exec (.launchQueueWrite (wr8 (off + 0x10) v)) s = .next t ∧ CtlOnly s [off + 0x10] t ∧ ctlW t (off + 0x10) = v)) ∧
  (∀ s a v, a < 16 → MemCanon s →
    let off := offCTXCB a
    let state (t : State) : Nat := ctlF t off 2 2
    (bits v 0 2 = 1 → ∃ t, exec (.ctxSuspend (wr8 off v)) s = .next t ∧ { t with ctl := [], packets := [] } = { s with ctl := [], packets := [] } ∧
      state t = (if state s = 0 then 1 else state s) ∧ ctlB t off 4 = (ctlB s off 4 && !v.getLsbD 4) ∧
      (state s ≠ 0 ∨ (∀ p ∈ s.packets, p.asid ≠ a) → CtlOnly s [off] t) ∧
      (state s = 0 → ∀ p ∈ s.packets, p.asid = a → p.q < 16 → (∀ r ∈ s.packets, r.asid = a → r.q = p.q → r = p) →
        ctlB s (offLQ a p.q) 0 = true → ctlF s (offLQ a p.q + 0x18) 0 32 = p.index + 1 →
        ctlF t (offLQ a p.q + 0x18) 0 32 = p.index ∧ ∀ r ∈ t.packets, ¬ (r.asid = a ∧ r.q = p.q))) ∧
    (state s ≠ 1 → exec (.ctxSuspendComplete a) s = .next s) ∧
    (state s = 1 →
      let grantsBack (t : State) : Prop := (∀ o, o ≠ 0x1000 → o ≠ off → ctlW t o = ctlW s o) ∧
        ∀ c ∈ ctxCushions s a, getCush s c.cid = some c → queueStands c → (getCush t c.cid).map (·.grant) = some 0 ∧ ∀ p ∈ t.power, p.cush ≠ c.cid
      let halted := ∃ d, d < 8 ∧ ctlB s offDBGCTL d = true
      (ctxSettled s a = false ∨ halted → ∃ t, exec (.ctxSuspendComplete a) s = .next t ∧ grantsBack t ∧ state t = 1 ∧ t.mem = s.mem ∧ t.fibres = s.fibres ∧
        t.suspendWb = s.suspendWb) ∧
      (ctxSettled s a = true → ¬ halted →
        (s.suspendWb.find? (fun p => p.1 == a) = none → needed s a ≤ ctlF s (off + 0x10) 0 32 * 65536 →
          ∃ t b, exec (.ctxSuspendComplete a) s = .next t ∧ grantsBack t ∧ state t = 1 ∧ t.suspendWb = s.suspendWb ++ [(a, b)] ∧
            ∀ l ∈ t.l1, l.core ∈ ctxCores s a → l.dirty = 0#16) ∧
        (s.suspendWb.find? (fun p => p.1 == a) = none → ctlF s (off + 0x10) 0 32 * 65536 < needed s a →
          ∃ t, exec (.ctxSuspendComplete a) s = .next t ∧ state t = 0 ∧ ctlB t off 4 = true) ∧
        (∀ b, s.suspendWb.find? (fun p => p.1 == a) = some (a, b) →
          ((∀ c ∈ ctxCores s a, ∀ w ∈ s.wbs, w.1 = c → b ≤ w.2) → ∃ t, exec (.ctxSuspendComplete a) s = .next t ∧ grantsBack t ∧ state t = 2 ∧
            (∀ c ∈ ctxCushions s a, (getCush t c.cid).map (·.saved) = some true) ∧ (∀ f ∈ ctxFibres s a, (getFibre t f.fid).map (·.saved) = some true) ∧
            (a, s.clock) ∈ t.suspendedAt ∧ t.mem = s.mem) ∧
          ((∃ c ∈ ctxCores s a, ∃ w ∈ s.wbs, w.1 = c ∧ w.2 < b) → ∃ t, exec (.ctxSuspendComplete a) s = .next t ∧ grantsBack t ∧ state t = 1 ∧
            t.mem = s.mem ∧ t.fibres = s.fibres)))) ∧
    (bits v 0 2 = 2 →
      (state s < 2 → ∃ t, exec (.ctxResume (wr8 off v)) s = .next t ∧ CtlOnly s [off] t ∧ state t = state s) ∧
      (2 ≤ state s → ∃ t, exec (.ctxResume (wr8 off v)) s = .next t ∧ t.mem = s.mem ∧
        ((state t = 0 ∧ ∀ c ∈ ctxCushions t a, c.saved = false) ∨ (state t = 3 ∧ ∃ c ∈ ctxCushions t a, c.saved = true)) ∧
        (FibresApart s → ∀ f l d, getFibre s f.fid = some f → f.away = false → f.task = false → getCush s f.cush = some d → d ∈ ctxCushions s a →
          d.saved = true → f.saved = true → getLoad s l.id = some l → l.fid = f.fid → (∀ c, getCush t f.cush = some c → c.saved = false →
            (∃ g, getFibre t f.fid = some g ∧ g.core = c.core) ∧ ∀ m, getLoad t l.id = some m → m.core = c.core))))) ∧
  (∀ s q v, q < 17 → MemCanon s →
    let off := offFQ q
    (ctlB s off 0 = false → v.getLsbD 0 = true → ∃ t, exec (.faultQueueControlWrite (wr8 off v)) s = .next t ∧
      CtlOnly s [off, off + 0x10, off + 0x18] t ∧ ctlB t off 0 = true ∧ ctlB t off 1 = v.getLsbD 1 ∧ ctlF t off 2 5 = max 4 (min 16 (bits v 2 5)) ∧
      ctlF t (off + 0x10) 0 32 = 0 ∧ ctlF t (off + 0x18) 0 32 = 0) ∧
    (ctlB s off 0 = true → ctlF s (off + 0x10) 0 32 = ctlF s (off + 0x18) 0 32 ∨ v.getLsbD 1 = false →
      ∃ t, exec (.faultQueueControlWrite (wr8 off v)) s = .next t ∧ CtlOnly s [off] t ∧ FieldsTake s off [(0, 2)] v t) ∧
    (ctlB s off 0 = true → ctlF s (off + 0x10) 0 32 ≠ ctlF s (off + 0x18) 0 32 → v.getLsbD 1 = true → ctlB s offBRGSEL 4 = false →
      ∃ t, exec (.faultQueueControlWrite (wr8 off v)) s = .next t ∧ ctlB t off 1 = false ∧ ctlB t off 0 = v.getLsbD 0 ∧
        t.irqHeld = addNew (member s, q) s.irqHeld)) ∧
  (∀ s off n a, hostReaches s → hostBytes s off n a → s.bar2 = [] → s.barWait = [] →
    ((∀ i, i < n → dieUp s (homeDie (a + i))) →
      ((∀ i, i < n → ∀ p ∈ s.poison, p.1 ≠ (a + i) / 64) → MemCanon s → ∃ t, exec (.hostBar2Read off n) s = .next t ∧
        t.hostData = (List.range n).map (fun i => physRead s (a + i)) ∧ sameBytes s t ∧ t.ctl = s.ctl ∧ t.fibres = s.fibres ∧ t.barWait = []) ∧
      (∀ data : List Byte, data.length = n → s.barFrozen = false → MemCanon s → ∃ t, exec (.hostBar2Write off data .sound) s = .next t ∧
        (∀ i v, data[i]? = some v → physRead t (a + i) = v) ∧ t.hostData = s.hostData ∧ t.barWait = [] ∧
        (∀ x, x < a ∨ a + n ≤ x → physRead t x = physRead s x) ∧ t.ctl = s.ctl ∧ t.fibres = s.fibres)) ∧
    ((∃ i, i < n ∧ (dieInReset s (homeDie (a + i)) = true ∨ ctlB s offDBGCTL (homeDie (a + i)) = true)) →
      exec (.hostBar2Read off n) s = .next { s with barWait := [received s off n none] } ∧
      ∀ data : List Byte, data.length = n → s.barFrozen = false →
        exec (.hostBar2Write off data .sound) s = .next { s with barWait := [received s off n (some data)] })) ∧
  (∀ s off n (data : List Byte), hostReaches s → off + n ≤ 2 ^ 34 → 0 < n → data.length = n →
    (∀ flaw, s.barFrozen = true → exec (.hostBar2Write off data flaw) s = .next s) ∧
    (s.barFrozen = false → ∀ flaw w4, (flaw = .poisoned ∧ w4 = 0 ∨ flaw = .malformed ∧ w4 = 2) →
      ∃ t, exec (.hostBar2Write off data flaw) s = .next t ∧ t.mem = s.mem ∧ t.l2data = s.l2data ∧ t.ctl = s.ctl ∧ t.fibres = s.fibres ∧
        deviceRecord t 0x345 0 w4) ∧
    (s.bar2 ≠ [] → exec (.hostBar2Read off n) s = .next { s with barWait := s.barWait ++ [received s off n none] } ∧
      (s.barFrozen = false → exec (.hostBar2Write off data .sound) s = .next { s with barWait := s.barWait ++ [received s off n (some data)] })) ∧
    (s.bar2 = [] → s.barWait = [] → ctlF s offBRWIN 0 4 ≠ member s →
      let asid := ctlF s offBRWIN 4 4
      let phys := ctlB s offBRWIN 8
      let va := BitVec.ofNat 64 (ctlF s offBRWIN 30 27 * 2 ^ 30 + off)
      let port := routePort s noCore (ctlF s offPKGID 0 12 / 16 * 16 + ctlF s offBRWIN 0 4)
      (port = none → (∃ t, exec (.hostBar2Read off n) s = .next t ∧ t.hostData = [] ∧ t.mem = s.mem ∧ t.ctl = s.ctl ∧ deviceRecord t 0x345 va 4) ∧
        (s.barFrozen = false → ∃ t, exec (.hostBar2Write off data .sound) s = .next t ∧ t.hostData = s.hostData ∧ t.mem = s.mem ∧ t.ctl = s.ctl ∧
          deviceRecord t 0x345 va 4)) ∧
      (∀ p, port = some p →
        (∃ t, exec (.hostBar2Read off n) s = .next t ∧ t.bar2 = [(s.nextId, va, asid, false)] ∧ t.mem = s.mem ∧ t.ctl = s.ctl ∧ t.hostData = s.hostData ∧
          t.linkOut = s.linkOut ++ [(p, .bar2 (ctlF s offPKGID 0 12) s.nextId asid phys va (.read n))]) ∧
        (s.barFrozen = false → ∃ t cs, exec (.hostBar2Write off data .sound) s = .next t ∧ t.bar2 = [(s.nextId, va, asid, true)] ∧ t.mem = s.mem ∧
          t.ctl = s.ctl ∧ cs.map (·.2) = data ∧
          t.linkOut = s.linkOut ++ [(p, .bar2 (ctlF s offPKGID 0 12) s.nextId asid phys va (.write cs))])))) ∧
  (∀ s off n data, ¬ hostReaches s → off + n ≤ 2 ^ 34 → data.length = n → exec (.hostBar2Read off n) s = .next s ∧
    ∀ flaw, exec (.hostBar2Write off data flaw) s = .next s) ∧
  (∀ s v, MemCanon s → hostReaches s →
    (∃ t, exec (.hostBar4Access (member s * 2 ^ 18 + 0x7000) 8 (some v)) s = .next t ∧ CtlOnly s [0x7000] t ∧ ctlW t 0x7000 = v) ∧
    (∃ t, exec (.hostBar4Access (member s * 2 ^ 18 + 0x7000) 8 none) s = .next t ∧ t.hostData = leBytes 8 (ctlW s 0x7000).toNat ∧
      { t with ctl := [], hostData := [] } = { s with ctl := [], hostData := [] } ∧ ∀ o, ctlW t o = ctlW s o) ∧
    (∀ m p o n w, m < 16 → m ≠ member s → o < 2 ^ 18 → routePort s noCore (ctlF s offPKGID 0 12 / 16 * 16 + m) = some p →
      ∃ t, exec (.hostBar4Access (m * 2 ^ 18 + o) n w) s = .next t ∧ t.bar4 = s.bar4 ++ [(s.nextId, n, w.isSome)] ∧
        t.linkOut = s.linkOut ++ [(p, .bar4 (ctlF s offPKGID 0 12) s.nextId w o n)] ∧ t.ctl = s.ctl ∧ t.mem = s.mem ∧ t.hostData = s.hostData) ∧
    (∀ m o n w, m < 16 → m ≠ member s → o < 2 ^ 18 → routePort s noCore (ctlF s offPKGID 0 12 / 16 * 16 + m) = none →
      ∃ t, exec (.hostBar4Access (m * 2 ^ 18 + o) n w) s = .next t ∧ deviceRecord t 0x345 0 3 ∧ t.bar4 = s.bar4 ∧ t.ctl = s.ctl ∧ t.mem = s.mem ∧
        t.hostData = if w.isSome then s.hostData else List.replicate n 255)) ∧
  (∀ s off n w, ¬ hostReaches s → off < 2 ^ 22 → exec (.hostBar4Access off n w) s = .next s) ∧
  (∀ s m x, m < 16 → x < 17 → MemCanon s →
    (ctlB s offLKBRIDGE 4 = false → m = member s → exec (.interruptMessage m x) s = .next { s with irqHeld := addNew (m, x) s.irqHeld }) ∧
    (ctlB s offLKBRIDGE 4 = false → m ≠ member s → exec (.interruptMessage m x) s =
      .next (match routePort s noCore (ctlF s offPKGID 0 12 / 16 * 16 + m) with
        | some p => { s with linkOut := s.linkOut ++ [(p, .irq m x)] }
        | none => s)) ∧
    (ctlB s offLKBRIDGE 4 = true → ∃ t, exec (.interruptMessage m x) s = .next t ∧ ctlB t (offBRPEND x) m = true ∧
      (∀ o, o ≠ offBRPEND x → ctlW t o = ctlW s o) ∧ (s.hostUp = true → t.msix = s.msix ++ [x] ∧ t.irqOwed = s.irqOwed) ∧
      (s.hostUp = false → t.msix = s.msix ∧ t.irqOwed = s.irqOwed ++ [x])))

namespace Sys2Proof.Stmt

open Sys2Proof.Machine Sys2Proof.Safety

/-! ## Fault records and answers, discard, reset, debug, soft errors, circuits, link ports (R14, R24 to R26, R168, R169, R369 to R376, R417 to R428) -/

/-- A carpet that has a record is dead. -/
def ended (t : State) (id : Nat) : Prop := ∀ k, getCarpet t id = some k → k.dead = true

/-- Fibres but the one stay. -/
def otherFibres (s : State) (fid : Nat) (t : State) : Prop := ∀ n, n ≠ fid → getFibre t n = getFibre s n

/-- A fault queue is open and has room for one record more (R370). -/
def ringRoom (s : State) (q : Nat) : Prop :=
  ctlB s (offFQ q) 0 = true ∧ (ctlF s (offFQ q + 0x10) 0 32 + 2 ^ 32 - ctlF s (offFQ q + 0x18) 0 32) % 2 ^ 32 < 2 ^ ctlF s (offFQ q) 2 5

/-- The eight words of a record (R369). -/
def recordWordsAre (r : Rec) (seq : Nat) (w : Nat → DWord) : Prop :=
  bits (w 0) 0 8 = r.cls % 2 ^ 8 ∧ bits (w 0) 8 16 = r.syn % 2 ^ 16 ∧ bits (w 0) 24 4 = r.asid % 2 ^ 4 ∧ (w 0).getLsbD 28 = r.exp ∧
  (w 0).getLsbD 29 = r.frozen ∧ (w 0).getLsbD 30 = r.esc ∧ (w 0).getLsbD 31 = false ∧ bits (w 0) 32 32 = seq % 2 ^ 32 ∧
  w 1 = r.w1 ∧ w 2 = r.w2 ∧ w 3 = r.w3 ∧ w 4 = r.w4 ∧ w 5 = r.w5 ∧ w 6 = r.w6 ∧ w 7 = r.w7

/-- The carpet's work has run on a core: a cushion of it was placed there, or a fibre of it stands there (R373). -/
def runsOn (s : State) (k : Carpet) (core : Nat) : Prop := core ∈ k.cores ∨ ∃ f ∈ s.fibres, f.carpet = k.id ∧ f.saved = false ∧ f.core = core

/-- The posted record that an answer names, and the bits of the answer word: SEQ, operation, ANSGO (R369). -/
def answerOf (s : State) (q : Nat) (v : DWord) : Option Posted := s.posted.find? (fun p => p.queue == q && p.seq == bits v 0 32)

/-- FAULT_RECORD_POST and CARPET_DISCARD (R370, R373). -/
def recordsPostedCarpetsDiscarded : Prop :=
  (∀ s q r, q < 17 → s.queued.find? (fun x => x.queue == q) = some r → MemCanon s →
    let prod := ctlF s (offFQ q + 0x10) 0 32
    let ring := (ctlW s (offFQ q + 8)).toNat + 64 * (prod % 2 ^ ctlF s (offFQ q) 2 5)
    let mine := s.queued.filter (fun x => x.queue == q)
    let spores := if 2 ≤ ctlF s (offCTXCB q) 2 2 then needed s q else spilledBytes (fetchBack s) q
    let room := if q = 16 then 64 else (65536 * ctlF s (offCTXCB q + 0x10) 0 32 - spores) / 64
    (ringRoom s q → ring + 64 ≤ 2 ^ 39 → ∃ t w, exec (.faultRecordPost q) s = .next t ∧ ctlF t (offFQ q + 0x10) 0 32 = (prod + 1) % 2 ^ 32 ∧
      t.queued = s.queued.erase r ∧ recordWordsAre r.rec_ prod w ∧
      (∀ j, j < 64 → ∀ a, physOf 2 (ring + j) = some a → physRead t a = (w (j / 8)).extractLsb' (8 * (j % 8)) 8) ∧
      ∀ a, (∀ j, j < 64 → physOf 2 (ring + j) ≠ some a) → physRead t a = physRead s a) ∧
    (¬ ringRoom s q → mine.length ≤ room → exec (.faultRecordPost q) s = .next s) ∧
    (¬ ringRoom s q → room < mine.length → ∃ t, exec (.faultRecordPost q) s = .next t ∧
      ctlF t (offFQ q + 0x20) 0 32 = min (ctlF s (offFQ q + 0x20) 0 32 + (mine.length - room)) 0xFFFFFFFF ∧
      t.queued.filter (fun x => x.queue == q) = mine.take room ∧ t.queued.filter (fun x => x.queue != q) = s.queued.filter (fun x => x.queue != q) ∧
      t.mem = s.mem)) ∧
  (∀ s q, q < 17 → s.queued.find? (fun x => x.queue == q) = none → exec (.faultRecordPost q) s = .next s) ∧
  (∀ s k keep, getCarpet s k.id = some k →
    (k.dead = false ∨ k.gone = true → exec (.carpetDiscard k.id keep) s = .next s) ∧
    (k.dead = true → k.gone = false → k.barrier = none → ∃ t b, exec (.carpetDiscard k.id keep) s = .next t ∧
      getCarpet t k.id = some { k with barrier := some b } ∧ t.ctl = s.ctl ∧ t.fibres = s.fibres ∧ t.cushions = s.cushions ∧ t.detects = s.detects ∧
      (∀ h ∈ t.held, ∀ c, getCush s h.cush = some c → c.carpet ≠ k.id) ∧ (∀ j ∈ t.jobs, ∀ f, getFibre s j.fid = some f → f.carpet ≠ k.id) ∧
      ∀ l ∈ t.l1, runsOn s k l.core → l.dirty = 0#16) ∧
    (∀ b, k.dead = true → k.gone = false → k.barrier = some b →
      ((∃ w ∈ s.wbs, runsOn s k w.1 ∧ w.2 < b) → exec (.carpetDiscard k.id keep) s = .next s) ∧
      ((∀ w ∈ s.wbs, runsOn s k w.1 → b ≤ w.2) → (∀ c ∈ s.cushions, c.frozen = false) →
        (∀ d ∈ s.detects, d.carpet = k.id → d.freeze = none ∧ d.device = none) → (∃ d ∈ s.detects, d.carpet = k.id) →
        ∃ t d, exec (.carpetDiscard k.id []) s = .next t ∧ getCarpet t k.id = none ∧ (∀ f ∈ t.fibres, f.carpet ≠ k.id) ∧
          (∀ f ∈ s.fibres, f.carpet ≠ k.id → f ∈ t.fibres) ∧ (∀ c ∈ t.cushions, c.carpet ≠ k.id) ∧ (∀ o ∈ t.engines, o.carpet ≠ k.id) ∧
          (∀ r ∈ t.reqs, r.carpet ≠ k.id) ∧ (∀ e ∈ t.detects, e.carpet ≠ k.id) ∧ t.mem = s.mem ∧ t.l2data = s.l2data ∧
          d ∈ s.detects ∧ d.carpet = k.id ∧ (∀ e ∈ s.detects, e.carpet = k.id → d.rec_.w5.toNat ≤ e.rec_.w5.toNat) ∧
          t.queued = s.queued ++ [⟨d.rec_.asid,
            { d.rec_ with w6 := BitVec.ofNat 64 ((s.detects.filter (fun e => e.carpet == k.id)).length - 1), frozen := false }, .nothing⟩])))

/-- FAULT_ANSWER_SYSCALL, FAULT_RETRY, FAULT_KILL, FROZEN_MASTER_RELEASE (R169, R369, R372, R374). -/
def recordsAnswered : Prop :=
  (∀ s q v, q < 17 → MemCanon s →
    let off := offFQ q + 0x30
    let w := wr8 off v
    let go := v.getLsbD 34 = true
    ((¬ go ∨ bits v 32 2 ≠ 1 → exec (.faultAnswerSyscall w) s = .next s) ∧ (¬ go ∨ bits v 32 2 ≠ 2 → exec (.faultRetry w) s = .next s) ∧
      (¬ go ∨ bits v 32 2 ≠ 3 → exec (.faultKill w) s = .next s)) ∧
    (∀ i, (i = Instr.faultAnswerSyscall w ∧ bits v 32 2 = 1 ∨ i = Instr.faultRetry w ∧ bits v 32 2 = 2 ∨ i = Instr.faultKill w ∧ bits v 32 2 = 3) → go →
      answerOf s q v = none → ∃ t, exec i s = .next t ∧ CtlOnly s [offFQ q + 0x20, off] t ∧ ctlB t (offFQ q + 0x20) 32 = true) ∧
    (∀ p fid f, go → answerOf s q v = some p → p.hold = .sysc fid → getFibre s fid = some f →
      (bits v 32 2 = 1 → f.wait = .sysc → ∃ t g, exec (.faultAnswerSyscall w) s = .next t ∧ t.posted = s.posted.erase p ∧ otherFibres s fid t ∧
        t.mem = s.mem ∧ (∀ o, o ≠ off → ctlW t o = ctlW s o) ∧ getFibre t fid = some g ∧ getX64 g 0 = ctlW s (offFQ q + 0x28) ∧
        (∀ i, 2 ≤ i → getX g i = getX f i) ∧ g.pc = f.pc ∧ (f.status = .parked → f.saved = false → f.joinCnt ≤ 1 → g.status = .ready ∧ g.wait = .none)) ∧
      (bits v 32 2 = 3 → ∀ k, getCarpet s f.carpet = some k → ∃ t, exec (.faultKill w) s = .next t ∧ t.posted = s.posted.erase p ∧
        t.fibres = s.fibres ∧ t.mem = s.mem ∧ ended t f.carpet ∧ t.detects.length = s.detects.length + 1 ∧
        (t.detects.getLast?).map (fun d => (d.carpet, d.rec_.cls, d.rec_.syn)) = some (f.carpet, 2, 0x402))) ∧
    (∀ p n h fid va acc pc f k, go → bits v 32 2 = 3 → answerOf s q v = some p → p.hold = .replay n →
      s.holds.find? (fun k => k.id == n && !k.waiters.isEmpty) = some h → h.waiters = [.fibre fid va acc pc] → getFibre s fid = some f →
      getCarpet s f.carpet = some k → ∃ t, exec (.faultKill w) s = .next t ∧ t.posted = s.posted.erase p ∧ t.holds = s.holds.filter (fun k => k.id != n) ∧
        t.fibres = s.fibres ∧ t.mem = s.mem ∧ ended t f.carpet ∧
        (t.detects.getLast?).map (fun d => (d.carpet, d.rec_.cls, d.rec_.syn)) = some (f.carpet, 2, 0x402)) ∧
    (∀ p n h fid va acc pc f, go → bits v 32 2 = 2 → answerOf s q v = some p → p.hold = .replay n →
      s.holds.find? (fun k => k.id == n && !k.waiters.isEmpty) = some h → h.waiters = [.fibre fid va acc pc] → getFibre s fid = some f →
      (2 ≤ ctlF s (offCTXCB h.asid) 2 2 → ∃ t, exec (.faultRetry w) s = .next t ∧ t.posted = s.posted.erase p ∧
        { t with ctl := [], posted := [] } = { s with ctl := [], posted := [] }) ∧
      (ctlF s (offCTXCB h.asid) 2 2 < 2 → (∀ j ∈ s.jobs, j.fid ≠ fid) → ∃ t, exec (.faultRetry w) s = .next t ∧ t.posted = s.posted.erase p ∧
        otherFibres s fid t ∧ t.mem = s.mem ∧ getFibre t fid = some { f with wait := .walk } ∧ (∀ k ∈ t.holds, k.id ≠ n) ∧
        ∃ k ∈ t.walks, k.die = f.core / 48 ∧ k.asid = h.asid ∧ pageOf s h.asid k.va = pageOf s h.asid va ∧ Waiter.fibre fid va acc pc ∈ k.waiters))) ∧
  (∀ s i v, i < 16 → MemCanon s →
    let off := offFRZTAB i
    let w := wr8 off v
    (v.getLsbD 3 = false ∨ ctlB s off 0 = false → exec (.frozenMasterRelease w) s = .next s) ∧
    (v.getLsbD 3 = true → ctlB s off 0 = true → ∃ t, exec (.frozenMasterRelease w) s = .next t ∧ ctlB t off 0 = false ∧
      (∀ o, o ≠ off → ctlW t o = ctlW s o) ∧ t.mem = s.mem ∧ t.queued = s.queued ∧
      (∀ c, ctlF s off 1 2 = 0 → s.cushions.find? (fun c => c.frozen && c.core == ctlF s off 4 9 && c.slot == ctlF s off 13 4) = some c →
        getCush t c.cid = none ∧ ∀ f ∈ t.fibres, f.cush ≠ c.cid) ∧
      (ctlF s off 1 2 = 1 → t.barFrozen = false) ∧ (ctlF s off 1 2 = 2 → ctlF s off 17 4 ∉ t.portsFrozen)))

/-- DIE_RESET, DIE_RESET_DONE, PACKAGE_RESET, RESET_RELEASE (R16, R18, R24, R375, R376, R428). -/
def diesAndPackageReset : Prop :=
  (∀ s d v, d < 8 → MemCanon s →
    let w := wr8 0x32000 v
    (∀ s', (∀ e, e < 8 → v.getLsbD e = true → ctlB s' 0x32000 (8 + e) = true) → exec (.dieReset w) s' = .next s') ∧
    ((∀ e, e < 8 → v.getLsbD e = decide (e = d)) → ctlB s 0x32000 (8 + d) = false → ∃ t, exec (.dieReset w) s = .next t ∧
      ctlB t 0x32000 (8 + d) = true ∧
      (∀ c a, c < 384 → a < 2 ^ 22 → physRead t (2 ^ 40 + c * 2 ^ 22 + a) = if c / 48 = d then 0 else physRead s (2 ^ 40 + c * 2 ^ 22 + a)) ∧
      (∀ l ∈ t.l1, l.core / 48 ≠ d) ∧ (∀ e ∈ t.coreTlb, e.1 / 48 ≠ d) ∧ (∀ e ∈ t.dieTlb, e.1 ≠ d) ∧ (∀ r ∈ t.replicas, r.die ≠ d) ∧
      (∀ a q, a < 16 → q < 16 → q % 8 = d → ctlB t (offLQ a q) 0 = false) ∧
      (∀ p, p < 8 → ctlW t (offCONN (8 * d + p)) = ctlW State.reset (offCONN (8 * d + p))) ∧
      (∀ k, getCarpet s k.id = some k → k.q % 8 = d → ∀ k', getCarpet t k.id = some k' → k'.noJoin = true) ∧
      ∀ c ∈ s.cushions, c.core / 48 = d → c.frozen = false → ended t c.carpet)) ∧
  (∀ s d, d < 8 → MemCanon s →
    (ctlB s 0x32000 (8 + d) = false → ∀ ok, exec (.dieResetDone d ok) s = .next s) ∧
    (ctlB s 0x32000 (8 + d) = true →
      (∃ t, exec (.dieResetDone d false) s = .next t ∧ ctlB t 0x32000 (8 + d) = false ∧ ctlB t 0x32008 d = true ∧
        (∀ o, o ≠ 0x32000 → o ≠ 0x32008 → ctlW t o = ctlW s o) ∧ deviceRecord t 0x347 0 (BitVec.ofNat 64 d)) ∧
      ((∀ c, c < 8 → c ≠ d → dieInReset s c = true ∨ diesConnected s d c = false) → d ∉ s.imageReload → exec (.dieResetDone d true) s = .next s) ∧
      (d ∈ s.imageReload → ∃ t, exec (.dieResetDone d true) s = .next t ∧ ctlB t 0x32000 (8 + d) = false ∧ ctlB t 0x32008 d = false ∧
        d ∉ t.imageReload ∧ ∀ a r i, a < 16 → r < 64 → ctlB s (offCRTAB a r) 1 = true → i < 256 * ctlF s (offCRTAB a r + 8) 0 16 →
          memRead (replicaOf t d a r) i = match backing s a r i with | some p => physRead s p | none => 0) ∧
      (d ∉ s.imageReload → dieInReset s (d ^^^ 1) = false → diesConnected s d (d ^^^ 1) = true → ∃ t, exec (.dieResetDone d true) s = .next t ∧
        ctlB t 0x32000 (8 + d) = false ∧ ctlB t 0x32008 d = false ∧ (∀ o, o ≠ 0x32000 → o ≠ 0x32008 → ctlW t o = ctlW s o) ∧
        (∀ a r, a < 16 → r < 64 → ctlB s (offCRTAB a r) 1 = true → replicaOf t d a r = replicaOf s (d ^^^ 1) a r) ∧
        ∀ e a r, e ≠ d → replicaOf t e a r = replicaOf s e a r))) ∧
  (∀ s v, exec (.packageReset (wr8 0x32000 v)) s =
    .next (if v.getLsbD 16 then { State.reset with nextId := s.nextId, oracle := s.oracle, agenda := s.agenda } else s)) ∧
  (∀ s p l, MemCanon s → (s.running = true → exec (.resetRelease p l) s = .next s) ∧
    (s.running = false → ∃ t, exec (.resetRelease p l) s = .next t ∧ t.running = true ∧ CtlOnly { s with running := true } [0x100, 0x200] t ∧
      ctlW t 0x100 = p.setWidth 64 ∧ ctlW t 0x200 = l.setWidth 64))

/-- The requests of homes that have no answer yet, with their dies and the cycles they were sent in: on their way or accepted, with the reply, the
acknowledgement, the release of a JOIN or LDGE, or the absorption of an LSYNC still to come (R425). -/
def unanswered (s : State) : List (Nat × Nat) :=
  s.reqs.map (fun r => (r.die, r.sent)) ++ s.replies.map (fun r => (r.die, r.sent)) ++ s.acks.map (fun a => (a.die, a.sent)) ++
    s.joins.map (fun j => (j.die, j.sent)) ++ s.ldges.map (fun l => (l.die, l.sent)) ++ s.syncs.flatMap (·.asked)

/-- DEBUG_HALT_WRITE, DEBUG_ATTACH_WRITE, BRK_RELEASE, DIE_HALTED, the watchdogs, soft errors, the power manager (R168, R417 to R419, R425 to R427). -/
def debugWatchdogsAndErrors : Prop :=
  (∀ s v i, MemCanon s → i ∈ [Instr.debugHaltWrite (wr8 0x33100 v), .debugAttachWrite (wr8 0x33100 v), .brkRelease (wr8 0x33100 v)] →
    let freed (a : Nat) : Prop := (a < 16 ∧ ctlB s 0x33100 (16 + a) = true ∧ v.getLsbD (16 + a) = false) ∨ (v.getLsbD 36 = true ∧ a = bits v 32 4)
    ∃ t, exec i s = .next t ∧ (∀ o, o ≠ 0x33100 → ctlW t o = ctlW s o) ∧ t.mem = s.mem ∧ t.carpets = s.carpets ∧
      (∀ d, d < 8 → ctlB t 0x33100 d = v.getLsbD d ∧ ctlB t 0x33100 (8 + d) = (ctlB s 0x33100 (8 + d) && v.getLsbD d)) ∧
      (∀ a, a < 16 → ctlB t 0x33100 (16 + a) = v.getLsbD (16 + a)) ∧
      (s.haltSince = none → t.reqs = s.reqs ∧ t.haltSince = if bits v 0 8 = 0 then none else some s.clock) ∧
      (∀ n, s.haltSince = some n → if bits v 0 8 = 0 then
          t.haltSince = none ∧ t.reqs = s.reqs.map (fun r => { r with sent := if r.sent < n then r.sent + (s.clock - n) else s.clock })
        else t.haltSince = some n ∧ t.reqs = s.reqs) ∧
      (∀ f, getFibre s f.fid = some f → f.wait = .brk → f.status = .parked → f.saved = false → freed (((getCarpet s f.carpet).map (·.asid)).getD 0) →
        ∃ g, getFibre t f.fid = some g ∧ g.status = .ready ∧ g.wait = .none ∧ g.pc = f.pc ∧ g.x = f.x) ∧
      ∀ f, getFibre s f.fid = some f → (∀ g ∈ s.fibres, g.fid = f.fid → g = f) →
        f.wait ≠ .brk ∨ ¬ freed (((getCarpet s f.carpet).map (·.asid)).getD 0) → getFibre t f.fid = some f) ∧
  (∀ s d, d < 8 → MemCanon s →
    (ctlB s 0x33100 d = true → (∀ o ∈ s.engines, o.die ≠ d) → (∀ c ∈ s.cushions, c.core / 48 = d → c.saved = true ∨ c.mq = []) →
      ∃ t, exec (.dieHalted d) s = .next t ∧ CtlOnly s [0x33100] t ∧ FieldsTake s 0x33100 [(8 + d, 1)] (BitVec.allOnes 64) t) ∧
    (ctlB s 0x33100 d = false ∨ (∃ o ∈ s.engines, o.die = d ∧ o.stalled = false ∧ o.busy = true) → exec (.dieHalted d) s = .next s)) ∧
  (∀ s k die sent, (unanswered s)[k]? = some (die, sent) →
    (die < 8 → s.haltSince = none → sent + 4096 * ctlF s offWDCFG 0 16 ≤ s.clock → ∃ t, exec (.dieTimeout k) s = .next t ∧
      deviceRecord t 0x346 0 (BitVec.ofNat 64 die) ∧ (∀ c ∈ s.cushions, c.frozen = false → c.core / 48 = die → ended t c.carpet) ∧
      t.mem = s.mem ∧ t.ctl = s.ctl ∧ t.fibres = s.fibres ∧
      (∀ r, s.reqs[k]? = some r → t.reqs = s.reqs.filter (fun q => q.id != r.id) ∧ (r.carpet ≠ 0 → ended t r.carpet)) ∧
      ∀ i r op l f, k = s.reqs.length + i → s.replies[i]? = some r → (∃ bs, r.what = .bytes (.load op) bs) ∨ r.what = .done op →
        s.loads.find? (fun l => l.id == op) = some l → getFibre s l.fid = some f →
        t.replies = s.replies.filter (fun q => q.id != r.id) ∧ ended t f.carpet) ∧
    (8 ≤ die ∨ s.haltSince.isSome = true ∨ s.clock < sent + 4096 * ctlF s offWDCFG 0 16 → exec (.dieTimeout k) s = .next s)) ∧
  (∀ s k tag r f car, s.remote[k]? = some (tag, r) → getFibre s r.fibre = some f → getCarpet s f.carpet = some car →
    (s.haltSince = none → r.sent + 4096 * ctlF s offWDCFG 16 16 ≤ s.clock → ∃ t, exec (.linkTimeout k) s = .next t ∧
      CarpetEnds s { f with expItem := none } r.pc 0x307 r.va (BitVec.ofNat 64 (r.die - 8)) none t ∧ (∀ q ∈ t.remote, q.1 ≠ tag) ∧
      t.mem = s.mem ∧ t.ctl = s.ctl ∧ t.fibres = s.fibres) ∧
    (s.haltSince.isSome = true ∨ s.clock < r.sent + 4096 * ctlF s offWDCFG 16 16 → exec (.linkTimeout k) s = .next s)) ∧
  (∀ s k tag r car, s.remote[k]? = some (tag, r) → getFibre s r.fibre = none → getCarpet s r.carpet = some car → s.haltSince = none →
    r.sent + 4096 * ctlF s offWDCFG 16 16 ≤ s.clock → ∃ t d, exec (.linkTimeout k) s = .next t ∧ t.detects = s.detects ++ [d] ∧ ended t r.carpet ∧
      (d.carpet, d.rec_.cls, d.rec_.syn, d.rec_.w1, d.rec_.w3, d.rec_.w4) = (r.carpet, 2, 0x307, r.pc, r.va, BitVec.ofNat 64 (r.die - 8)) ∧
      bits d.rec_.w2 0 45 = bits r.w2 0 45 ∧ bits d.rec_.w2 45 15 = 0x3FF) ∧
  (∀ s st die unit pa sole, st < 10 → die < 8 → MemCanon s →
    let held := st = 1 ∨ st = 4 ∨ (st = 2 ∧ sole = true)
    ∃ t, exec (.uncorrectableError st die unit pa sole) s = .next t ∧ t.mem = s.mem ∧ t.l2data = s.l2data ∧
      ctlF t (offECCSTAT die) 32 16 = min (ctlF s (offECCSTAT die) 32 16 + 1) 0xFFFF ∧ ctlF t (offECCSTAT die) 48 4 = st ∧
      deviceRecord t 0x340 (BitVec.ofNat 64 (if st = 1 ∨ st = 2 ∨ st = 4 then (if 2 ^ 40 ≤ pa then pa - 2 ^ 40 else pa) else 0))
        (BitVec.ofNat 64 (st + 16 * die + if st = 1 ∨ st = 4 ∨ ((st = 0 ∨ st = 2) ∧ sole = true) then 128 else 0)) ∧
      (let core : Nat := match st with
        | 0 | 3 | 5 => unit
        | 8 => ((getFibre s unit).map (·.core)).getD 0x1FF
        | 9 => if unit < 384 then unit else 0x1FF
        | 6 => unit / 16
        | 7 => unit / 4
        | _ => 0x1FF
       (t.queued.getLast?).map (fun q => q.rec_.w2) = some (recW2 0 core 0 0x3FF 0)) ∧
      (held → (pa / 64, st) ∈ t.poison) ∧
      (held → FibresApart s → ∀ f, getFibre s f.fid = some f → getFibre t f.fid = some f ∨
        (f.saved = true ∨ f.status ≠ .resident) ∧ getFibre t f.fid = some { f with poisoned := some (pa / 64, st) }) ∧
      (st = 0 → sole = true → 2 ^ 41 ≤ pa → ∀ l ∈ t.l1, l.core = unit → l.line = (pa - 2 ^ 41) / 64 → l.bad.getLsbD ((pa - 2 ^ 41) / 4 % 16) = true) ∧
      (st = 0 → sole = true → pa < 2 ^ 41 → ∀ f, getFibre s f.fid = some f → f.core = unit → f.status = .resident → f.lane = pa / 0x8000 →
        f.winOff ≤ pa % 0x8000 → pa % 0x8000 < f.winOff + 64 * f.winSize → ∃ g, getFibre t f.fid = some g ∧ (pa % 0x8000 - f.winOff) / 4 ∈ g.bad ∧
          { g with bad := f.bad } = f) ∧
      (st = 0 → sole = false → ∀ l ∈ t.l1, l.core = unit → l.line = pa / 64 → l.dirty.getLsbD (pa / 4 % 16) = false → l.valid.getLsbD (pa / 4 % 16) = false) ∧
      (∀ f, st = 8 → getFibre s unit = some f → ended t f.carpet) ∧
      (st = 3 → ∀ l ∈ t.meta_, ¬ (l.core = unit ∧ l.line = pa / 64)) ∧ (st = 9 → unit < 384 → ∀ e ∈ t.coreTlb, ¬ (e.1 = unit ∧ e.2.base = pa)) ∧
      (st = 9 → 384 ≤ unit → ∀ e ∈ t.dieTlb, ¬ (e.1 = die ∧ e.2.base = pa))) ∧
  (∀ s ex f i r u j, IaluRow i r → focusEx s = some ex → ex.lanes = [f] → guardOf r.h f = true → laneOk ex r.h r.shape f = true → noChan r.shape = true →
    u ∈ r.shape.srcs → (∃ n, u.src = .x n ∧ j < u.words ∧ n.toNat + j ∈ f.bad) →
    ∃ t, exec i s = .next t ∧ getFibre t f.fid = some { f with pc := ex.pc + 8#64 } ∧ t.cushions = s.cushions ∧ t.mem = s.mem ∧ t.ctl = s.ctl ∧
      deviceRecord t 0x341 0 (BitVec.ofNat 64 (ex.core / 48 * 16)) ∧ ended t ex.car.id) ∧
  (∀ s st die, st < 10 → die < 8 → MemCanon s → exec (.scrub st die false) s = .next s ∧
    ∃ t, exec (.scrub st die true) s = .next t ∧ CtlOnly s [offECCSTAT die] t ∧
      ctlF t (offECCSTAT die) 0 32 = min (ctlF s (offECCSTAT die) 0 32 + 1) 0xFFFFFFFF) ∧
  (∀ s (size : BitVec 16) gate, 1 ≤ gate → gate ≤ 4 → MemCanon s →
    let n := min (ctlF s 0x1000 0 16) (max 48 (min 768 size.toNat))
    ∃ t, exec (.powerCapEvent size gate) s = .next t ∧ CtlOnly { s with cyc := t.cyc } [0x1000, 0x1008] t ∧ t.cyc.cycle = s.clock ∧
      t.cyc.pool = some (if s.cyc.cycle = s.clock then s.cyc.pool.getD (ctlF s 0x1000 0 16) else ctlF s 0x1000 0 16) ∧ ctlF t 0x1000 0 16 = n ∧ ctlF t 0x1008 8 3 = gate ∧
      ctlF t 0x1000 16 16 = ctlF s 0x1000 16 16 ∧ ctlB t 0x1008 2 = decide (gate < 4) ∧
      ctlB t 0x1008 1 = (decide (n < ctlF s 0x1000 0 16) || decide (gate < ctlF s 0x1008 8 3) || ctlB s 0x1008 1) ∧
      ctlB t 0x1008 0 = (decide (n < ctlF s 0x1000 0 16 ∧ n < ctlF s 0x1000 16 16) || ctlB s 0x1008 0))

/-- STATE of a circuit: 0 closed, 1 opening, 2 open, 3 closing (R25). -/
def circuitState (s : State) (i : Nat) : Nat := ctlF s (offCONN i) 62 2

/-- An open circuit from die a to die b besides entry i. -/
def otherCircuit (s : State) (i a b : Nat) : Prop :=
  ∃ j, j < 256 ∧ j ≠ i ∧ circuitState s j = 2 ∧ ctlF s (offCONN j) 1 3 = a ∧ ctlF s (offCONN j) 7 3 = b

/-- Die y can be reached from die x without entry i: over another circuit, or over two with a relay die (R420, R421). -/
def stillJoined (s : State) (i x y : Nat) : Prop :=
  x = y ∨ otherCircuit s i x y ∨ ∃ c, c < 8 ∧ c ≠ x ∧ c ≠ y ∧ otherCircuit s i x c ∧ otherCircuit s i c y

/-- No other circuit, open or opening, uses a wavelength of the word at its transmit or its receive port (R25). -/
def wavesFree (s : State) (i : Nat) (v : DWord) : Prop :=
  ∀ j, j < 256 → j ≠ i → circuitState s j = 1 ∨ circuitState s j = 2 →
    let u := ctlW s (offCONN j)
    bits u 16 32 &&& bits v 16 32 = 0 ∨
      (¬ (bits u 1 3 = bits v 1 3 ∧ bits u 4 3 = bits v 4 3) ∧ ¬ (bits u 7 3 = bits v 7 3 ∧ bits u 10 3 = bits v 10 3))

/-- An entry goes to a state and keeps its other fields. -/
def CircuitGoes (s : State) (i n : Nat) (t : State) : Prop :=
  circuitState t i = n ∧ ∀ j, j < 62 → (ctlW t (offCONN i)).getLsbD j = (ctlW s (offCONN i)).getLsbD j

/-- A link port that carries traffic: UP, and not the bridge's port (R15, R18). -/
def carries (s : State) (p : Nat) : Prop := ctlB s (offLKSTAT p) 0 = true ∧ ¬ (ctlB s offLKBRIDGE 4 = true ∧ ctlF s offLKBRIDGE 0 4 = p)

/-- CONN_ENTRY_WRITE, CIRCUIT_OPENED, CIRCUIT_CLOSED, CIRCUIT_OPEN_FAIL, RHIZOID_CIRCUIT_LOST (R25, R26, R420 to R422). -/
def circuitsOpenAndClose : Prop :=
  (∀ s i v, i < 256 → s.running = true → MemCanon s →
    let off := offCONN i
    let w := wr8 off v
    let legal := bits v 1 3 ≠ bits v 7 3 ∧ (v.getLsbD 0 = true → bits v 16 32 ≠ 0) ∧ wavesFree s i v
    let again := s.cyc.cycle = s.clock ∧ i ∈ s.cyc.conn
    (∀ t, exec (.connEntryWrite w) s = .next t → t.cyc.cycle = s.clock ∧ i ∈ t.cyc.conn) ∧
    (circuitState s i = 0 → legal → ¬ again → ∃ t, exec (.connEntryWrite w) s = .next t ∧ CtlOnly { s with cyc := t.cyc } [off] t ∧
      circuitState t i = (if v.getLsbD 0 then 1 else 0) ∧ bits (ctlW t off) 0 13 = bits v 0 13 ∧ bits (ctlW t off) 16 32 = bits v 16 32) ∧
    (circuitState s i = 2 → legal → ¬ again → v.getLsbD 0 = true → ∃ c, exec (.connEntryWrite w) s = .next { s with cyc := c }) ∧
    (circuitState s i = 2 → legal → ¬ again → v.getLsbD 0 = false → otherCircuit s i (ctlF s off 1 3) (ctlF s off 7 3) →
      ∃ t, exec (.connEntryWrite w) s = .next t ∧ CtlOnly { s with cyc := t.cyc } [off] t ∧ circuitState t i = 3 ∧ ctlB t off 0 = false ∧
        ∀ j, 0 < j → j < 62 → (ctlW t off).getLsbD j = (ctlW s off).getLsbD j) ∧
    (again ∨ circuitState s i = 1 ∨ circuitState s i = 3 ∨ ¬ legal ∨
        (circuitState s i = 2 ∧ v.getLsbD 0 = false ∧ ¬ otherCircuit s i (ctlF s off 1 3) (ctlF s off 7 3)) →
      ∃ t, exec (.connEntryWrite w) s = .next t ∧ CtlOnly { s with cyc := t.cyc } [0x2000] t ∧ FieldsTake s 0x2000 [(0, 1)] 1#64 t)) ∧
  (∀ s i, i < 256 → s.running = true → MemCanon s →
    (circuitState s i = 1 → ∃ t, exec (.circuitOpened i) s = .next t ∧ CtlOnly s [offCONN i] t ∧ CircuitGoes s i 2 t) ∧
    (circuitState s i ≠ 1 → exec (.circuitOpened i) s = .next s ∧ exec (.circuitOpenFail i) s = .next s) ∧
    (circuitState s i = 3 → ∃ t, exec (.circuitClosed i) s = .next t ∧ CtlOnly s [offCONN i] t ∧ CircuitGoes s i 0 t) ∧
    (circuitState s i ≠ 3 → exec (.circuitClosed i) s = .next s) ∧
    (circuitState s i = 1 → ∃ t, exec (.circuitOpenFail i) s = .next t ∧ CtlOnly s [offCONN i, 0x2000] t ∧ CircuitGoes s i 0 t ∧
      ctlB t 0x2000 3 = true ∧ ctlF t 0x2000 8 8 = i) ∧
    (circuitState s i < 2 → exec (.rhizoidCircuitLost i) s = .next s) ∧
    (2 ≤ circuitState s i →
      let a := ctlF s (offCONN i) 1 3
      let b := ctlF s (offCONN i) 7 3
      ∃ t, exec (.rhizoidCircuitLost i) s = .next t ∧ circuitState t i = 0 ∧ ctlB t (offCONN i) 0 = false ∧ ctlB t 0x2000 1 = true ∧
        ctlF t 0x2000 8 8 = i ∧ (∀ o, o ≠ offCONN i → o ≠ 0x2000 → ctlW t o = ctlW s o) ∧
        (otherCircuit s i a b → deviceRecord t 0x342 0 (BitVec.ofNat 64 i) ∧ t.reqs = s.reqs ∧ t.carpets = s.carpets) ∧
        (circuitState s i = 2 → a ≠ b → ¬ otherCircuit s i a b → (∀ x y, x < 8 → y < 8 → diesConnected s x y = true → stillJoined s i x y) →
          t.reqs = s.reqs ∧ t.carpets = s.carpets ∧ ∃ c, c < 8 ∧ otherCircuit s i a c ∧ otherCircuit s i c b ∧
            deviceRecord t 0x342 0 (BitVec.ofNat 64 (i + c * 2 ^ 8 + 2 ^ 11))) ∧
        (∀ x y, x < 8 → y < 8 → diesConnected s x y = true → ¬ stillJoined s i x y →
          (∃ q ∈ t.queued, (q.queue, q.rec_.cls, q.rec_.syn, q.rec_.w3, q.rec_.w4) = (16, 3, 0x343, 0, BitVec.ofNat 64 (x + y * 2 ^ 4 + i * 2 ^ 8))) ∧
          ctlB t 0x2000 2 = true ∧
          let lost (r : Req) : Prop := srcDie r.src = x ∧ r.die = y ∧ r.taken = false ∧ r.refused = 0 ∧ ticketHeld s r = false
          (∀ r ∈ s.reqs, lost r → r ∉ t.reqs ∧ (r.carpet ≠ 0 → ended t r.carpet)) ∧
          ((∀ x' y', x' < 8 → y' < 8 → diesConnected s x' y' = true → stillJoined s i x' y' ∨ x' = x ∧ y' = y) →
            ∀ r ∈ s.reqs, ¬ lost r → r ∈ t.reqs))))

/-- LINK_FLIT_RECEIVE, LINK_PORT_LOST, LINK_RETRAIN, LINK_TRAINING_DONE, HOST_LINK_DOWN, HOST_LINK_UP (R15, R21, R214, R423, R424). -/
def linksCarryAndFail : Prop :=
  (∀ s p m, p < 16 → MemCanon s →
    (¬ carries s p → ∀ bad, exec (.linkFlitReceive p bad m) s = .next s ∧ exec (.linkPortLost p) s = .next s) ∧
    (carries s p →
      let n := ((s.linkFails.find? (fun x => x.1 == p)).map (·.2)).getD 0
      (n < 8 → ∃ t, exec (.linkFlitReceive p true m) s = .next t ∧ { t with ctl := [], linkFails := [] } = { s with ctl := [], linkFails := [] } ∧
        (p, n + 1) ∈ t.linkFails ∧ ctlF t (offLKSTAT p) 16 16 = min (ctlF s (offLKSTAT p) 16 16 + 1) 0xFFFF ∧
        ∀ o, o ≠ offLKSTAT p → ctlW t o = ctlW s o) ∧
      (8 ≤ n → ∃ t, exec (.linkFlitReceive p true m) s = .next t ∧ ctlB t (offLKSTAT p) 0 = false ∧ ctlB t (offLKSTAT p) 1 = true) ∧
      (∀ pkg tag kind pa k a, m = .request pkg tag kind pa (.read k) → p ∉ s.portsFrozen → 0 < k → physOf kind.toNat pa = some a →
        (∀ i, i < k → ∃ x, physOf kind.toNat (pa + i) = some x ∧
          (2 ^ 40 ≤ x → x % 2 ^ 22 < 2 ^ 22 - ctlF s (offVLTCFG ((x - 2 ^ 40) / 2 ^ 22)) 0 4 * 2 ^ 18)) →
        ∃ t q bs, exec (.linkFlitReceive p false m) s = .next t ∧ t.reqs = s.reqs ++ [q] ∧ q.die = homeDie a ∧ q.carpet = 0 ∧
          q.op = .read (.link pkg tag) bs ∧ bs.length = k ∧ (∀ i, i < k → ∃ x, physOf kind.toNat (pa + i) = some x ∧ bs[i]? = some (x, x)) ∧
          t.mem = s.mem ∧ t.ctl = s.ctl) ∧
      (∀ tag v bytes write, m = .bar4Reply tag v → s.bar4.find? (fun g => g.1 == tag) = some (tag, bytes, write) →
        ∃ t, exec (.linkFlitReceive p false m) s = .next t ∧ t.hostData = (if write then s.hostData else leBytes bytes v.toNat) ∧
          t.bar4 = s.bar4.filter (fun g => g.1 != tag) ∧ t.ctl = s.ctl ∧ t.mem = s.mem) ∧
      (∀ mm x, m = .irq mm x → mm < 16 → x < 17 → mm = member s → ∃ t, exec (.linkFlitReceive p false m) s = .next t ∧ t.ctl = s.ctl ∧
        t.irqHeld = addNew (mm, x) s.irqHeld) ∧
      (∀ mm x, m = .irq mm x → mm < 16 → x < 17 → mm ≠ member s → ctlB s offLKBRIDGE 4 = true → ∃ t, exec (.linkFlitReceive p false m) s = .next t ∧
        ctlB t (offBRPEND x) mm = true ∧ (s.hostUp = true → t.msix = s.msix ++ [x]) ∧ (s.hostUp = false → t.irqOwed = s.irqOwed ++ [x])) ∧
      ∃ t, exec (.linkPortLost p) s = .next t ∧ ctlB t (offLKSTAT p) 0 = false ∧ ctlB t (offLKSTAT p) 1 = true ∧ p ∉ t.training ∧ t.mem = s.mem ∧
        ∃ drops : List (Nat × LinkMsg), (∀ m ∈ drops, m ∈ s.linkOut ∧ m.1 = p) ∧ (∀ m ∈ s.linkOut, m ∉ drops → m ∈ t.linkOut) ∧
          (∃ q ∈ t.queued, (q.queue, q.rec_.cls, q.rec_.syn, q.rec_.w3, q.rec_.w4) =
            (16, 3, 0x344, 0, BitVec.ofNat 64 (p + min drops.length 0xFFFF * 2 ^ 16))) ∧
          ∀ r ∈ s.remote, (∃ pkg kind pa op, (p, LinkMsg.request pkg r.1 kind pa op) ∈ drops) → r ∉ t.remote ∧ (r.2.carpet ≠ 0 → ended t r.2.carpet))) ∧
  (∀ s p v, p < 16 → MemCanon s →
    (v.getLsbD 3 = false → exec (.linkRetrain (wr8 (offLKSTAT p) v)) s = .next s) ∧
    (v.getLsbD 3 = true → ∃ t, exec (.linkRetrain (wr8 (offLKSTAT p) v)) s = .next t ∧ p ∈ t.training ∧ (∀ q, q ≠ p → (q ∈ t.training ↔ q ∈ s.training)) ∧
      { t with ctl := [], training := [] } = { s with ctl := [], training := [] } ∧ ctlB t (offLKSTAT p) 1 = (ctlB s (offLKSTAT p) 1 && !v.getLsbD 1) ∧
      ∀ o, o ≠ offLKSTAT p → ctlW t o = ctlW s o) ∧
    (p ∉ s.training → ∀ ok, exec (.linkTrainingDone p ok) s = .next s) ∧
    (p ∈ s.training →
      (∃ t, exec (.linkTrainingDone p true) s = .next t ∧ ctlB t (offLKSTAT p) 0 = true ∧ p ∉ t.training ∧ t.mem = s.mem ∧ t.fibres = s.fibres) ∧
      ∃ t, exec (.linkTrainingDone p false) s = .next t ∧ ctlB t (offLKSTAT p) 0 = false ∧ ctlB t (offLKSTAT p) 1 = true ∧ p ∉ t.training)) ∧
  (∀ s, (ctlB s offLKBRIDGE 4 = true → s.hostUp = true → ∃ t, exec .hostLinkDown s = .next t ∧ t.hostUp = false ∧ t.ctl = s.ctl ∧ t.mem = s.mem ∧
      deviceRecord t 0x345 0 1) ∧
    (ctlB s offLKBRIDGE 4 = false ∨ s.hostUp = false → exec .hostLinkDown s = .next s) ∧
    exec .hostLinkUp s = .next (if s.hostUp then s else { s with hostUp := true, msix := s.msix ++ s.irqOwed, irqOwed := [] }))

end Sys2Proof.Stmt

open Sys2Proof Sys2Proof.Machine Sys2Proof.Safety Sys2Proof.Stmt

/-- Records go to their rings and are answered; a dead carpet is discarded behind one record; frozen masters are released; dies and the package are
reset; debug, watchdogs, soft errors and the power manager; circuits open, close, fail and are lost; link ports carry, fail and train; the host's
link goes down and up. The model's choices in it: PACKAGE_RESET keeps the model's own agenda, handles and draw of free values, and HBM, which the
spec leaves unspecified, is as unwritten (log entries 15 and 5); the numbers by which UNCORRECTABLE_ERROR names a unit (log entry 8), which spore a
poisoned unit of a record or spill area falls in, and W3 = 0 of the 0x0341 record of a poisoned register (log entry 40); that of two writes of a
CONN entry in one cycle the later turn's is refused (log entry 2), and that a write to an open entry acts by V alone (log entry 43) (R14, R24 to
R26, R168, R169, R369 to R376, R417 to R428). -/
def Obligations.FaultsResetsCircuitsAndLinks : Prop :=
  recordsPostedCarpetsDiscarded ∧ recordsAnswered ∧ diesAndPackageReset ∧ debugWatchdogsAndErrors ∧ circuitsOpenAndClose ∧ linksCarryAndFail
end

