-- ==== Sys2Proof/Laws/Lists.lean ====
section
/-! SUPPORT. The list helpers of the model: replaced elements, sorted lists, and updates of the elements that pass a test. -/

namespace Sys2Proof.Machine

theorem getD_setAt {α : Type} (d : α) (l : List α) (i j : Nat) (v : α) :
    getD (setAt d l i v) j d = if j = i then v else getD l j d := by
  induction i generalizing l j with
  | zero => cases l <;> cases j <;> simp [setAt, getD]
  | succ i ih =>
    cases l with
    | nil => cases j with
      | zero => simp [setAt, getD]
      | succ j => have := ih [] j; simp only [getD] at this; simp [setAt, getD, this]
    | cons a l => cases j with
      | zero => simp [setAt, getD]
      | succ j => have := ih l j; simp only [getD] at this; simp [setAt, getD, this]

theorem setAt_setAt {α : Type} (d : α) (l : List α) (i : Nat) (v w : α) : setAt d (setAt d l i v) i w = setAt d l i w := by
  induction i generalizing l with
  | zero => cases l <;> rfl
  | succ i ih => cases l <;> simp [setAt, ih]

theorem setAt_comm {α : Type} (d : α) (l : List α) (i j : Nat) (v w : α) (h : i ≠ j) :
    setAt d (setAt d l i v) j w = setAt d (setAt d l j w) i v := by
  induction i generalizing l j with
  | zero => cases j with
    | zero => exact absurd rfl h
    | succ j => cases l <;> simp [setAt]
  | succ i ih => cases j with
    | zero => cases l <;> simp [setAt]
    | succ j => cases l <;> simp [setAt, ih _ j (by omega)]

theorem mem_insertBy {α : Type} (b : α → α → Bool) (x y : α) (l : List α) : y ∈ insertBy b x l ↔ y = x ∨ y ∈ l := by
  induction l with
  | nil => simp [insertBy]
  | cons a l ih => simp only [insertBy]; split <;> simp [ih]; tauto

theorem mem_foldl_insertBy {α : Type} (b : α → α → Bool) (y : α) (l acc : List α) :
    y ∈ l.foldl (fun acc x => insertBy b x acc) acc ↔ y ∈ l ∨ y ∈ acc := by
  induction l generalizing acc with
  | nil => simp
  | cons a l ih => simp [ih, mem_insertBy]; tauto

@[simp] theorem mem_sortBy {α : Type} (b : α → α → Bool) (y : α) (l : List α) : y ∈ sortBy b l ↔ y ∈ l := by
  simp [sortBy, mem_foldl_insertBy]

/-- An update that leaves a view of the elements alone leaves the list of views alone. -/
theorem map_updIf {α β : Type} (p : α → Bool) (f : α → α) (v : α → β) (l : List α) (h : ∀ a, p a = true → v (f a) = v a) :
    (updIf p f l).map v = l.map v := by
  simp only [updIf, List.map_map]
  refine List.map_congr_left fun a _ => ?_
  by_cases hp : p a = true <;> simp [hp, h]

/-- The first element that passes a test which the update leaves alone. -/
theorem find?_updIf {α : Type} (p q : α → Bool) (f : α → α) (l : List α) (h : ∀ a, q (f a) = q a) :
    (updIf p f l).find? q = (l.find? q).map (fun a => if p a then f a else a) := by
  have hq : (q ∘ fun a => if p a then f a else a) = q := by
    funext a; simp only [Function.comp]; split <;> simp [h]
  rw [updIf, List.find?_map, hq]

/-- A fold of steps that all leave a view alone leaves it alone. -/
theorem foldl_view {α σ β : Type} (v : σ → β) (g : σ → α → σ) (l : List α) (s : σ) (h : ∀ s a, v (g s a) = v s) :
    v (l.foldl g s) = v s := by
  induction l generalizing s with
  | nil => rfl
  | cons a l ih => simp [ih, h]

/-- A fold of steps that all keep a property keeps it. -/
theorem foldl_keep {α σ : Type} (P : σ → Prop) (g : σ → α → σ) (l : List α) (s : σ) (h : ∀ s a, P s → P (g s a)) (hs : P s) :
    P (l.foldl g s) := by
  induction l generalizing s with
  | nil => exact hs
  | cons a l ih => exact ih _ (h s a hs)

end Sys2Proof.Machine
end

