-- ==== Sys2Proof/Laws/State.lean ====
section
/-! SUPPORT. Field by field, what the updates of State leave: one lemma per field per update. -/

namespace Sys2Proof.Machine

@[simp] theorem updFibre_ctl (s : State) (fid : Nat) (g : Fibre → Fibre) : (updFibre s fid g).ctl = s.ctl := rfl
@[simp] theorem updFibre_clock (s : State) (fid : Nat) (g : Fibre → Fibre) : (updFibre s fid g).clock = s.clock := rfl
@[simp] theorem updFibre_running (s : State) (fid : Nat) (g : Fibre → Fibre) : (updFibre s fid g).running = s.running := rfl
@[simp] theorem updFibre_mem (s : State) (fid : Nat) (g : Fibre → Fibre) : (updFibre s fid g).mem = s.mem := rfl
@[simp] theorem updFibre_l2data (s : State) (fid : Nat) (g : Fibre → Fibre) : (updFibre s fid g).l2data = s.l2data := rfl
@[simp] theorem updFibre_l2 (s : State) (fid : Nat) (g : Fibre → Fibre) : (updFibre s fid g).l2 = s.l2 := rfl
@[simp] theorem updFibre_l1 (s : State) (fid : Nat) (g : Fibre → Fibre) : (updFibre s fid g).l1 = s.l1 := rfl
@[simp] theorem updFibre_meta_ (s : State) (fid : Nat) (g : Fibre → Fibre) : (updFibre s fid g).meta_ = s.meta_ := rfl
@[simp] theorem updFibre_poison (s : State) (fid : Nat) (g : Fibre → Fibre) : (updFibre s fid g).poison = s.poison := rfl
@[simp] theorem updFibre_coreTlb (s : State) (fid : Nat) (g : Fibre → Fibre) : (updFibre s fid g).coreTlb = s.coreTlb := rfl
@[simp] theorem updFibre_dieTlb (s : State) (fid : Nat) (g : Fibre → Fibre) : (updFibre s fid g).dieTlb = s.dieTlb := rfl
@[simp] theorem updFibre_walks (s : State) (fid : Nat) (g : Fibre → Fibre) : (updFibre s fid g).walks = s.walks := rfl
@[simp] theorem updFibre_inval (s : State) (fid : Nat) (g : Fibre → Fibre) : (updFibre s fid g).inval = s.inval := rfl
@[simp] theorem updFibre_carpets (s : State) (fid : Nat) (g : Fibre → Fibre) : (updFibre s fid g).carpets = s.carpets := rfl
@[simp] theorem updFibre_packets (s : State) (fid : Nat) (g : Fibre → Fibre) : (updFibre s fid g).packets = s.packets := rfl
@[simp] theorem updFibre_cushions (s : State) (fid : Nat) (g : Fibre → Fibre) : (updFibre s fid g).cushions = s.cushions := rfl
@[simp] theorem updFibre_fronds (s : State) (fid : Nat) (g : Fibre → Fibre) : (updFibre s fid g).fronds = s.fronds := rfl
@[simp] theorem updFibre_slots (s : State) (fid : Nat) (g : Fibre → Fibre) : (updFibre s fid g).slots = s.slots := rfl
@[simp] theorem updFibre_reqs (s : State) (fid : Nat) (g : Fibre → Fibre) : (updFibre s fid g).reqs = s.reqs := rfl
@[simp] theorem updFibre_replies (s : State) (fid : Nat) (g : Fibre → Fibre) : (updFibre s fid g).replies = s.replies := rfl
@[simp] theorem updFibre_acks (s : State) (fid : Nat) (g : Fibre → Fibre) : (updFibre s fid g).acks = s.acks := rfl
@[simp] theorem updFibre_loads (s : State) (fid : Nat) (g : Fibre → Fibre) : (updFibre s fid g).loads = s.loads := rfl
@[simp] theorem updFibre_joins (s : State) (fid : Nat) (g : Fibre → Fibre) : (updFibre s fid g).joins = s.joins := rfl
@[simp] theorem updFibre_ldges (s : State) (fid : Nat) (g : Fibre → Fibre) : (updFibre s fid g).ldges = s.ldges := rfl
@[simp] theorem updFibre_held (s : State) (fid : Nat) (g : Fibre → Fibre) : (updFibre s fid g).held = s.held := rfl
@[simp] theorem updFibre_wbs (s : State) (fid : Nat) (g : Fibre → Fibre) : (updFibre s fid g).wbs = s.wbs := rfl
@[simp] theorem updFibre_resizes (s : State) (fid : Nat) (g : Fibre → Fibre) : (updFibre s fid g).resizes = s.resizes := rfl
@[simp] theorem updFibre_nextTicket (s : State) (fid : Nat) (g : Fibre → Fibre) : (updFibre s fid g).nextTicket = s.nextTicket := rfl
@[simp] theorem updFibre_replicas (s : State) (fid : Nat) (g : Fibre → Fibre) : (updFibre s fid g).replicas = s.replicas := rfl
@[simp] theorem updFibre_dirty (s : State) (fid : Nat) (g : Fibre → Fibre) : (updFibre s fid g).dirty = s.dirty := rfl
@[simp] theorem updFibre_exchanges (s : State) (fid : Nat) (g : Fibre → Fibre) : (updFibre s fid g).exchanges = s.exchanges := rfl
@[simp] theorem updFibre_fireDue (s : State) (fid : Nat) (g : Fibre → Fibre) : (updFibre s fid g).fireDue = s.fireDue := rfl
@[simp] theorem updFibre_syncs (s : State) (fid : Nat) (g : Fibre → Fibre) : (updFibre s fid g).syncs = s.syncs := rfl
@[simp] theorem updFibre_engines (s : State) (fid : Nat) (g : Fibre → Fibre) : (updFibre s fid g).engines = s.engines := rfl
@[simp] theorem updFibre_decoders (s : State) (fid : Nat) (g : Fibre → Fibre) : (updFibre s fid g).decoders = s.decoders := rfl
@[simp] theorem updFibre_jobs (s : State) (fid : Nat) (g : Fibre → Fibre) : (updFibre s fid g).jobs = s.jobs := rfl
@[simp] theorem updFibre_power (s : State) (fid : Nat) (g : Fibre → Fibre) : (updFibre s fid g).power = s.power := rfl
@[simp] theorem updFibre_landing (s : State) (fid : Nat) (g : Fibre → Fibre) : (updFibre s fid g).landing = s.landing := rfl
@[simp] theorem updFibre_queued (s : State) (fid : Nat) (g : Fibre → Fibre) : (updFibre s fid g).queued = s.queued := rfl
@[simp] theorem updFibre_posted (s : State) (fid : Nat) (g : Fibre → Fibre) : (updFibre s fid g).posted = s.posted := rfl
@[simp] theorem updFibre_detects (s : State) (fid : Nat) (g : Fibre → Fibre) : (updFibre s fid g).detects = s.detects := rfl
@[simp] theorem updFibre_holds (s : State) (fid : Nat) (g : Fibre → Fibre) : (updFibre s fid g).holds = s.holds := rfl
@[simp] theorem updFibre_deviceSeq (s : State) (fid : Nat) (g : Fibre → Fibre) : (updFibre s fid g).deviceSeq = s.deviceSeq := rfl
@[simp] theorem updFibre_barFrozen (s : State) (fid : Nat) (g : Fibre → Fibre) : (updFibre s fid g).barFrozen = s.barFrozen := rfl
@[simp] theorem updFibre_portsFrozen (s : State) (fid : Nat) (g : Fibre → Fibre) : (updFibre s fid g).portsFrozen = s.portsFrozen := rfl
@[simp] theorem updFibre_hostUp (s : State) (fid : Nat) (g : Fibre → Fibre) : (updFibre s fid g).hostUp = s.hostUp := rfl
@[simp] theorem updFibre_irqHeld (s : State) (fid : Nat) (g : Fibre → Fibre) : (updFibre s fid g).irqHeld = s.irqHeld := rfl
@[simp] theorem updFibre_irqOwed (s : State) (fid : Nat) (g : Fibre → Fibre) : (updFibre s fid g).irqOwed = s.irqOwed := rfl
@[simp] theorem updFibre_msix (s : State) (fid : Nat) (g : Fibre → Fibre) : (updFibre s fid g).msix = s.msix := rfl
@[simp] theorem updFibre_linkOut (s : State) (fid : Nat) (g : Fibre → Fibre) : (updFibre s fid g).linkOut = s.linkOut := rfl
@[simp] theorem updFibre_linkFails (s : State) (fid : Nat) (g : Fibre → Fibre) : (updFibre s fid g).linkFails = s.linkFails := rfl
@[simp] theorem updFibre_training (s : State) (fid : Nat) (g : Fibre → Fibre) : (updFibre s fid g).training = s.training := rfl
@[simp] theorem updFibre_remote (s : State) (fid : Nat) (g : Fibre → Fibre) : (updFibre s fid g).remote = s.remote := rfl
@[simp] theorem updFibre_bar4 (s : State) (fid : Nat) (g : Fibre → Fibre) : (updFibre s fid g).bar4 = s.bar4 := rfl
@[simp] theorem updFibre_bar2 (s : State) (fid : Nat) (g : Fibre → Fibre) : (updFibre s fid g).bar2 = s.bar2 := rfl
@[simp] theorem updFibre_barWait (s : State) (fid : Nat) (g : Fibre → Fibre) : (updFibre s fid g).barWait = s.barWait := rfl
@[simp] theorem updFibre_linkWait (s : State) (fid : Nat) (g : Fibre → Fibre) : (updFibre s fid g).linkWait = s.linkWait := rfl
@[simp] theorem updFibre_suspendedAt (s : State) (fid : Nat) (g : Fibre → Fibre) : (updFibre s fid g).suspendedAt = s.suspendedAt := rfl
@[simp] theorem updFibre_suspendWb (s : State) (fid : Nat) (g : Fibre → Fibre) : (updFibre s fid g).suspendWb = s.suspendWb := rfl
@[simp] theorem updFibre_haltSince (s : State) (fid : Nat) (g : Fibre → Fibre) : (updFibre s fid g).haltSince = s.haltSince := rfl
@[simp] theorem updFibre_imageReload (s : State) (fid : Nat) (g : Fibre → Fibre) : (updFibre s fid g).imageReload = s.imageReload := rfl
@[simp] theorem updFibre_spilled (s : State) (fid : Nat) (g : Fibre → Fibre) : (updFibre s fid g).spilled = s.spilled := rfl
@[simp] theorem updFibre_hostData (s : State) (fid : Nat) (g : Fibre → Fibre) : (updFibre s fid g).hostData = s.hostData := rfl
@[simp] theorem updFibre_nextId (s : State) (fid : Nat) (g : Fibre → Fibre) : (updFibre s fid g).nextId = s.nextId := rfl
@[simp] theorem updFibre_oracle (s : State) (fid : Nat) (g : Fibre → Fibre) : (updFibre s fid g).oracle = s.oracle := rfl
@[simp] theorem updFibre_focus (s : State) (fid : Nat) (g : Fibre → Fibre) : (updFibre s fid g).focus = s.focus := rfl
@[simp] theorem updFibre_cyc (s : State) (fid : Nat) (g : Fibre → Fibre) : (updFibre s fid g).cyc = s.cyc := rfl
@[simp] theorem updFibre_agenda (s : State) (fid : Nat) (g : Fibre → Fibre) : (updFibre s fid g).agenda = s.agenda := rfl

@[simp] theorem updCush_ctl (s : State) (cid : Nat) (g : Cushion → Cushion) : (updCush s cid g).ctl = s.ctl := rfl
@[simp] theorem updCush_clock (s : State) (cid : Nat) (g : Cushion → Cushion) : (updCush s cid g).clock = s.clock := rfl
@[simp] theorem updCush_running (s : State) (cid : Nat) (g : Cushion → Cushion) : (updCush s cid g).running = s.running := rfl
@[simp] theorem updCush_mem (s : State) (cid : Nat) (g : Cushion → Cushion) : (updCush s cid g).mem = s.mem := rfl
@[simp] theorem updCush_l2data (s : State) (cid : Nat) (g : Cushion → Cushion) : (updCush s cid g).l2data = s.l2data := rfl
@[simp] theorem updCush_l2 (s : State) (cid : Nat) (g : Cushion → Cushion) : (updCush s cid g).l2 = s.l2 := rfl
@[simp] theorem updCush_l1 (s : State) (cid : Nat) (g : Cushion → Cushion) : (updCush s cid g).l1 = s.l1 := rfl
@[simp] theorem updCush_meta_ (s : State) (cid : Nat) (g : Cushion → Cushion) : (updCush s cid g).meta_ = s.meta_ := rfl
@[simp] theorem updCush_poison (s : State) (cid : Nat) (g : Cushion → Cushion) : (updCush s cid g).poison = s.poison := rfl
@[simp] theorem updCush_coreTlb (s : State) (cid : Nat) (g : Cushion → Cushion) : (updCush s cid g).coreTlb = s.coreTlb := rfl
@[simp] theorem updCush_dieTlb (s : State) (cid : Nat) (g : Cushion → Cushion) : (updCush s cid g).dieTlb = s.dieTlb := rfl
@[simp] theorem updCush_walks (s : State) (cid : Nat) (g : Cushion → Cushion) : (updCush s cid g).walks = s.walks := rfl
@[simp] theorem updCush_inval (s : State) (cid : Nat) (g : Cushion → Cushion) : (updCush s cid g).inval = s.inval := rfl
@[simp] theorem updCush_carpets (s : State) (cid : Nat) (g : Cushion → Cushion) : (updCush s cid g).carpets = s.carpets := rfl
@[simp] theorem updCush_packets (s : State) (cid : Nat) (g : Cushion → Cushion) : (updCush s cid g).packets = s.packets := rfl
@[simp] theorem updCush_fibres (s : State) (cid : Nat) (g : Cushion → Cushion) : (updCush s cid g).fibres = s.fibres := rfl
@[simp] theorem updCush_fronds (s : State) (cid : Nat) (g : Cushion → Cushion) : (updCush s cid g).fronds = s.fronds := rfl
@[simp] theorem updCush_slots (s : State) (cid : Nat) (g : Cushion → Cushion) : (updCush s cid g).slots = s.slots := rfl
@[simp] theorem updCush_reqs (s : State) (cid : Nat) (g : Cushion → Cushion) : (updCush s cid g).reqs = s.reqs := rfl
@[simp] theorem updCush_replies (s : State) (cid : Nat) (g : Cushion → Cushion) : (updCush s cid g).replies = s.replies := rfl
@[simp] theorem updCush_acks (s : State) (cid : Nat) (g : Cushion → Cushion) : (updCush s cid g).acks = s.acks := rfl
@[simp] theorem updCush_loads (s : State) (cid : Nat) (g : Cushion → Cushion) : (updCush s cid g).loads = s.loads := rfl
@[simp] theorem updCush_joins (s : State) (cid : Nat) (g : Cushion → Cushion) : (updCush s cid g).joins = s.joins := rfl
@[simp] theorem updCush_ldges (s : State) (cid : Nat) (g : Cushion → Cushion) : (updCush s cid g).ldges = s.ldges := rfl
@[simp] theorem updCush_held (s : State) (cid : Nat) (g : Cushion → Cushion) : (updCush s cid g).held = s.held := rfl
@[simp] theorem updCush_wbs (s : State) (cid : Nat) (g : Cushion → Cushion) : (updCush s cid g).wbs = s.wbs := rfl
@[simp] theorem updCush_resizes (s : State) (cid : Nat) (g : Cushion → Cushion) : (updCush s cid g).resizes = s.resizes := rfl
@[simp] theorem updCush_nextTicket (s : State) (cid : Nat) (g : Cushion → Cushion) : (updCush s cid g).nextTicket = s.nextTicket := rfl
@[simp] theorem updCush_replicas (s : State) (cid : Nat) (g : Cushion → Cushion) : (updCush s cid g).replicas = s.replicas := rfl
@[simp] theorem updCush_dirty (s : State) (cid : Nat) (g : Cushion → Cushion) : (updCush s cid g).dirty = s.dirty := rfl
@[simp] theorem updCush_exchanges (s : State) (cid : Nat) (g : Cushion → Cushion) : (updCush s cid g).exchanges = s.exchanges := rfl
@[simp] theorem updCush_fireDue (s : State) (cid : Nat) (g : Cushion → Cushion) : (updCush s cid g).fireDue = s.fireDue := rfl
@[simp] theorem updCush_syncs (s : State) (cid : Nat) (g : Cushion → Cushion) : (updCush s cid g).syncs = s.syncs := rfl
@[simp] theorem updCush_engines (s : State) (cid : Nat) (g : Cushion → Cushion) : (updCush s cid g).engines = s.engines := rfl
@[simp] theorem updCush_decoders (s : State) (cid : Nat) (g : Cushion → Cushion) : (updCush s cid g).decoders = s.decoders := rfl
@[simp] theorem updCush_jobs (s : State) (cid : Nat) (g : Cushion → Cushion) : (updCush s cid g).jobs = s.jobs := rfl
@[simp] theorem updCush_power (s : State) (cid : Nat) (g : Cushion → Cushion) : (updCush s cid g).power = s.power := rfl
@[simp] theorem updCush_landing (s : State) (cid : Nat) (g : Cushion → Cushion) : (updCush s cid g).landing = s.landing := rfl
@[simp] theorem updCush_queued (s : State) (cid : Nat) (g : Cushion → Cushion) : (updCush s cid g).queued = s.queued := rfl
@[simp] theorem updCush_posted (s : State) (cid : Nat) (g : Cushion → Cushion) : (updCush s cid g).posted = s.posted := rfl
@[simp] theorem updCush_detects (s : State) (cid : Nat) (g : Cushion → Cushion) : (updCush s cid g).detects = s.detects := rfl
@[simp] theorem updCush_holds (s : State) (cid : Nat) (g : Cushion → Cushion) : (updCush s cid g).holds = s.holds := rfl
@[simp] theorem updCush_deviceSeq (s : State) (cid : Nat) (g : Cushion → Cushion) : (updCush s cid g).deviceSeq = s.deviceSeq := rfl
@[simp] theorem updCush_barFrozen (s : State) (cid : Nat) (g : Cushion → Cushion) : (updCush s cid g).barFrozen = s.barFrozen := rfl
@[simp] theorem updCush_portsFrozen (s : State) (cid : Nat) (g : Cushion → Cushion) : (updCush s cid g).portsFrozen = s.portsFrozen := rfl
@[simp] theorem updCush_hostUp (s : State) (cid : Nat) (g : Cushion → Cushion) : (updCush s cid g).hostUp = s.hostUp := rfl
@[simp] theorem updCush_irqHeld (s : State) (cid : Nat) (g : Cushion → Cushion) : (updCush s cid g).irqHeld = s.irqHeld := rfl
@[simp] theorem updCush_irqOwed (s : State) (cid : Nat) (g : Cushion → Cushion) : (updCush s cid g).irqOwed = s.irqOwed := rfl
@[simp] theorem updCush_msix (s : State) (cid : Nat) (g : Cushion → Cushion) : (updCush s cid g).msix = s.msix := rfl
@[simp] theorem updCush_linkOut (s : State) (cid : Nat) (g : Cushion → Cushion) : (updCush s cid g).linkOut = s.linkOut := rfl
@[simp] theorem updCush_linkFails (s : State) (cid : Nat) (g : Cushion → Cushion) : (updCush s cid g).linkFails = s.linkFails := rfl
@[simp] theorem updCush_training (s : State) (cid : Nat) (g : Cushion → Cushion) : (updCush s cid g).training = s.training := rfl
@[simp] theorem updCush_remote (s : State) (cid : Nat) (g : Cushion → Cushion) : (updCush s cid g).remote = s.remote := rfl
@[simp] theorem updCush_bar4 (s : State) (cid : Nat) (g : Cushion → Cushion) : (updCush s cid g).bar4 = s.bar4 := rfl
@[simp] theorem updCush_bar2 (s : State) (cid : Nat) (g : Cushion → Cushion) : (updCush s cid g).bar2 = s.bar2 := rfl
@[simp] theorem updCush_barWait (s : State) (cid : Nat) (g : Cushion → Cushion) : (updCush s cid g).barWait = s.barWait := rfl
@[simp] theorem updCush_linkWait (s : State) (cid : Nat) (g : Cushion → Cushion) : (updCush s cid g).linkWait = s.linkWait := rfl
@[simp] theorem updCush_suspendedAt (s : State) (cid : Nat) (g : Cushion → Cushion) : (updCush s cid g).suspendedAt = s.suspendedAt := rfl
@[simp] theorem updCush_suspendWb (s : State) (cid : Nat) (g : Cushion → Cushion) : (updCush s cid g).suspendWb = s.suspendWb := rfl
@[simp] theorem updCush_haltSince (s : State) (cid : Nat) (g : Cushion → Cushion) : (updCush s cid g).haltSince = s.haltSince := rfl
@[simp] theorem updCush_imageReload (s : State) (cid : Nat) (g : Cushion → Cushion) : (updCush s cid g).imageReload = s.imageReload := rfl
@[simp] theorem updCush_spilled (s : State) (cid : Nat) (g : Cushion → Cushion) : (updCush s cid g).spilled = s.spilled := rfl
@[simp] theorem updCush_hostData (s : State) (cid : Nat) (g : Cushion → Cushion) : (updCush s cid g).hostData = s.hostData := rfl
@[simp] theorem updCush_nextId (s : State) (cid : Nat) (g : Cushion → Cushion) : (updCush s cid g).nextId = s.nextId := rfl
@[simp] theorem updCush_oracle (s : State) (cid : Nat) (g : Cushion → Cushion) : (updCush s cid g).oracle = s.oracle := rfl
@[simp] theorem updCush_focus (s : State) (cid : Nat) (g : Cushion → Cushion) : (updCush s cid g).focus = s.focus := rfl
@[simp] theorem updCush_cyc (s : State) (cid : Nat) (g : Cushion → Cushion) : (updCush s cid g).cyc = s.cyc := rfl
@[simp] theorem updCush_agenda (s : State) (cid : Nat) (g : Cushion → Cushion) : (updCush s cid g).agenda = s.agenda := rfl

@[simp] theorem updCarpet_ctl (s : State) (id : Nat) (g : Carpet → Carpet) : (updCarpet s id g).ctl = s.ctl := rfl
@[simp] theorem updCarpet_clock (s : State) (id : Nat) (g : Carpet → Carpet) : (updCarpet s id g).clock = s.clock := rfl
@[simp] theorem updCarpet_running (s : State) (id : Nat) (g : Carpet → Carpet) : (updCarpet s id g).running = s.running := rfl
@[simp] theorem updCarpet_mem (s : State) (id : Nat) (g : Carpet → Carpet) : (updCarpet s id g).mem = s.mem := rfl
@[simp] theorem updCarpet_l2data (s : State) (id : Nat) (g : Carpet → Carpet) : (updCarpet s id g).l2data = s.l2data := rfl
@[simp] theorem updCarpet_l2 (s : State) (id : Nat) (g : Carpet → Carpet) : (updCarpet s id g).l2 = s.l2 := rfl
@[simp] theorem updCarpet_l1 (s : State) (id : Nat) (g : Carpet → Carpet) : (updCarpet s id g).l1 = s.l1 := rfl
@[simp] theorem updCarpet_meta_ (s : State) (id : Nat) (g : Carpet → Carpet) : (updCarpet s id g).meta_ = s.meta_ := rfl
@[simp] theorem updCarpet_poison (s : State) (id : Nat) (g : Carpet → Carpet) : (updCarpet s id g).poison = s.poison := rfl
@[simp] theorem updCarpet_coreTlb (s : State) (id : Nat) (g : Carpet → Carpet) : (updCarpet s id g).coreTlb = s.coreTlb := rfl
@[simp] theorem updCarpet_dieTlb (s : State) (id : Nat) (g : Carpet → Carpet) : (updCarpet s id g).dieTlb = s.dieTlb := rfl
@[simp] theorem updCarpet_walks (s : State) (id : Nat) (g : Carpet → Carpet) : (updCarpet s id g).walks = s.walks := rfl
@[simp] theorem updCarpet_inval (s : State) (id : Nat) (g : Carpet → Carpet) : (updCarpet s id g).inval = s.inval := rfl
@[simp] theorem updCarpet_packets (s : State) (id : Nat) (g : Carpet → Carpet) : (updCarpet s id g).packets = s.packets := rfl
@[simp] theorem updCarpet_cushions (s : State) (id : Nat) (g : Carpet → Carpet) : (updCarpet s id g).cushions = s.cushions := rfl
@[simp] theorem updCarpet_fibres (s : State) (id : Nat) (g : Carpet → Carpet) : (updCarpet s id g).fibres = s.fibres := rfl
@[simp] theorem updCarpet_fronds (s : State) (id : Nat) (g : Carpet → Carpet) : (updCarpet s id g).fronds = s.fronds := rfl
@[simp] theorem updCarpet_slots (s : State) (id : Nat) (g : Carpet → Carpet) : (updCarpet s id g).slots = s.slots := rfl
@[simp] theorem updCarpet_reqs (s : State) (id : Nat) (g : Carpet → Carpet) : (updCarpet s id g).reqs = s.reqs := rfl
@[simp] theorem updCarpet_replies (s : State) (id : Nat) (g : Carpet → Carpet) : (updCarpet s id g).replies = s.replies := rfl
@[simp] theorem updCarpet_acks (s : State) (id : Nat) (g : Carpet → Carpet) : (updCarpet s id g).acks = s.acks := rfl
@[simp] theorem updCarpet_loads (s : State) (id : Nat) (g : Carpet → Carpet) : (updCarpet s id g).loads = s.loads := rfl
@[simp] theorem updCarpet_joins (s : State) (id : Nat) (g : Carpet → Carpet) : (updCarpet s id g).joins = s.joins := rfl
@[simp] theorem updCarpet_ldges (s : State) (id : Nat) (g : Carpet → Carpet) : (updCarpet s id g).ldges = s.ldges := rfl
@[simp] theorem updCarpet_held (s : State) (id : Nat) (g : Carpet → Carpet) : (updCarpet s id g).held = s.held := rfl
@[simp] theorem updCarpet_wbs (s : State) (id : Nat) (g : Carpet → Carpet) : (updCarpet s id g).wbs = s.wbs := rfl
@[simp] theorem updCarpet_resizes (s : State) (id : Nat) (g : Carpet → Carpet) : (updCarpet s id g).resizes = s.resizes := rfl
@[simp] theorem updCarpet_nextTicket (s : State) (id : Nat) (g : Carpet → Carpet) : (updCarpet s id g).nextTicket = s.nextTicket := rfl
@[simp] theorem updCarpet_replicas (s : State) (id : Nat) (g : Carpet → Carpet) : (updCarpet s id g).replicas = s.replicas := rfl
@[simp] theorem updCarpet_dirty (s : State) (id : Nat) (g : Carpet → Carpet) : (updCarpet s id g).dirty = s.dirty := rfl
@[simp] theorem updCarpet_exchanges (s : State) (id : Nat) (g : Carpet → Carpet) : (updCarpet s id g).exchanges = s.exchanges := rfl
@[simp] theorem updCarpet_fireDue (s : State) (id : Nat) (g : Carpet → Carpet) : (updCarpet s id g).fireDue = s.fireDue := rfl
@[simp] theorem updCarpet_syncs (s : State) (id : Nat) (g : Carpet → Carpet) : (updCarpet s id g).syncs = s.syncs := rfl
@[simp] theorem updCarpet_engines (s : State) (id : Nat) (g : Carpet → Carpet) : (updCarpet s id g).engines = s.engines := rfl
@[simp] theorem updCarpet_decoders (s : State) (id : Nat) (g : Carpet → Carpet) : (updCarpet s id g).decoders = s.decoders := rfl
@[simp] theorem updCarpet_jobs (s : State) (id : Nat) (g : Carpet → Carpet) : (updCarpet s id g).jobs = s.jobs := rfl
@[simp] theorem updCarpet_power (s : State) (id : Nat) (g : Carpet → Carpet) : (updCarpet s id g).power = s.power := rfl
@[simp] theorem updCarpet_landing (s : State) (id : Nat) (g : Carpet → Carpet) : (updCarpet s id g).landing = s.landing := rfl
@[simp] theorem updCarpet_queued (s : State) (id : Nat) (g : Carpet → Carpet) : (updCarpet s id g).queued = s.queued := rfl
@[simp] theorem updCarpet_posted (s : State) (id : Nat) (g : Carpet → Carpet) : (updCarpet s id g).posted = s.posted := rfl
@[simp] theorem updCarpet_detects (s : State) (id : Nat) (g : Carpet → Carpet) : (updCarpet s id g).detects = s.detects := rfl
@[simp] theorem updCarpet_holds (s : State) (id : Nat) (g : Carpet → Carpet) : (updCarpet s id g).holds = s.holds := rfl
@[simp] theorem updCarpet_deviceSeq (s : State) (id : Nat) (g : Carpet → Carpet) : (updCarpet s id g).deviceSeq = s.deviceSeq := rfl
@[simp] theorem updCarpet_barFrozen (s : State) (id : Nat) (g : Carpet → Carpet) : (updCarpet s id g).barFrozen = s.barFrozen := rfl
@[simp] theorem updCarpet_portsFrozen (s : State) (id : Nat) (g : Carpet → Carpet) : (updCarpet s id g).portsFrozen = s.portsFrozen := rfl
@[simp] theorem updCarpet_hostUp (s : State) (id : Nat) (g : Carpet → Carpet) : (updCarpet s id g).hostUp = s.hostUp := rfl
@[simp] theorem updCarpet_irqHeld (s : State) (id : Nat) (g : Carpet → Carpet) : (updCarpet s id g).irqHeld = s.irqHeld := rfl
@[simp] theorem updCarpet_irqOwed (s : State) (id : Nat) (g : Carpet → Carpet) : (updCarpet s id g).irqOwed = s.irqOwed := rfl
@[simp] theorem updCarpet_msix (s : State) (id : Nat) (g : Carpet → Carpet) : (updCarpet s id g).msix = s.msix := rfl
@[simp] theorem updCarpet_linkOut (s : State) (id : Nat) (g : Carpet → Carpet) : (updCarpet s id g).linkOut = s.linkOut := rfl
@[simp] theorem updCarpet_linkFails (s : State) (id : Nat) (g : Carpet → Carpet) : (updCarpet s id g).linkFails = s.linkFails := rfl
@[simp] theorem updCarpet_training (s : State) (id : Nat) (g : Carpet → Carpet) : (updCarpet s id g).training = s.training := rfl
@[simp] theorem updCarpet_remote (s : State) (id : Nat) (g : Carpet → Carpet) : (updCarpet s id g).remote = s.remote := rfl
@[simp] theorem updCarpet_bar4 (s : State) (id : Nat) (g : Carpet → Carpet) : (updCarpet s id g).bar4 = s.bar4 := rfl
@[simp] theorem updCarpet_bar2 (s : State) (id : Nat) (g : Carpet → Carpet) : (updCarpet s id g).bar2 = s.bar2 := rfl
@[simp] theorem updCarpet_barWait (s : State) (id : Nat) (g : Carpet → Carpet) : (updCarpet s id g).barWait = s.barWait := rfl
@[simp] theorem updCarpet_linkWait (s : State) (id : Nat) (g : Carpet → Carpet) : (updCarpet s id g).linkWait = s.linkWait := rfl
@[simp] theorem updCarpet_suspendedAt (s : State) (id : Nat) (g : Carpet → Carpet) : (updCarpet s id g).suspendedAt = s.suspendedAt := rfl
@[simp] theorem updCarpet_suspendWb (s : State) (id : Nat) (g : Carpet → Carpet) : (updCarpet s id g).suspendWb = s.suspendWb := rfl
@[simp] theorem updCarpet_haltSince (s : State) (id : Nat) (g : Carpet → Carpet) : (updCarpet s id g).haltSince = s.haltSince := rfl
@[simp] theorem updCarpet_imageReload (s : State) (id : Nat) (g : Carpet → Carpet) : (updCarpet s id g).imageReload = s.imageReload := rfl
@[simp] theorem updCarpet_spilled (s : State) (id : Nat) (g : Carpet → Carpet) : (updCarpet s id g).spilled = s.spilled := rfl
@[simp] theorem updCarpet_hostData (s : State) (id : Nat) (g : Carpet → Carpet) : (updCarpet s id g).hostData = s.hostData := rfl
@[simp] theorem updCarpet_nextId (s : State) (id : Nat) (g : Carpet → Carpet) : (updCarpet s id g).nextId = s.nextId := rfl
@[simp] theorem updCarpet_oracle (s : State) (id : Nat) (g : Carpet → Carpet) : (updCarpet s id g).oracle = s.oracle := rfl
@[simp] theorem updCarpet_focus (s : State) (id : Nat) (g : Carpet → Carpet) : (updCarpet s id g).focus = s.focus := rfl
@[simp] theorem updCarpet_cyc (s : State) (id : Nat) (g : Carpet → Carpet) : (updCarpet s id g).cyc = s.cyc := rfl
@[simp] theorem updCarpet_agenda (s : State) (id : Nat) (g : Carpet → Carpet) : (updCarpet s id g).agenda = s.agenda := rfl

@[simp] theorem updFrond_ctl (s : State) (fr : Nat) (g : Frond → Frond) : (updFrond s fr g).ctl = s.ctl := rfl
@[simp] theorem updFrond_clock (s : State) (fr : Nat) (g : Frond → Frond) : (updFrond s fr g).clock = s.clock := rfl
@[simp] theorem updFrond_running (s : State) (fr : Nat) (g : Frond → Frond) : (updFrond s fr g).running = s.running := rfl
@[simp] theorem updFrond_mem (s : State) (fr : Nat) (g : Frond → Frond) : (updFrond s fr g).mem = s.mem := rfl
@[simp] theorem updFrond_l2data (s : State) (fr : Nat) (g : Frond → Frond) : (updFrond s fr g).l2data = s.l2data := rfl
@[simp] theorem updFrond_l2 (s : State) (fr : Nat) (g : Frond → Frond) : (updFrond s fr g).l2 = s.l2 := rfl
@[simp] theorem updFrond_l1 (s : State) (fr : Nat) (g : Frond → Frond) : (updFrond s fr g).l1 = s.l1 := rfl
@[simp] theorem updFrond_meta_ (s : State) (fr : Nat) (g : Frond → Frond) : (updFrond s fr g).meta_ = s.meta_ := rfl
@[simp] theorem updFrond_poison (s : State) (fr : Nat) (g : Frond → Frond) : (updFrond s fr g).poison = s.poison := rfl
@[simp] theorem updFrond_coreTlb (s : State) (fr : Nat) (g : Frond → Frond) : (updFrond s fr g).coreTlb = s.coreTlb := rfl
@[simp] theorem updFrond_dieTlb (s : State) (fr : Nat) (g : Frond → Frond) : (updFrond s fr g).dieTlb = s.dieTlb := rfl
@[simp] theorem updFrond_walks (s : State) (fr : Nat) (g : Frond → Frond) : (updFrond s fr g).walks = s.walks := rfl
@[simp] theorem updFrond_inval (s : State) (fr : Nat) (g : Frond → Frond) : (updFrond s fr g).inval = s.inval := rfl
@[simp] theorem updFrond_carpets (s : State) (fr : Nat) (g : Frond → Frond) : (updFrond s fr g).carpets = s.carpets := rfl
@[simp] theorem updFrond_packets (s : State) (fr : Nat) (g : Frond → Frond) : (updFrond s fr g).packets = s.packets := rfl
@[simp] theorem updFrond_cushions (s : State) (fr : Nat) (g : Frond → Frond) : (updFrond s fr g).cushions = s.cushions := rfl
@[simp] theorem updFrond_fibres (s : State) (fr : Nat) (g : Frond → Frond) : (updFrond s fr g).fibres = s.fibres := rfl
@[simp] theorem updFrond_slots (s : State) (fr : Nat) (g : Frond → Frond) : (updFrond s fr g).slots = s.slots := rfl
@[simp] theorem updFrond_reqs (s : State) (fr : Nat) (g : Frond → Frond) : (updFrond s fr g).reqs = s.reqs := rfl
@[simp] theorem updFrond_replies (s : State) (fr : Nat) (g : Frond → Frond) : (updFrond s fr g).replies = s.replies := rfl
@[simp] theorem updFrond_acks (s : State) (fr : Nat) (g : Frond → Frond) : (updFrond s fr g).acks = s.acks := rfl
@[simp] theorem updFrond_loads (s : State) (fr : Nat) (g : Frond → Frond) : (updFrond s fr g).loads = s.loads := rfl
@[simp] theorem updFrond_joins (s : State) (fr : Nat) (g : Frond → Frond) : (updFrond s fr g).joins = s.joins := rfl
@[simp] theorem updFrond_ldges (s : State) (fr : Nat) (g : Frond → Frond) : (updFrond s fr g).ldges = s.ldges := rfl
@[simp] theorem updFrond_held (s : State) (fr : Nat) (g : Frond → Frond) : (updFrond s fr g).held = s.held := rfl
@[simp] theorem updFrond_wbs (s : State) (fr : Nat) (g : Frond → Frond) : (updFrond s fr g).wbs = s.wbs := rfl
@[simp] theorem updFrond_resizes (s : State) (fr : Nat) (g : Frond → Frond) : (updFrond s fr g).resizes = s.resizes := rfl
@[simp] theorem updFrond_nextTicket (s : State) (fr : Nat) (g : Frond → Frond) : (updFrond s fr g).nextTicket = s.nextTicket := rfl
@[simp] theorem updFrond_replicas (s : State) (fr : Nat) (g : Frond → Frond) : (updFrond s fr g).replicas = s.replicas := rfl
@[simp] theorem updFrond_dirty (s : State) (fr : Nat) (g : Frond → Frond) : (updFrond s fr g).dirty = s.dirty := rfl
@[simp] theorem updFrond_exchanges (s : State) (fr : Nat) (g : Frond → Frond) : (updFrond s fr g).exchanges = s.exchanges := rfl
@[simp] theorem updFrond_fireDue (s : State) (fr : Nat) (g : Frond → Frond) : (updFrond s fr g).fireDue = s.fireDue := rfl
@[simp] theorem updFrond_syncs (s : State) (fr : Nat) (g : Frond → Frond) : (updFrond s fr g).syncs = s.syncs := rfl
@[simp] theorem updFrond_engines (s : State) (fr : Nat) (g : Frond → Frond) : (updFrond s fr g).engines = s.engines := rfl
@[simp] theorem updFrond_decoders (s : State) (fr : Nat) (g : Frond → Frond) : (updFrond s fr g).decoders = s.decoders := rfl
@[simp] theorem updFrond_jobs (s : State) (fr : Nat) (g : Frond → Frond) : (updFrond s fr g).jobs = s.jobs := rfl
@[simp] theorem updFrond_power (s : State) (fr : Nat) (g : Frond → Frond) : (updFrond s fr g).power = s.power := rfl
@[simp] theorem updFrond_landing (s : State) (fr : Nat) (g : Frond → Frond) : (updFrond s fr g).landing = s.landing := rfl
@[simp] theorem updFrond_queued (s : State) (fr : Nat) (g : Frond → Frond) : (updFrond s fr g).queued = s.queued := rfl
@[simp] theorem updFrond_posted (s : State) (fr : Nat) (g : Frond → Frond) : (updFrond s fr g).posted = s.posted := rfl
@[simp] theorem updFrond_detects (s : State) (fr : Nat) (g : Frond → Frond) : (updFrond s fr g).detects = s.detects := rfl
@[simp] theorem updFrond_holds (s : State) (fr : Nat) (g : Frond → Frond) : (updFrond s fr g).holds = s.holds := rfl
@[simp] theorem updFrond_deviceSeq (s : State) (fr : Nat) (g : Frond → Frond) : (updFrond s fr g).deviceSeq = s.deviceSeq := rfl
@[simp] theorem updFrond_barFrozen (s : State) (fr : Nat) (g : Frond → Frond) : (updFrond s fr g).barFrozen = s.barFrozen := rfl
@[simp] theorem updFrond_portsFrozen (s : State) (fr : Nat) (g : Frond → Frond) : (updFrond s fr g).portsFrozen = s.portsFrozen := rfl
@[simp] theorem updFrond_hostUp (s : State) (fr : Nat) (g : Frond → Frond) : (updFrond s fr g).hostUp = s.hostUp := rfl
@[simp] theorem updFrond_irqHeld (s : State) (fr : Nat) (g : Frond → Frond) : (updFrond s fr g).irqHeld = s.irqHeld := rfl
@[simp] theorem updFrond_irqOwed (s : State) (fr : Nat) (g : Frond → Frond) : (updFrond s fr g).irqOwed = s.irqOwed := rfl
@[simp] theorem updFrond_msix (s : State) (fr : Nat) (g : Frond → Frond) : (updFrond s fr g).msix = s.msix := rfl
@[simp] theorem updFrond_linkOut (s : State) (fr : Nat) (g : Frond → Frond) : (updFrond s fr g).linkOut = s.linkOut := rfl
@[simp] theorem updFrond_linkFails (s : State) (fr : Nat) (g : Frond → Frond) : (updFrond s fr g).linkFails = s.linkFails := rfl
@[simp] theorem updFrond_training (s : State) (fr : Nat) (g : Frond → Frond) : (updFrond s fr g).training = s.training := rfl
@[simp] theorem updFrond_remote (s : State) (fr : Nat) (g : Frond → Frond) : (updFrond s fr g).remote = s.remote := rfl
@[simp] theorem updFrond_bar4 (s : State) (fr : Nat) (g : Frond → Frond) : (updFrond s fr g).bar4 = s.bar4 := rfl
@[simp] theorem updFrond_bar2 (s : State) (fr : Nat) (g : Frond → Frond) : (updFrond s fr g).bar2 = s.bar2 := rfl
@[simp] theorem updFrond_barWait (s : State) (fr : Nat) (g : Frond → Frond) : (updFrond s fr g).barWait = s.barWait := rfl
@[simp] theorem updFrond_linkWait (s : State) (fr : Nat) (g : Frond → Frond) : (updFrond s fr g).linkWait = s.linkWait := rfl
@[simp] theorem updFrond_suspendedAt (s : State) (fr : Nat) (g : Frond → Frond) : (updFrond s fr g).suspendedAt = s.suspendedAt := rfl
@[simp] theorem updFrond_suspendWb (s : State) (fr : Nat) (g : Frond → Frond) : (updFrond s fr g).suspendWb = s.suspendWb := rfl
@[simp] theorem updFrond_haltSince (s : State) (fr : Nat) (g : Frond → Frond) : (updFrond s fr g).haltSince = s.haltSince := rfl
@[simp] theorem updFrond_imageReload (s : State) (fr : Nat) (g : Frond → Frond) : (updFrond s fr g).imageReload = s.imageReload := rfl
@[simp] theorem updFrond_spilled (s : State) (fr : Nat) (g : Frond → Frond) : (updFrond s fr g).spilled = s.spilled := rfl
@[simp] theorem updFrond_hostData (s : State) (fr : Nat) (g : Frond → Frond) : (updFrond s fr g).hostData = s.hostData := rfl
@[simp] theorem updFrond_nextId (s : State) (fr : Nat) (g : Frond → Frond) : (updFrond s fr g).nextId = s.nextId := rfl
@[simp] theorem updFrond_oracle (s : State) (fr : Nat) (g : Frond → Frond) : (updFrond s fr g).oracle = s.oracle := rfl
@[simp] theorem updFrond_focus (s : State) (fr : Nat) (g : Frond → Frond) : (updFrond s fr g).focus = s.focus := rfl
@[simp] theorem updFrond_cyc (s : State) (fr : Nat) (g : Frond → Frond) : (updFrond s fr g).cyc = s.cyc := rfl
@[simp] theorem updFrond_agenda (s : State) (fr : Nat) (g : Frond → Frond) : (updFrond s fr g).agenda = s.agenda := rfl

@[simp] theorem updSlot_ctl (s : State) (core slot : Nat) (g : IssueSlot → IssueSlot) : (updSlot s core slot g).ctl = s.ctl := rfl
@[simp] theorem updSlot_clock (s : State) (core slot : Nat) (g : IssueSlot → IssueSlot) : (updSlot s core slot g).clock = s.clock := rfl
@[simp] theorem updSlot_running (s : State) (core slot : Nat) (g : IssueSlot → IssueSlot) : (updSlot s core slot g).running = s.running := rfl
@[simp] theorem updSlot_mem (s : State) (core slot : Nat) (g : IssueSlot → IssueSlot) : (updSlot s core slot g).mem = s.mem := rfl
@[simp] theorem updSlot_l2data (s : State) (core slot : Nat) (g : IssueSlot → IssueSlot) : (updSlot s core slot g).l2data = s.l2data := rfl
@[simp] theorem updSlot_l2 (s : State) (core slot : Nat) (g : IssueSlot → IssueSlot) : (updSlot s core slot g).l2 = s.l2 := rfl
@[simp] theorem updSlot_l1 (s : State) (core slot : Nat) (g : IssueSlot → IssueSlot) : (updSlot s core slot g).l1 = s.l1 := rfl
@[simp] theorem updSlot_meta_ (s : State) (core slot : Nat) (g : IssueSlot → IssueSlot) : (updSlot s core slot g).meta_ = s.meta_ := rfl
@[simp] theorem updSlot_poison (s : State) (core slot : Nat) (g : IssueSlot → IssueSlot) : (updSlot s core slot g).poison = s.poison := rfl
@[simp] theorem updSlot_coreTlb (s : State) (core slot : Nat) (g : IssueSlot → IssueSlot) : (updSlot s core slot g).coreTlb = s.coreTlb := rfl
@[simp] theorem updSlot_dieTlb (s : State) (core slot : Nat) (g : IssueSlot → IssueSlot) : (updSlot s core slot g).dieTlb = s.dieTlb := rfl
@[simp] theorem updSlot_walks (s : State) (core slot : Nat) (g : IssueSlot → IssueSlot) : (updSlot s core slot g).walks = s.walks := rfl
@[simp] theorem updSlot_inval (s : State) (core slot : Nat) (g : IssueSlot → IssueSlot) : (updSlot s core slot g).inval = s.inval := rfl
@[simp] theorem updSlot_carpets (s : State) (core slot : Nat) (g : IssueSlot → IssueSlot) : (updSlot s core slot g).carpets = s.carpets := rfl
@[simp] theorem updSlot_packets (s : State) (core slot : Nat) (g : IssueSlot → IssueSlot) : (updSlot s core slot g).packets = s.packets := rfl
@[simp] theorem updSlot_cushions (s : State) (core slot : Nat) (g : IssueSlot → IssueSlot) : (updSlot s core slot g).cushions = s.cushions := rfl
@[simp] theorem updSlot_fibres (s : State) (core slot : Nat) (g : IssueSlot → IssueSlot) : (updSlot s core slot g).fibres = s.fibres := rfl
@[simp] theorem updSlot_fronds (s : State) (core slot : Nat) (g : IssueSlot → IssueSlot) : (updSlot s core slot g).fronds = s.fronds := rfl
@[simp] theorem updSlot_reqs (s : State) (core slot : Nat) (g : IssueSlot → IssueSlot) : (updSlot s core slot g).reqs = s.reqs := rfl
@[simp] theorem updSlot_replies (s : State) (core slot : Nat) (g : IssueSlot → IssueSlot) : (updSlot s core slot g).replies = s.replies := rfl
@[simp] theorem updSlot_acks (s : State) (core slot : Nat) (g : IssueSlot → IssueSlot) : (updSlot s core slot g).acks = s.acks := rfl
@[simp] theorem updSlot_loads (s : State) (core slot : Nat) (g : IssueSlot → IssueSlot) : (updSlot s core slot g).loads = s.loads := rfl
@[simp] theorem updSlot_joins (s : State) (core slot : Nat) (g : IssueSlot → IssueSlot) : (updSlot s core slot g).joins = s.joins := rfl
@[simp] theorem updSlot_ldges (s : State) (core slot : Nat) (g : IssueSlot → IssueSlot) : (updSlot s core slot g).ldges = s.ldges := rfl
@[simp] theorem updSlot_held (s : State) (core slot : Nat) (g : IssueSlot → IssueSlot) : (updSlot s core slot g).held = s.held := rfl
@[simp] theorem updSlot_wbs (s : State) (core slot : Nat) (g : IssueSlot → IssueSlot) : (updSlot s core slot g).wbs = s.wbs := rfl
@[simp] theorem updSlot_resizes (s : State) (core slot : Nat) (g : IssueSlot → IssueSlot) : (updSlot s core slot g).resizes = s.resizes := rfl
@[simp] theorem updSlot_nextTicket (s : State) (core slot : Nat) (g : IssueSlot → IssueSlot) : (updSlot s core slot g).nextTicket = s.nextTicket := rfl
@[simp] theorem updSlot_replicas (s : State) (core slot : Nat) (g : IssueSlot → IssueSlot) : (updSlot s core slot g).replicas = s.replicas := rfl
@[simp] theorem updSlot_dirty (s : State) (core slot : Nat) (g : IssueSlot → IssueSlot) : (updSlot s core slot g).dirty = s.dirty := rfl
@[simp] theorem updSlot_exchanges (s : State) (core slot : Nat) (g : IssueSlot → IssueSlot) : (updSlot s core slot g).exchanges = s.exchanges := rfl
@[simp] theorem updSlot_fireDue (s : State) (core slot : Nat) (g : IssueSlot → IssueSlot) : (updSlot s core slot g).fireDue = s.fireDue := rfl
@[simp] theorem updSlot_syncs (s : State) (core slot : Nat) (g : IssueSlot → IssueSlot) : (updSlot s core slot g).syncs = s.syncs := rfl
@[simp] theorem updSlot_engines (s : State) (core slot : Nat) (g : IssueSlot → IssueSlot) : (updSlot s core slot g).engines = s.engines := rfl
@[simp] theorem updSlot_decoders (s : State) (core slot : Nat) (g : IssueSlot → IssueSlot) : (updSlot s core slot g).decoders = s.decoders := rfl
@[simp] theorem updSlot_jobs (s : State) (core slot : Nat) (g : IssueSlot → IssueSlot) : (updSlot s core slot g).jobs = s.jobs := rfl
@[simp] theorem updSlot_power (s : State) (core slot : Nat) (g : IssueSlot → IssueSlot) : (updSlot s core slot g).power = s.power := rfl
@[simp] theorem updSlot_landing (s : State) (core slot : Nat) (g : IssueSlot → IssueSlot) : (updSlot s core slot g).landing = s.landing := rfl
@[simp] theorem updSlot_queued (s : State) (core slot : Nat) (g : IssueSlot → IssueSlot) : (updSlot s core slot g).queued = s.queued := rfl
@[simp] theorem updSlot_posted (s : State) (core slot : Nat) (g : IssueSlot → IssueSlot) : (updSlot s core slot g).posted = s.posted := rfl
@[simp] theorem updSlot_detects (s : State) (core slot : Nat) (g : IssueSlot → IssueSlot) : (updSlot s core slot g).detects = s.detects := rfl
@[simp] theorem updSlot_holds (s : State) (core slot : Nat) (g : IssueSlot → IssueSlot) : (updSlot s core slot g).holds = s.holds := rfl
@[simp] theorem updSlot_deviceSeq (s : State) (core slot : Nat) (g : IssueSlot → IssueSlot) : (updSlot s core slot g).deviceSeq = s.deviceSeq := rfl
@[simp] theorem updSlot_barFrozen (s : State) (core slot : Nat) (g : IssueSlot → IssueSlot) : (updSlot s core slot g).barFrozen = s.barFrozen := rfl
@[simp] theorem updSlot_portsFrozen (s : State) (core slot : Nat) (g : IssueSlot → IssueSlot) : (updSlot s core slot g).portsFrozen = s.portsFrozen := rfl
@[simp] theorem updSlot_hostUp (s : State) (core slot : Nat) (g : IssueSlot → IssueSlot) : (updSlot s core slot g).hostUp = s.hostUp := rfl
@[simp] theorem updSlot_irqHeld (s : State) (core slot : Nat) (g : IssueSlot → IssueSlot) : (updSlot s core slot g).irqHeld = s.irqHeld := rfl
@[simp] theorem updSlot_irqOwed (s : State) (core slot : Nat) (g : IssueSlot → IssueSlot) : (updSlot s core slot g).irqOwed = s.irqOwed := rfl
@[simp] theorem updSlot_msix (s : State) (core slot : Nat) (g : IssueSlot → IssueSlot) : (updSlot s core slot g).msix = s.msix := rfl
@[simp] theorem updSlot_linkOut (s : State) (core slot : Nat) (g : IssueSlot → IssueSlot) : (updSlot s core slot g).linkOut = s.linkOut := rfl
@[simp] theorem updSlot_linkFails (s : State) (core slot : Nat) (g : IssueSlot → IssueSlot) : (updSlot s core slot g).linkFails = s.linkFails := rfl
@[simp] theorem updSlot_training (s : State) (core slot : Nat) (g : IssueSlot → IssueSlot) : (updSlot s core slot g).training = s.training := rfl
@[simp] theorem updSlot_remote (s : State) (core slot : Nat) (g : IssueSlot → IssueSlot) : (updSlot s core slot g).remote = s.remote := rfl
@[simp] theorem updSlot_bar4 (s : State) (core slot : Nat) (g : IssueSlot → IssueSlot) : (updSlot s core slot g).bar4 = s.bar4 := rfl
@[simp] theorem updSlot_bar2 (s : State) (core slot : Nat) (g : IssueSlot → IssueSlot) : (updSlot s core slot g).bar2 = s.bar2 := rfl
@[simp] theorem updSlot_barWait (s : State) (core slot : Nat) (g : IssueSlot → IssueSlot) : (updSlot s core slot g).barWait = s.barWait := rfl
@[simp] theorem updSlot_linkWait (s : State) (core slot : Nat) (g : IssueSlot → IssueSlot) : (updSlot s core slot g).linkWait = s.linkWait := rfl
@[simp] theorem updSlot_suspendedAt (s : State) (core slot : Nat) (g : IssueSlot → IssueSlot) : (updSlot s core slot g).suspendedAt = s.suspendedAt := rfl
@[simp] theorem updSlot_suspendWb (s : State) (core slot : Nat) (g : IssueSlot → IssueSlot) : (updSlot s core slot g).suspendWb = s.suspendWb := rfl
@[simp] theorem updSlot_haltSince (s : State) (core slot : Nat) (g : IssueSlot → IssueSlot) : (updSlot s core slot g).haltSince = s.haltSince := rfl
@[simp] theorem updSlot_imageReload (s : State) (core slot : Nat) (g : IssueSlot → IssueSlot) : (updSlot s core slot g).imageReload = s.imageReload := rfl
@[simp] theorem updSlot_spilled (s : State) (core slot : Nat) (g : IssueSlot → IssueSlot) : (updSlot s core slot g).spilled = s.spilled := rfl
@[simp] theorem updSlot_hostData (s : State) (core slot : Nat) (g : IssueSlot → IssueSlot) : (updSlot s core slot g).hostData = s.hostData := rfl
@[simp] theorem updSlot_nextId (s : State) (core slot : Nat) (g : IssueSlot → IssueSlot) : (updSlot s core slot g).nextId = s.nextId := rfl
@[simp] theorem updSlot_oracle (s : State) (core slot : Nat) (g : IssueSlot → IssueSlot) : (updSlot s core slot g).oracle = s.oracle := rfl
@[simp] theorem updSlot_focus (s : State) (core slot : Nat) (g : IssueSlot → IssueSlot) : (updSlot s core slot g).focus = s.focus := rfl
@[simp] theorem updSlot_cyc (s : State) (core slot : Nat) (g : IssueSlot → IssueSlot) : (updSlot s core slot g).cyc = s.cyc := rfl
@[simp] theorem updSlot_agenda (s : State) (core slot : Nat) (g : IssueSlot → IssueSlot) : (updSlot s core slot g).agenda = s.agenda := rfl

@[simp] theorem setPc_ctl (s : State) (fids : List Nat) (pc : DWord) : (setPc s fids pc).ctl = s.ctl := rfl
@[simp] theorem setPc_clock (s : State) (fids : List Nat) (pc : DWord) : (setPc s fids pc).clock = s.clock := rfl
@[simp] theorem setPc_running (s : State) (fids : List Nat) (pc : DWord) : (setPc s fids pc).running = s.running := rfl
@[simp] theorem setPc_mem (s : State) (fids : List Nat) (pc : DWord) : (setPc s fids pc).mem = s.mem := rfl
@[simp] theorem setPc_l2data (s : State) (fids : List Nat) (pc : DWord) : (setPc s fids pc).l2data = s.l2data := rfl
@[simp] theorem setPc_l2 (s : State) (fids : List Nat) (pc : DWord) : (setPc s fids pc).l2 = s.l2 := rfl
@[simp] theorem setPc_l1 (s : State) (fids : List Nat) (pc : DWord) : (setPc s fids pc).l1 = s.l1 := rfl
@[simp] theorem setPc_meta_ (s : State) (fids : List Nat) (pc : DWord) : (setPc s fids pc).meta_ = s.meta_ := rfl
@[simp] theorem setPc_poison (s : State) (fids : List Nat) (pc : DWord) : (setPc s fids pc).poison = s.poison := rfl
@[simp] theorem setPc_coreTlb (s : State) (fids : List Nat) (pc : DWord) : (setPc s fids pc).coreTlb = s.coreTlb := rfl
@[simp] theorem setPc_dieTlb (s : State) (fids : List Nat) (pc : DWord) : (setPc s fids pc).dieTlb = s.dieTlb := rfl
@[simp] theorem setPc_walks (s : State) (fids : List Nat) (pc : DWord) : (setPc s fids pc).walks = s.walks := rfl
@[simp] theorem setPc_inval (s : State) (fids : List Nat) (pc : DWord) : (setPc s fids pc).inval = s.inval := rfl
@[simp] theorem setPc_carpets (s : State) (fids : List Nat) (pc : DWord) : (setPc s fids pc).carpets = s.carpets := rfl
@[simp] theorem setPc_packets (s : State) (fids : List Nat) (pc : DWord) : (setPc s fids pc).packets = s.packets := rfl
@[simp] theorem setPc_cushions (s : State) (fids : List Nat) (pc : DWord) : (setPc s fids pc).cushions = s.cushions := rfl
@[simp] theorem setPc_fronds (s : State) (fids : List Nat) (pc : DWord) : (setPc s fids pc).fronds = s.fronds := rfl
@[simp] theorem setPc_slots (s : State) (fids : List Nat) (pc : DWord) : (setPc s fids pc).slots = s.slots := rfl
@[simp] theorem setPc_reqs (s : State) (fids : List Nat) (pc : DWord) : (setPc s fids pc).reqs = s.reqs := rfl
@[simp] theorem setPc_replies (s : State) (fids : List Nat) (pc : DWord) : (setPc s fids pc).replies = s.replies := rfl
@[simp] theorem setPc_acks (s : State) (fids : List Nat) (pc : DWord) : (setPc s fids pc).acks = s.acks := rfl
@[simp] theorem setPc_loads (s : State) (fids : List Nat) (pc : DWord) : (setPc s fids pc).loads = s.loads := rfl
@[simp] theorem setPc_joins (s : State) (fids : List Nat) (pc : DWord) : (setPc s fids pc).joins = s.joins := rfl
@[simp] theorem setPc_ldges (s : State) (fids : List Nat) (pc : DWord) : (setPc s fids pc).ldges = s.ldges := rfl
@[simp] theorem setPc_held (s : State) (fids : List Nat) (pc : DWord) : (setPc s fids pc).held = s.held := rfl
@[simp] theorem setPc_wbs (s : State) (fids : List Nat) (pc : DWord) : (setPc s fids pc).wbs = s.wbs := rfl
@[simp] theorem setPc_resizes (s : State) (fids : List Nat) (pc : DWord) : (setPc s fids pc).resizes = s.resizes := rfl
@[simp] theorem setPc_nextTicket (s : State) (fids : List Nat) (pc : DWord) : (setPc s fids pc).nextTicket = s.nextTicket := rfl
@[simp] theorem setPc_replicas (s : State) (fids : List Nat) (pc : DWord) : (setPc s fids pc).replicas = s.replicas := rfl
@[simp] theorem setPc_dirty (s : State) (fids : List Nat) (pc : DWord) : (setPc s fids pc).dirty = s.dirty := rfl
@[simp] theorem setPc_exchanges (s : State) (fids : List Nat) (pc : DWord) : (setPc s fids pc).exchanges = s.exchanges := rfl
@[simp] theorem setPc_fireDue (s : State) (fids : List Nat) (pc : DWord) : (setPc s fids pc).fireDue = s.fireDue := rfl
@[simp] theorem setPc_syncs (s : State) (fids : List Nat) (pc : DWord) : (setPc s fids pc).syncs = s.syncs := rfl
@[simp] theorem setPc_engines (s : State) (fids : List Nat) (pc : DWord) : (setPc s fids pc).engines = s.engines := rfl
@[simp] theorem setPc_decoders (s : State) (fids : List Nat) (pc : DWord) : (setPc s fids pc).decoders = s.decoders := rfl
@[simp] theorem setPc_jobs (s : State) (fids : List Nat) (pc : DWord) : (setPc s fids pc).jobs = s.jobs := rfl
@[simp] theorem setPc_power (s : State) (fids : List Nat) (pc : DWord) : (setPc s fids pc).power = s.power := rfl
@[simp] theorem setPc_landing (s : State) (fids : List Nat) (pc : DWord) : (setPc s fids pc).landing = s.landing := rfl
@[simp] theorem setPc_queued (s : State) (fids : List Nat) (pc : DWord) : (setPc s fids pc).queued = s.queued := rfl
@[simp] theorem setPc_posted (s : State) (fids : List Nat) (pc : DWord) : (setPc s fids pc).posted = s.posted := rfl
@[simp] theorem setPc_detects (s : State) (fids : List Nat) (pc : DWord) : (setPc s fids pc).detects = s.detects := rfl
@[simp] theorem setPc_holds (s : State) (fids : List Nat) (pc : DWord) : (setPc s fids pc).holds = s.holds := rfl
@[simp] theorem setPc_deviceSeq (s : State) (fids : List Nat) (pc : DWord) : (setPc s fids pc).deviceSeq = s.deviceSeq := rfl
@[simp] theorem setPc_barFrozen (s : State) (fids : List Nat) (pc : DWord) : (setPc s fids pc).barFrozen = s.barFrozen := rfl
@[simp] theorem setPc_portsFrozen (s : State) (fids : List Nat) (pc : DWord) : (setPc s fids pc).portsFrozen = s.portsFrozen := rfl
@[simp] theorem setPc_hostUp (s : State) (fids : List Nat) (pc : DWord) : (setPc s fids pc).hostUp = s.hostUp := rfl
@[simp] theorem setPc_irqHeld (s : State) (fids : List Nat) (pc : DWord) : (setPc s fids pc).irqHeld = s.irqHeld := rfl
@[simp] theorem setPc_irqOwed (s : State) (fids : List Nat) (pc : DWord) : (setPc s fids pc).irqOwed = s.irqOwed := rfl
@[simp] theorem setPc_msix (s : State) (fids : List Nat) (pc : DWord) : (setPc s fids pc).msix = s.msix := rfl
@[simp] theorem setPc_linkOut (s : State) (fids : List Nat) (pc : DWord) : (setPc s fids pc).linkOut = s.linkOut := rfl
@[simp] theorem setPc_linkFails (s : State) (fids : List Nat) (pc : DWord) : (setPc s fids pc).linkFails = s.linkFails := rfl
@[simp] theorem setPc_training (s : State) (fids : List Nat) (pc : DWord) : (setPc s fids pc).training = s.training := rfl
@[simp] theorem setPc_remote (s : State) (fids : List Nat) (pc : DWord) : (setPc s fids pc).remote = s.remote := rfl
@[simp] theorem setPc_bar4 (s : State) (fids : List Nat) (pc : DWord) : (setPc s fids pc).bar4 = s.bar4 := rfl
@[simp] theorem setPc_bar2 (s : State) (fids : List Nat) (pc : DWord) : (setPc s fids pc).bar2 = s.bar2 := rfl
@[simp] theorem setPc_barWait (s : State) (fids : List Nat) (pc : DWord) : (setPc s fids pc).barWait = s.barWait := rfl
@[simp] theorem setPc_linkWait (s : State) (fids : List Nat) (pc : DWord) : (setPc s fids pc).linkWait = s.linkWait := rfl
@[simp] theorem setPc_suspendedAt (s : State) (fids : List Nat) (pc : DWord) : (setPc s fids pc).suspendedAt = s.suspendedAt := rfl
@[simp] theorem setPc_suspendWb (s : State) (fids : List Nat) (pc : DWord) : (setPc s fids pc).suspendWb = s.suspendWb := rfl
@[simp] theorem setPc_haltSince (s : State) (fids : List Nat) (pc : DWord) : (setPc s fids pc).haltSince = s.haltSince := rfl
@[simp] theorem setPc_imageReload (s : State) (fids : List Nat) (pc : DWord) : (setPc s fids pc).imageReload = s.imageReload := rfl
@[simp] theorem setPc_spilled (s : State) (fids : List Nat) (pc : DWord) : (setPc s fids pc).spilled = s.spilled := rfl
@[simp] theorem setPc_hostData (s : State) (fids : List Nat) (pc : DWord) : (setPc s fids pc).hostData = s.hostData := rfl
@[simp] theorem setPc_nextId (s : State) (fids : List Nat) (pc : DWord) : (setPc s fids pc).nextId = s.nextId := rfl
@[simp] theorem setPc_oracle (s : State) (fids : List Nat) (pc : DWord) : (setPc s fids pc).oracle = s.oracle := rfl
@[simp] theorem setPc_focus (s : State) (fids : List Nat) (pc : DWord) : (setPc s fids pc).focus = s.focus := rfl
@[simp] theorem setPc_cyc (s : State) (fids : List Nat) (pc : DWord) : (setPc s fids pc).cyc = s.cyc := rfl
@[simp] theorem setPc_agenda (s : State) (fids : List Nat) (pc : DWord) : (setPc s fids pc).agenda = s.agenda := rfl

@[simp] theorem ctlSet_clock (s : State) (o : Nat) (w : DWord) : (ctlSet s o w).clock = s.clock := rfl
@[simp] theorem ctlSet_running (s : State) (o : Nat) (w : DWord) : (ctlSet s o w).running = s.running := rfl
@[simp] theorem ctlSet_mem (s : State) (o : Nat) (w : DWord) : (ctlSet s o w).mem = s.mem := rfl
@[simp] theorem ctlSet_l2data (s : State) (o : Nat) (w : DWord) : (ctlSet s o w).l2data = s.l2data := rfl
@[simp] theorem ctlSet_l2 (s : State) (o : Nat) (w : DWord) : (ctlSet s o w).l2 = s.l2 := rfl
@[simp] theorem ctlSet_l1 (s : State) (o : Nat) (w : DWord) : (ctlSet s o w).l1 = s.l1 := rfl
@[simp] theorem ctlSet_meta_ (s : State) (o : Nat) (w : DWord) : (ctlSet s o w).meta_ = s.meta_ := rfl
@[simp] theorem ctlSet_poison (s : State) (o : Nat) (w : DWord) : (ctlSet s o w).poison = s.poison := rfl
@[simp] theorem ctlSet_coreTlb (s : State) (o : Nat) (w : DWord) : (ctlSet s o w).coreTlb = s.coreTlb := rfl
@[simp] theorem ctlSet_dieTlb (s : State) (o : Nat) (w : DWord) : (ctlSet s o w).dieTlb = s.dieTlb := rfl
@[simp] theorem ctlSet_walks (s : State) (o : Nat) (w : DWord) : (ctlSet s o w).walks = s.walks := rfl
@[simp] theorem ctlSet_inval (s : State) (o : Nat) (w : DWord) : (ctlSet s o w).inval = s.inval := rfl
@[simp] theorem ctlSet_carpets (s : State) (o : Nat) (w : DWord) : (ctlSet s o w).carpets = s.carpets := rfl
@[simp] theorem ctlSet_packets (s : State) (o : Nat) (w : DWord) : (ctlSet s o w).packets = s.packets := rfl
@[simp] theorem ctlSet_cushions (s : State) (o : Nat) (w : DWord) : (ctlSet s o w).cushions = s.cushions := rfl
@[simp] theorem ctlSet_fibres (s : State) (o : Nat) (w : DWord) : (ctlSet s o w).fibres = s.fibres := rfl
@[simp] theorem ctlSet_fronds (s : State) (o : Nat) (w : DWord) : (ctlSet s o w).fronds = s.fronds := rfl
@[simp] theorem ctlSet_slots (s : State) (o : Nat) (w : DWord) : (ctlSet s o w).slots = s.slots := rfl
@[simp] theorem ctlSet_reqs (s : State) (o : Nat) (w : DWord) : (ctlSet s o w).reqs = s.reqs := rfl
@[simp] theorem ctlSet_replies (s : State) (o : Nat) (w : DWord) : (ctlSet s o w).replies = s.replies := rfl
@[simp] theorem ctlSet_acks (s : State) (o : Nat) (w : DWord) : (ctlSet s o w).acks = s.acks := rfl
@[simp] theorem ctlSet_loads (s : State) (o : Nat) (w : DWord) : (ctlSet s o w).loads = s.loads := rfl
@[simp] theorem ctlSet_joins (s : State) (o : Nat) (w : DWord) : (ctlSet s o w).joins = s.joins := rfl
@[simp] theorem ctlSet_ldges (s : State) (o : Nat) (w : DWord) : (ctlSet s o w).ldges = s.ldges := rfl
@[simp] theorem ctlSet_held (s : State) (o : Nat) (w : DWord) : (ctlSet s o w).held = s.held := rfl
@[simp] theorem ctlSet_wbs (s : State) (o : Nat) (w : DWord) : (ctlSet s o w).wbs = s.wbs := rfl
@[simp] theorem ctlSet_resizes (s : State) (o : Nat) (w : DWord) : (ctlSet s o w).resizes = s.resizes := rfl
@[simp] theorem ctlSet_nextTicket (s : State) (o : Nat) (w : DWord) : (ctlSet s o w).nextTicket = s.nextTicket := rfl
@[simp] theorem ctlSet_replicas (s : State) (o : Nat) (w : DWord) : (ctlSet s o w).replicas = s.replicas := rfl
@[simp] theorem ctlSet_dirty (s : State) (o : Nat) (w : DWord) : (ctlSet s o w).dirty = s.dirty := rfl
@[simp] theorem ctlSet_exchanges (s : State) (o : Nat) (w : DWord) : (ctlSet s o w).exchanges = s.exchanges := rfl
@[simp] theorem ctlSet_fireDue (s : State) (o : Nat) (w : DWord) : (ctlSet s o w).fireDue = s.fireDue := rfl
@[simp] theorem ctlSet_syncs (s : State) (o : Nat) (w : DWord) : (ctlSet s o w).syncs = s.syncs := rfl
@[simp] theorem ctlSet_engines (s : State) (o : Nat) (w : DWord) : (ctlSet s o w).engines = s.engines := rfl
@[simp] theorem ctlSet_decoders (s : State) (o : Nat) (w : DWord) : (ctlSet s o w).decoders = s.decoders := rfl
@[simp] theorem ctlSet_jobs (s : State) (o : Nat) (w : DWord) : (ctlSet s o w).jobs = s.jobs := rfl
@[simp] theorem ctlSet_power (s : State) (o : Nat) (w : DWord) : (ctlSet s o w).power = s.power := rfl
@[simp] theorem ctlSet_landing (s : State) (o : Nat) (w : DWord) : (ctlSet s o w).landing = s.landing := rfl
@[simp] theorem ctlSet_queued (s : State) (o : Nat) (w : DWord) : (ctlSet s o w).queued = s.queued := rfl
@[simp] theorem ctlSet_posted (s : State) (o : Nat) (w : DWord) : (ctlSet s o w).posted = s.posted := rfl
@[simp] theorem ctlSet_detects (s : State) (o : Nat) (w : DWord) : (ctlSet s o w).detects = s.detects := rfl
@[simp] theorem ctlSet_holds (s : State) (o : Nat) (w : DWord) : (ctlSet s o w).holds = s.holds := rfl
@[simp] theorem ctlSet_deviceSeq (s : State) (o : Nat) (w : DWord) : (ctlSet s o w).deviceSeq = s.deviceSeq := rfl
@[simp] theorem ctlSet_barFrozen (s : State) (o : Nat) (w : DWord) : (ctlSet s o w).barFrozen = s.barFrozen := rfl
@[simp] theorem ctlSet_portsFrozen (s : State) (o : Nat) (w : DWord) : (ctlSet s o w).portsFrozen = s.portsFrozen := rfl
@[simp] theorem ctlSet_hostUp (s : State) (o : Nat) (w : DWord) : (ctlSet s o w).hostUp = s.hostUp := rfl
@[simp] theorem ctlSet_irqHeld (s : State) (o : Nat) (w : DWord) : (ctlSet s o w).irqHeld = s.irqHeld := rfl
@[simp] theorem ctlSet_irqOwed (s : State) (o : Nat) (w : DWord) : (ctlSet s o w).irqOwed = s.irqOwed := rfl
@[simp] theorem ctlSet_msix (s : State) (o : Nat) (w : DWord) : (ctlSet s o w).msix = s.msix := rfl
@[simp] theorem ctlSet_linkOut (s : State) (o : Nat) (w : DWord) : (ctlSet s o w).linkOut = s.linkOut := rfl
@[simp] theorem ctlSet_linkFails (s : State) (o : Nat) (w : DWord) : (ctlSet s o w).linkFails = s.linkFails := rfl
@[simp] theorem ctlSet_training (s : State) (o : Nat) (w : DWord) : (ctlSet s o w).training = s.training := rfl
@[simp] theorem ctlSet_remote (s : State) (o : Nat) (w : DWord) : (ctlSet s o w).remote = s.remote := rfl
@[simp] theorem ctlSet_bar4 (s : State) (o : Nat) (w : DWord) : (ctlSet s o w).bar4 = s.bar4 := rfl
@[simp] theorem ctlSet_bar2 (s : State) (o : Nat) (w : DWord) : (ctlSet s o w).bar2 = s.bar2 := rfl
@[simp] theorem ctlSet_barWait (s : State) (o : Nat) (w : DWord) : (ctlSet s o w).barWait = s.barWait := rfl
@[simp] theorem ctlSet_linkWait (s : State) (o : Nat) (w : DWord) : (ctlSet s o w).linkWait = s.linkWait := rfl
@[simp] theorem ctlSet_suspendedAt (s : State) (o : Nat) (w : DWord) : (ctlSet s o w).suspendedAt = s.suspendedAt := rfl
@[simp] theorem ctlSet_suspendWb (s : State) (o : Nat) (w : DWord) : (ctlSet s o w).suspendWb = s.suspendWb := rfl
@[simp] theorem ctlSet_haltSince (s : State) (o : Nat) (w : DWord) : (ctlSet s o w).haltSince = s.haltSince := rfl
@[simp] theorem ctlSet_imageReload (s : State) (o : Nat) (w : DWord) : (ctlSet s o w).imageReload = s.imageReload := rfl
@[simp] theorem ctlSet_spilled (s : State) (o : Nat) (w : DWord) : (ctlSet s o w).spilled = s.spilled := rfl
@[simp] theorem ctlSet_hostData (s : State) (o : Nat) (w : DWord) : (ctlSet s o w).hostData = s.hostData := rfl
@[simp] theorem ctlSet_nextId (s : State) (o : Nat) (w : DWord) : (ctlSet s o w).nextId = s.nextId := rfl
@[simp] theorem ctlSet_oracle (s : State) (o : Nat) (w : DWord) : (ctlSet s o w).oracle = s.oracle := rfl
@[simp] theorem ctlSet_focus (s : State) (o : Nat) (w : DWord) : (ctlSet s o w).focus = s.focus := rfl
@[simp] theorem ctlSet_cyc (s : State) (o : Nat) (w : DWord) : (ctlSet s o w).cyc = s.cyc := rfl
@[simp] theorem ctlSet_agenda (s : State) (o : Nat) (w : DWord) : (ctlSet s o w).agenda = s.agenda := rfl

@[simp] theorem leaveFrond_ctl (s : State) (fr : Nat) (fids : List Nat) : (leaveFrond s fr fids).ctl = s.ctl := rfl
@[simp] theorem leaveFrond_clock (s : State) (fr : Nat) (fids : List Nat) : (leaveFrond s fr fids).clock = s.clock := rfl
@[simp] theorem leaveFrond_running (s : State) (fr : Nat) (fids : List Nat) : (leaveFrond s fr fids).running = s.running := rfl
@[simp] theorem leaveFrond_mem (s : State) (fr : Nat) (fids : List Nat) : (leaveFrond s fr fids).mem = s.mem := rfl
@[simp] theorem leaveFrond_l2data (s : State) (fr : Nat) (fids : List Nat) : (leaveFrond s fr fids).l2data = s.l2data := rfl
@[simp] theorem leaveFrond_l2 (s : State) (fr : Nat) (fids : List Nat) : (leaveFrond s fr fids).l2 = s.l2 := rfl
@[simp] theorem leaveFrond_l1 (s : State) (fr : Nat) (fids : List Nat) : (leaveFrond s fr fids).l1 = s.l1 := rfl
@[simp] theorem leaveFrond_meta_ (s : State) (fr : Nat) (fids : List Nat) : (leaveFrond s fr fids).meta_ = s.meta_ := rfl
@[simp] theorem leaveFrond_poison (s : State) (fr : Nat) (fids : List Nat) : (leaveFrond s fr fids).poison = s.poison := rfl
@[simp] theorem leaveFrond_coreTlb (s : State) (fr : Nat) (fids : List Nat) : (leaveFrond s fr fids).coreTlb = s.coreTlb := rfl
@[simp] theorem leaveFrond_dieTlb (s : State) (fr : Nat) (fids : List Nat) : (leaveFrond s fr fids).dieTlb = s.dieTlb := rfl
@[simp] theorem leaveFrond_walks (s : State) (fr : Nat) (fids : List Nat) : (leaveFrond s fr fids).walks = s.walks := rfl
@[simp] theorem leaveFrond_inval (s : State) (fr : Nat) (fids : List Nat) : (leaveFrond s fr fids).inval = s.inval := rfl
@[simp] theorem leaveFrond_carpets (s : State) (fr : Nat) (fids : List Nat) : (leaveFrond s fr fids).carpets = s.carpets := rfl
@[simp] theorem leaveFrond_packets (s : State) (fr : Nat) (fids : List Nat) : (leaveFrond s fr fids).packets = s.packets := rfl
@[simp] theorem leaveFrond_cushions (s : State) (fr : Nat) (fids : List Nat) : (leaveFrond s fr fids).cushions = s.cushions := rfl
@[simp] theorem leaveFrond_fibres (s : State) (fr : Nat) (fids : List Nat) : (leaveFrond s fr fids).fibres = s.fibres := rfl
@[simp] theorem leaveFrond_slots (s : State) (fr : Nat) (fids : List Nat) : (leaveFrond s fr fids).slots = s.slots := rfl
@[simp] theorem leaveFrond_reqs (s : State) (fr : Nat) (fids : List Nat) : (leaveFrond s fr fids).reqs = s.reqs := rfl
@[simp] theorem leaveFrond_replies (s : State) (fr : Nat) (fids : List Nat) : (leaveFrond s fr fids).replies = s.replies := rfl
@[simp] theorem leaveFrond_acks (s : State) (fr : Nat) (fids : List Nat) : (leaveFrond s fr fids).acks = s.acks := rfl
@[simp] theorem leaveFrond_loads (s : State) (fr : Nat) (fids : List Nat) : (leaveFrond s fr fids).loads = s.loads := rfl
@[simp] theorem leaveFrond_joins (s : State) (fr : Nat) (fids : List Nat) : (leaveFrond s fr fids).joins = s.joins := rfl
@[simp] theorem leaveFrond_ldges (s : State) (fr : Nat) (fids : List Nat) : (leaveFrond s fr fids).ldges = s.ldges := rfl
@[simp] theorem leaveFrond_held (s : State) (fr : Nat) (fids : List Nat) : (leaveFrond s fr fids).held = s.held := rfl
@[simp] theorem leaveFrond_wbs (s : State) (fr : Nat) (fids : List Nat) : (leaveFrond s fr fids).wbs = s.wbs := rfl
@[simp] theorem leaveFrond_resizes (s : State) (fr : Nat) (fids : List Nat) : (leaveFrond s fr fids).resizes = s.resizes := rfl
@[simp] theorem leaveFrond_nextTicket (s : State) (fr : Nat) (fids : List Nat) : (leaveFrond s fr fids).nextTicket = s.nextTicket := rfl
@[simp] theorem leaveFrond_replicas (s : State) (fr : Nat) (fids : List Nat) : (leaveFrond s fr fids).replicas = s.replicas := rfl
@[simp] theorem leaveFrond_dirty (s : State) (fr : Nat) (fids : List Nat) : (leaveFrond s fr fids).dirty = s.dirty := rfl
@[simp] theorem leaveFrond_exchanges (s : State) (fr : Nat) (fids : List Nat) : (leaveFrond s fr fids).exchanges = s.exchanges := rfl
@[simp] theorem leaveFrond_fireDue (s : State) (fr : Nat) (fids : List Nat) : (leaveFrond s fr fids).fireDue = s.fireDue := rfl
@[simp] theorem leaveFrond_syncs (s : State) (fr : Nat) (fids : List Nat) : (leaveFrond s fr fids).syncs = s.syncs := rfl
@[simp] theorem leaveFrond_engines (s : State) (fr : Nat) (fids : List Nat) : (leaveFrond s fr fids).engines = s.engines := rfl
@[simp] theorem leaveFrond_decoders (s : State) (fr : Nat) (fids : List Nat) : (leaveFrond s fr fids).decoders = s.decoders := rfl
@[simp] theorem leaveFrond_jobs (s : State) (fr : Nat) (fids : List Nat) : (leaveFrond s fr fids).jobs = s.jobs := rfl
@[simp] theorem leaveFrond_power (s : State) (fr : Nat) (fids : List Nat) : (leaveFrond s fr fids).power = s.power := rfl
@[simp] theorem leaveFrond_landing (s : State) (fr : Nat) (fids : List Nat) : (leaveFrond s fr fids).landing = s.landing := rfl
@[simp] theorem leaveFrond_queued (s : State) (fr : Nat) (fids : List Nat) : (leaveFrond s fr fids).queued = s.queued := rfl
@[simp] theorem leaveFrond_posted (s : State) (fr : Nat) (fids : List Nat) : (leaveFrond s fr fids).posted = s.posted := rfl
@[simp] theorem leaveFrond_detects (s : State) (fr : Nat) (fids : List Nat) : (leaveFrond s fr fids).detects = s.detects := rfl
@[simp] theorem leaveFrond_holds (s : State) (fr : Nat) (fids : List Nat) : (leaveFrond s fr fids).holds = s.holds := rfl
@[simp] theorem leaveFrond_deviceSeq (s : State) (fr : Nat) (fids : List Nat) : (leaveFrond s fr fids).deviceSeq = s.deviceSeq := rfl
@[simp] theorem leaveFrond_barFrozen (s : State) (fr : Nat) (fids : List Nat) : (leaveFrond s fr fids).barFrozen = s.barFrozen := rfl
@[simp] theorem leaveFrond_portsFrozen (s : State) (fr : Nat) (fids : List Nat) : (leaveFrond s fr fids).portsFrozen = s.portsFrozen := rfl
@[simp] theorem leaveFrond_hostUp (s : State) (fr : Nat) (fids : List Nat) : (leaveFrond s fr fids).hostUp = s.hostUp := rfl
@[simp] theorem leaveFrond_irqHeld (s : State) (fr : Nat) (fids : List Nat) : (leaveFrond s fr fids).irqHeld = s.irqHeld := rfl
@[simp] theorem leaveFrond_irqOwed (s : State) (fr : Nat) (fids : List Nat) : (leaveFrond s fr fids).irqOwed = s.irqOwed := rfl
@[simp] theorem leaveFrond_msix (s : State) (fr : Nat) (fids : List Nat) : (leaveFrond s fr fids).msix = s.msix := rfl
@[simp] theorem leaveFrond_linkOut (s : State) (fr : Nat) (fids : List Nat) : (leaveFrond s fr fids).linkOut = s.linkOut := rfl
@[simp] theorem leaveFrond_linkFails (s : State) (fr : Nat) (fids : List Nat) : (leaveFrond s fr fids).linkFails = s.linkFails := rfl
@[simp] theorem leaveFrond_training (s : State) (fr : Nat) (fids : List Nat) : (leaveFrond s fr fids).training = s.training := rfl
@[simp] theorem leaveFrond_remote (s : State) (fr : Nat) (fids : List Nat) : (leaveFrond s fr fids).remote = s.remote := rfl
@[simp] theorem leaveFrond_bar4 (s : State) (fr : Nat) (fids : List Nat) : (leaveFrond s fr fids).bar4 = s.bar4 := rfl
@[simp] theorem leaveFrond_bar2 (s : State) (fr : Nat) (fids : List Nat) : (leaveFrond s fr fids).bar2 = s.bar2 := rfl
@[simp] theorem leaveFrond_barWait (s : State) (fr : Nat) (fids : List Nat) : (leaveFrond s fr fids).barWait = s.barWait := rfl
@[simp] theorem leaveFrond_linkWait (s : State) (fr : Nat) (fids : List Nat) : (leaveFrond s fr fids).linkWait = s.linkWait := rfl
@[simp] theorem leaveFrond_suspendedAt (s : State) (fr : Nat) (fids : List Nat) : (leaveFrond s fr fids).suspendedAt = s.suspendedAt := rfl
@[simp] theorem leaveFrond_suspendWb (s : State) (fr : Nat) (fids : List Nat) : (leaveFrond s fr fids).suspendWb = s.suspendWb := rfl
@[simp] theorem leaveFrond_haltSince (s : State) (fr : Nat) (fids : List Nat) : (leaveFrond s fr fids).haltSince = s.haltSince := rfl
@[simp] theorem leaveFrond_imageReload (s : State) (fr : Nat) (fids : List Nat) : (leaveFrond s fr fids).imageReload = s.imageReload := rfl
@[simp] theorem leaveFrond_spilled (s : State) (fr : Nat) (fids : List Nat) : (leaveFrond s fr fids).spilled = s.spilled := rfl
@[simp] theorem leaveFrond_hostData (s : State) (fr : Nat) (fids : List Nat) : (leaveFrond s fr fids).hostData = s.hostData := rfl
@[simp] theorem leaveFrond_nextId (s : State) (fr : Nat) (fids : List Nat) : (leaveFrond s fr fids).nextId = s.nextId := rfl
@[simp] theorem leaveFrond_oracle (s : State) (fr : Nat) (fids : List Nat) : (leaveFrond s fr fids).oracle = s.oracle := rfl
@[simp] theorem leaveFrond_focus (s : State) (fr : Nat) (fids : List Nat) : (leaveFrond s fr fids).focus = s.focus := rfl
@[simp] theorem leaveFrond_cyc (s : State) (fr : Nat) (fids : List Nat) : (leaveFrond s fr fids).cyc = s.cyc := rfl
@[simp] theorem leaveFrond_agenda (s : State) (fr : Nat) (fids : List Nat) : (leaveFrond s fr fids).agenda = s.agenda := rfl

@[simp] theorem queueRec_ctl (s : State) (q : Nat) (r : Rec) (h : Hold) : (queueRec s q r h).ctl = s.ctl := rfl
@[simp] theorem queueRec_clock (s : State) (q : Nat) (r : Rec) (h : Hold) : (queueRec s q r h).clock = s.clock := rfl
@[simp] theorem queueRec_running (s : State) (q : Nat) (r : Rec) (h : Hold) : (queueRec s q r h).running = s.running := rfl
@[simp] theorem queueRec_mem (s : State) (q : Nat) (r : Rec) (h : Hold) : (queueRec s q r h).mem = s.mem := rfl
@[simp] theorem queueRec_l2data (s : State) (q : Nat) (r : Rec) (h : Hold) : (queueRec s q r h).l2data = s.l2data := rfl
@[simp] theorem queueRec_l2 (s : State) (q : Nat) (r : Rec) (h : Hold) : (queueRec s q r h).l2 = s.l2 := rfl
@[simp] theorem queueRec_l1 (s : State) (q : Nat) (r : Rec) (h : Hold) : (queueRec s q r h).l1 = s.l1 := rfl
@[simp] theorem queueRec_meta_ (s : State) (q : Nat) (r : Rec) (h : Hold) : (queueRec s q r h).meta_ = s.meta_ := rfl
@[simp] theorem queueRec_poison (s : State) (q : Nat) (r : Rec) (h : Hold) : (queueRec s q r h).poison = s.poison := rfl
@[simp] theorem queueRec_coreTlb (s : State) (q : Nat) (r : Rec) (h : Hold) : (queueRec s q r h).coreTlb = s.coreTlb := rfl
@[simp] theorem queueRec_dieTlb (s : State) (q : Nat) (r : Rec) (h : Hold) : (queueRec s q r h).dieTlb = s.dieTlb := rfl
@[simp] theorem queueRec_walks (s : State) (q : Nat) (r : Rec) (h : Hold) : (queueRec s q r h).walks = s.walks := rfl
@[simp] theorem queueRec_inval (s : State) (q : Nat) (r : Rec) (h : Hold) : (queueRec s q r h).inval = s.inval := rfl
@[simp] theorem queueRec_carpets (s : State) (q : Nat) (r : Rec) (h : Hold) : (queueRec s q r h).carpets = s.carpets := rfl
@[simp] theorem queueRec_packets (s : State) (q : Nat) (r : Rec) (h : Hold) : (queueRec s q r h).packets = s.packets := rfl
@[simp] theorem queueRec_cushions (s : State) (q : Nat) (r : Rec) (h : Hold) : (queueRec s q r h).cushions = s.cushions := rfl
@[simp] theorem queueRec_fibres (s : State) (q : Nat) (r : Rec) (h : Hold) : (queueRec s q r h).fibres = s.fibres := rfl
@[simp] theorem queueRec_fronds (s : State) (q : Nat) (r : Rec) (h : Hold) : (queueRec s q r h).fronds = s.fronds := rfl
@[simp] theorem queueRec_slots (s : State) (q : Nat) (r : Rec) (h : Hold) : (queueRec s q r h).slots = s.slots := rfl
@[simp] theorem queueRec_reqs (s : State) (q : Nat) (r : Rec) (h : Hold) : (queueRec s q r h).reqs = s.reqs := rfl
@[simp] theorem queueRec_replies (s : State) (q : Nat) (r : Rec) (h : Hold) : (queueRec s q r h).replies = s.replies := rfl
@[simp] theorem queueRec_acks (s : State) (q : Nat) (r : Rec) (h : Hold) : (queueRec s q r h).acks = s.acks := rfl
@[simp] theorem queueRec_loads (s : State) (q : Nat) (r : Rec) (h : Hold) : (queueRec s q r h).loads = s.loads := rfl
@[simp] theorem queueRec_joins (s : State) (q : Nat) (r : Rec) (h : Hold) : (queueRec s q r h).joins = s.joins := rfl
@[simp] theorem queueRec_ldges (s : State) (q : Nat) (r : Rec) (h : Hold) : (queueRec s q r h).ldges = s.ldges := rfl
@[simp] theorem queueRec_held (s : State) (q : Nat) (r : Rec) (h : Hold) : (queueRec s q r h).held = s.held := rfl
@[simp] theorem queueRec_wbs (s : State) (q : Nat) (r : Rec) (h : Hold) : (queueRec s q r h).wbs = s.wbs := rfl
@[simp] theorem queueRec_resizes (s : State) (q : Nat) (r : Rec) (h : Hold) : (queueRec s q r h).resizes = s.resizes := rfl
@[simp] theorem queueRec_nextTicket (s : State) (q : Nat) (r : Rec) (h : Hold) : (queueRec s q r h).nextTicket = s.nextTicket := rfl
@[simp] theorem queueRec_replicas (s : State) (q : Nat) (r : Rec) (h : Hold) : (queueRec s q r h).replicas = s.replicas := rfl
@[simp] theorem queueRec_dirty (s : State) (q : Nat) (r : Rec) (h : Hold) : (queueRec s q r h).dirty = s.dirty := rfl
@[simp] theorem queueRec_exchanges (s : State) (q : Nat) (r : Rec) (h : Hold) : (queueRec s q r h).exchanges = s.exchanges := rfl
@[simp] theorem queueRec_fireDue (s : State) (q : Nat) (r : Rec) (h : Hold) : (queueRec s q r h).fireDue = s.fireDue := rfl
@[simp] theorem queueRec_syncs (s : State) (q : Nat) (r : Rec) (h : Hold) : (queueRec s q r h).syncs = s.syncs := rfl
@[simp] theorem queueRec_engines (s : State) (q : Nat) (r : Rec) (h : Hold) : (queueRec s q r h).engines = s.engines := rfl
@[simp] theorem queueRec_decoders (s : State) (q : Nat) (r : Rec) (h : Hold) : (queueRec s q r h).decoders = s.decoders := rfl
@[simp] theorem queueRec_jobs (s : State) (q : Nat) (r : Rec) (h : Hold) : (queueRec s q r h).jobs = s.jobs := rfl
@[simp] theorem queueRec_power (s : State) (q : Nat) (r : Rec) (h : Hold) : (queueRec s q r h).power = s.power := rfl
@[simp] theorem queueRec_landing (s : State) (q : Nat) (r : Rec) (h : Hold) : (queueRec s q r h).landing = s.landing := rfl
@[simp] theorem queueRec_posted (s : State) (q : Nat) (r : Rec) (h : Hold) : (queueRec s q r h).posted = s.posted := rfl
@[simp] theorem queueRec_detects (s : State) (q : Nat) (r : Rec) (h : Hold) : (queueRec s q r h).detects = s.detects := rfl
@[simp] theorem queueRec_holds (s : State) (q : Nat) (r : Rec) (h : Hold) : (queueRec s q r h).holds = s.holds := rfl
@[simp] theorem queueRec_deviceSeq (s : State) (q : Nat) (r : Rec) (h : Hold) : (queueRec s q r h).deviceSeq = s.deviceSeq := rfl
@[simp] theorem queueRec_barFrozen (s : State) (q : Nat) (r : Rec) (h : Hold) : (queueRec s q r h).barFrozen = s.barFrozen := rfl
@[simp] theorem queueRec_portsFrozen (s : State) (q : Nat) (r : Rec) (h : Hold) : (queueRec s q r h).portsFrozen = s.portsFrozen := rfl
@[simp] theorem queueRec_hostUp (s : State) (q : Nat) (r : Rec) (h : Hold) : (queueRec s q r h).hostUp = s.hostUp := rfl
@[simp] theorem queueRec_irqHeld (s : State) (q : Nat) (r : Rec) (h : Hold) : (queueRec s q r h).irqHeld = s.irqHeld := rfl
@[simp] theorem queueRec_irqOwed (s : State) (q : Nat) (r : Rec) (h : Hold) : (queueRec s q r h).irqOwed = s.irqOwed := rfl
@[simp] theorem queueRec_msix (s : State) (q : Nat) (r : Rec) (h : Hold) : (queueRec s q r h).msix = s.msix := rfl
@[simp] theorem queueRec_linkOut (s : State) (q : Nat) (r : Rec) (h : Hold) : (queueRec s q r h).linkOut = s.linkOut := rfl
@[simp] theorem queueRec_linkFails (s : State) (q : Nat) (r : Rec) (h : Hold) : (queueRec s q r h).linkFails = s.linkFails := rfl
@[simp] theorem queueRec_training (s : State) (q : Nat) (r : Rec) (h : Hold) : (queueRec s q r h).training = s.training := rfl
@[simp] theorem queueRec_remote (s : State) (q : Nat) (r : Rec) (h : Hold) : (queueRec s q r h).remote = s.remote := rfl
@[simp] theorem queueRec_bar4 (s : State) (q : Nat) (r : Rec) (h : Hold) : (queueRec s q r h).bar4 = s.bar4 := rfl
@[simp] theorem queueRec_bar2 (s : State) (q : Nat) (r : Rec) (h : Hold) : (queueRec s q r h).bar2 = s.bar2 := rfl
@[simp] theorem queueRec_barWait (s : State) (q : Nat) (r : Rec) (h : Hold) : (queueRec s q r h).barWait = s.barWait := rfl
@[simp] theorem queueRec_linkWait (s : State) (q : Nat) (r : Rec) (h : Hold) : (queueRec s q r h).linkWait = s.linkWait := rfl
@[simp] theorem queueRec_suspendedAt (s : State) (q : Nat) (r : Rec) (h : Hold) : (queueRec s q r h).suspendedAt = s.suspendedAt := rfl
@[simp] theorem queueRec_suspendWb (s : State) (q : Nat) (r : Rec) (h : Hold) : (queueRec s q r h).suspendWb = s.suspendWb := rfl
@[simp] theorem queueRec_haltSince (s : State) (q : Nat) (r : Rec) (h : Hold) : (queueRec s q r h).haltSince = s.haltSince := rfl
@[simp] theorem queueRec_imageReload (s : State) (q : Nat) (r : Rec) (h : Hold) : (queueRec s q r h).imageReload = s.imageReload := rfl
@[simp] theorem queueRec_spilled (s : State) (q : Nat) (r : Rec) (h : Hold) : (queueRec s q r h).spilled = s.spilled := rfl
@[simp] theorem queueRec_hostData (s : State) (q : Nat) (r : Rec) (h : Hold) : (queueRec s q r h).hostData = s.hostData := rfl
@[simp] theorem queueRec_nextId (s : State) (q : Nat) (r : Rec) (h : Hold) : (queueRec s q r h).nextId = s.nextId := rfl
@[simp] theorem queueRec_oracle (s : State) (q : Nat) (r : Rec) (h : Hold) : (queueRec s q r h).oracle = s.oracle := rfl
@[simp] theorem queueRec_focus (s : State) (q : Nat) (r : Rec) (h : Hold) : (queueRec s q r h).focus = s.focus := rfl
@[simp] theorem queueRec_cyc (s : State) (q : Nat) (r : Rec) (h : Hold) : (queueRec s q r h).cyc = s.cyc := rfl
@[simp] theorem queueRec_agenda (s : State) (q : Nat) (r : Rec) (h : Hold) : (queueRec s q r h).agenda = s.agenda := rfl

@[simp] theorem fresh_ctl (s : State) : (fresh s).1.ctl = s.ctl := rfl
@[simp] theorem fresh_clock (s : State) : (fresh s).1.clock = s.clock := rfl
@[simp] theorem fresh_running (s : State) : (fresh s).1.running = s.running := rfl
@[simp] theorem fresh_mem (s : State) : (fresh s).1.mem = s.mem := rfl
@[simp] theorem fresh_l2data (s : State) : (fresh s).1.l2data = s.l2data := rfl
@[simp] theorem fresh_l2 (s : State) : (fresh s).1.l2 = s.l2 := rfl
@[simp] theorem fresh_l1 (s : State) : (fresh s).1.l1 = s.l1 := rfl
@[simp] theorem fresh_meta_ (s : State) : (fresh s).1.meta_ = s.meta_ := rfl
@[simp] theorem fresh_poison (s : State) : (fresh s).1.poison = s.poison := rfl
@[simp] theorem fresh_coreTlb (s : State) : (fresh s).1.coreTlb = s.coreTlb := rfl
@[simp] theorem fresh_dieTlb (s : State) : (fresh s).1.dieTlb = s.dieTlb := rfl
@[simp] theorem fresh_walks (s : State) : (fresh s).1.walks = s.walks := rfl
@[simp] theorem fresh_inval (s : State) : (fresh s).1.inval = s.inval := rfl
@[simp] theorem fresh_carpets (s : State) : (fresh s).1.carpets = s.carpets := rfl
@[simp] theorem fresh_packets (s : State) : (fresh s).1.packets = s.packets := rfl
@[simp] theorem fresh_cushions (s : State) : (fresh s).1.cushions = s.cushions := rfl
@[simp] theorem fresh_fibres (s : State) : (fresh s).1.fibres = s.fibres := rfl
@[simp] theorem fresh_fronds (s : State) : (fresh s).1.fronds = s.fronds := rfl
@[simp] theorem fresh_slots (s : State) : (fresh s).1.slots = s.slots := rfl
@[simp] theorem fresh_reqs (s : State) : (fresh s).1.reqs = s.reqs := rfl
@[simp] theorem fresh_replies (s : State) : (fresh s).1.replies = s.replies := rfl
@[simp] theorem fresh_acks (s : State) : (fresh s).1.acks = s.acks := rfl
@[simp] theorem fresh_loads (s : State) : (fresh s).1.loads = s.loads := rfl
@[simp] theorem fresh_joins (s : State) : (fresh s).1.joins = s.joins := rfl
@[simp] theorem fresh_ldges (s : State) : (fresh s).1.ldges = s.ldges := rfl
@[simp] theorem fresh_held (s : State) : (fresh s).1.held = s.held := rfl
@[simp] theorem fresh_wbs (s : State) : (fresh s).1.wbs = s.wbs := rfl
@[simp] theorem fresh_resizes (s : State) : (fresh s).1.resizes = s.resizes := rfl
@[simp] theorem fresh_nextTicket (s : State) : (fresh s).1.nextTicket = s.nextTicket := rfl
@[simp] theorem fresh_replicas (s : State) : (fresh s).1.replicas = s.replicas := rfl
@[simp] theorem fresh_dirty (s : State) : (fresh s).1.dirty = s.dirty := rfl
@[simp] theorem fresh_exchanges (s : State) : (fresh s).1.exchanges = s.exchanges := rfl
@[simp] theorem fresh_fireDue (s : State) : (fresh s).1.fireDue = s.fireDue := rfl
@[simp] theorem fresh_syncs (s : State) : (fresh s).1.syncs = s.syncs := rfl
@[simp] theorem fresh_engines (s : State) : (fresh s).1.engines = s.engines := rfl
@[simp] theorem fresh_decoders (s : State) : (fresh s).1.decoders = s.decoders := rfl
@[simp] theorem fresh_jobs (s : State) : (fresh s).1.jobs = s.jobs := rfl
@[simp] theorem fresh_power (s : State) : (fresh s).1.power = s.power := rfl
@[simp] theorem fresh_landing (s : State) : (fresh s).1.landing = s.landing := rfl
@[simp] theorem fresh_queued (s : State) : (fresh s).1.queued = s.queued := rfl
@[simp] theorem fresh_posted (s : State) : (fresh s).1.posted = s.posted := rfl
@[simp] theorem fresh_detects (s : State) : (fresh s).1.detects = s.detects := rfl
@[simp] theorem fresh_holds (s : State) : (fresh s).1.holds = s.holds := rfl
@[simp] theorem fresh_deviceSeq (s : State) : (fresh s).1.deviceSeq = s.deviceSeq := rfl
@[simp] theorem fresh_barFrozen (s : State) : (fresh s).1.barFrozen = s.barFrozen := rfl
@[simp] theorem fresh_portsFrozen (s : State) : (fresh s).1.portsFrozen = s.portsFrozen := rfl
@[simp] theorem fresh_hostUp (s : State) : (fresh s).1.hostUp = s.hostUp := rfl
@[simp] theorem fresh_irqHeld (s : State) : (fresh s).1.irqHeld = s.irqHeld := rfl
@[simp] theorem fresh_irqOwed (s : State) : (fresh s).1.irqOwed = s.irqOwed := rfl
@[simp] theorem fresh_msix (s : State) : (fresh s).1.msix = s.msix := rfl
@[simp] theorem fresh_linkOut (s : State) : (fresh s).1.linkOut = s.linkOut := rfl
@[simp] theorem fresh_linkFails (s : State) : (fresh s).1.linkFails = s.linkFails := rfl
@[simp] theorem fresh_training (s : State) : (fresh s).1.training = s.training := rfl
@[simp] theorem fresh_remote (s : State) : (fresh s).1.remote = s.remote := rfl
@[simp] theorem fresh_bar4 (s : State) : (fresh s).1.bar4 = s.bar4 := rfl
@[simp] theorem fresh_bar2 (s : State) : (fresh s).1.bar2 = s.bar2 := rfl
@[simp] theorem fresh_barWait (s : State) : (fresh s).1.barWait = s.barWait := rfl
@[simp] theorem fresh_linkWait (s : State) : (fresh s).1.linkWait = s.linkWait := rfl
@[simp] theorem fresh_suspendedAt (s : State) : (fresh s).1.suspendedAt = s.suspendedAt := rfl
@[simp] theorem fresh_suspendWb (s : State) : (fresh s).1.suspendWb = s.suspendWb := rfl
@[simp] theorem fresh_haltSince (s : State) : (fresh s).1.haltSince = s.haltSince := rfl
@[simp] theorem fresh_imageReload (s : State) : (fresh s).1.imageReload = s.imageReload := rfl
@[simp] theorem fresh_spilled (s : State) : (fresh s).1.spilled = s.spilled := rfl
@[simp] theorem fresh_hostData (s : State) : (fresh s).1.hostData = s.hostData := rfl
@[simp] theorem fresh_oracle (s : State) : (fresh s).1.oracle = s.oracle := rfl
@[simp] theorem fresh_focus (s : State) : (fresh s).1.focus = s.focus := rfl
@[simp] theorem fresh_cyc (s : State) : (fresh s).1.cyc = s.cyc := rfl
@[simp] theorem fresh_agenda (s : State) : (fresh s).1.agenda = s.agenda := rfl
@[simp] theorem fresh_nextId (s : State) : (fresh s).1.nextId = s.nextId + 1 := rfl
@[simp] theorem fresh_id (s : State) : (fresh s).2 = s.nextId := rfl
@[simp] theorem updFibre_fibres (s : State) (fid : Nat) (g : Fibre → Fibre) :
    (updFibre s fid g).fibres = updIf (fun f => f.fid == fid) g s.fibres := rfl
@[simp] theorem updCush_cushions (s : State) (cid : Nat) (g : Cushion → Cushion) :
    (updCush s cid g).cushions = updIf (fun c => c.cid == cid) g s.cushions := rfl
@[simp] theorem updCarpet_carpets (s : State) (id : Nat) (g : Carpet → Carpet) :
    (updCarpet s id g).carpets = updIf (fun c => c.id == id) g s.carpets := rfl
@[simp] theorem updFrond_fronds (s : State) (fr : Nat) (g : Frond → Frond) :
    (updFrond s fr g).fronds = updIf (fun f => f.fr == fr) g s.fronds := rfl
@[simp] theorem updSlot_slots (s : State) (core slot : Nat) (g : IssueSlot → IssueSlot) :
    (updSlot s core slot g).slots = updIf (fun k => k.core == core && k.slot == slot) g s.slots := rfl
@[simp] theorem setPc_fibres (s : State) (fids : List Nat) (pc : DWord) :
    (setPc s fids pc).fibres = updIf (fun f => fids.contains f.fid) (fun f => { f with pc := pc }) s.fibres := rfl

end Sys2Proof.Machine
end

