-- ==== Sys2Proof/Laws/Frond.lean ====
section
/-! SUPPORT. The frond in execution: what the focused slot holds, and what frondExec does when no operand is used illegally. -/

namespace Sys2Proof.Machine

open Sys2Proof.Safety

/-! ## Lookups after updates -/

theorem getFibre_fid {s : State} {fid : Nat} {f : Fibre} (h : getFibre s fid = some f) : f.fid = fid := by
  have := List.find?_some h; simpa using this

theorem getFibre_updFibre (s : State) (a b : Nat) (g : Fibre → Fibre) (hg : ∀ f, (g f).fid = f.fid) :
    getFibre (updFibre s a g) b = (getFibre s b).map (fun f => if b = a then g f else f) := by
  simp only [getFibre, updFibre_fibres]
  rw [find?_updIf _ _ _ _ (by intro f; rw [hg])]
  cases h : s.fibres.find? (fun f => f.fid == b) with
  | none => rfl
  | some f =>
    have : f.fid = b := by simpa using List.find?_some h
    simp [this]

theorem getFibre_setPc (s : State) (l : List Nat) (pc : DWord) (b : Nat) :
    getFibre (setPc s l pc) b = (getFibre s b).map (fun f => if l.contains b then { f with pc := pc } else f) := by
  simp only [getFibre, setPc_fibres]
  rw [find?_updIf _ _ _ _ (by intro f; rfl)]
  cases h : s.fibres.find? (fun f => f.fid == b) with
  | none => rfl
  | some f =>
    have : f.fid = b := by simpa using List.find?_some h
    simp [this]

theorem getCush_updCush (s : State) (a b : Nat) (g : Cushion → Cushion) (hg : ∀ c, (g c).cid = c.cid) :
    getCush (updCush s a g) b = (getCush s b).map (fun c => if b = a then g c else c) := by
  simp only [getCush, updCush_cushions]
  rw [find?_updIf _ _ _ _ (by intro f; rw [hg])]
  cases h : s.cushions.find? (fun f => f.cid == b) with
  | none => rfl
  | some f =>
    have : f.cid = b := by simpa using List.find?_some h
    simp [this]

theorem getSlot_updSlot (s : State) (c k : Nat) (g : IssueSlot → IssueSlot) (hg : ∀ x, (g x).core = x.core ∧ (g x).slot = x.slot) :
    getSlot (updSlot s c k g) c k = (getSlot s c k).map g := by
  simp only [getSlot, updSlot_slots]
  rw [find?_updIf _ _ _ _ (by intro f; rw [(hg f).1, (hg f).2])]
  cases h : s.slots.find? (fun x => x.core == c && x.slot == k) with
  | none => rfl
  | some x => have := List.find?_some h; simp_all

@[simp] theorem getCush_updFibre (s : State) (a b : Nat) (g : Fibre → Fibre) : getCush (updFibre s a g) b = getCush s b := rfl
@[simp] theorem getFibre_updCush (s : State) (a b : Nat) (g : Cushion → Cushion) : getFibre (updCush s a g) b = getFibre s b := rfl
@[simp] theorem getFibre_updSlot (s : State) (a c b : Nat) (g : IssueSlot → IssueSlot) : getFibre (updSlot s a c g) b = getFibre s b := rfl
@[simp] theorem getCush_updSlot (s : State) (a c b : Nat) (g : IssueSlot → IssueSlot) : getCush (updSlot s a c g) b = getCush s b := rfl
@[simp] theorem getCush_setPc (s : State) (l : List Nat) (pc : DWord) (b : Nat) : getCush (setPc s l pc) b = getCush s b := rfl
@[simp] theorem getSlot_setPc (s : State) (l : List Nat) (pc : DWord) (c k : Nat) : getSlot (setPc s l pc) c k = getSlot s c k := rfl
@[simp] theorem getSlot_updFibre (s : State) (a c k : Nat) (g : Fibre → Fibre) : getSlot (updFibre s a g) c k = getSlot s c k := rfl
@[simp] theorem getSlot_updCush (s : State) (a c k : Nat) (g : Cushion → Cushion) : getSlot (updCush s a g) c k = getSlot s c k := rfl
@[simp] theorem getFrond_setPc (s : State) (l : List Nat) (pc : DWord) (b : Nat) : getFrond (setPc s l pc) b = getFrond s b := rfl
@[simp] theorem getFrond_updFibre (s : State) (a b : Nat) (g : Fibre → Fibre) : getFrond (updFibre s a g) b = getFrond s b := rfl
@[simp] theorem getFrond_updCush (s : State) (a b : Nat) (g : Cushion → Cushion) : getFrond (updCush s a g) b = getFrond s b := rfl
@[simp] theorem getFrond_updSlot (s : State) (a c b : Nat) (g : IssueSlot → IssueSlot) : getFrond (updSlot s a c g) b = getFrond s b := rfl

/-! ## The focused frond -/

/-- What the focused slot holds: the slot, its frond, the members by ascending lane, cushion and carpet (R33, R82). -/
theorem focusEx_spec {s : State} {ex : Ex} (h : focusEx s = some ex) :
    s.focus = some (ex.core, ex.slot) ∧
    (∃ k, getSlot s ex.core ex.slot = some k ∧ k.frond = some ex.frond.fr ∧ k.latches = ex.latches) ∧
    getFrond s ex.frond.fr = some ex.frond ∧
    ex.lanes = sortBy (fun a b => decide (a.lane < b.lane)) (ex.frond.members.filterMap (getFibre s)) ∧
    getCush s ex.frond.cush = some ex.cush ∧ getCarpet s ex.cush.carpet = some ex.car ∧
    (∃ f r, ex.lanes = f :: r ∧ ex.pc = f.pc) := by
  unfold focusEx at h
  split at h
  · cases h
  · rename_i core slot hf
    split at h
    · cases h
    · rename_i k hk
      split at h
      · cases h
      · rename_i fr hfr
        simp only at h
        split at h
        · rename_i cu f r hcu hl
          split at h
          · rename_i car hcar
            simp only [Option.some.injEq] at h
            subst h
            obtain ⟨n, hn, hg⟩ := Option.bind_eq_some_iff.1 hfr
            have hfr' : fr.fr = n := by simpa using List.find?_some hg
            subst hfr'
            exact ⟨hf, ⟨k, hk, hn, rfl⟩, hg, rfl, hcu, hcar, ⟨f, r, hl, rfl⟩⟩
          · cases h
        · cases h

theorem focusEx_lane {s : State} {ex : Ex} (h : focusEx s = some ex) {f : Fibre} (hf : f ∈ ex.lanes) :
    getFibre s f.fid = some f := by
  obtain ⟨-, -, -, hl, -⟩ := focusEx_spec h
  rw [hl, mem_sortBy, List.mem_filterMap] at hf
  obtain ⟨n, -, hn⟩ := hf
  rw [getFibre_fid hn]; exact hn

theorem focusEx_cush {s : State} {ex : Ex} (h : focusEx s = some ex) : getCush s ex.cush.cid = some ex.cush := by
  obtain ⟨-, -, -, -, hc, -⟩ := focusEx_spec h
  have : ex.cush.cid = ex.frond.cush := by simpa using List.find?_some hc
  rw [this]; exact hc

/-! ## Legal operands are no violation (R388) -/

theorem srcViols_ok {ex : Ex} {f : Fibre} {u : SrcU} (w : DWord) (h : srcOk ex f u = true) : srcViols ex f w u = [] := by
  unfold srcOk at h
  unfold srcViols
  cases hs : u.src <;> simp only [hs] at h ⊢
  · simp only [regOk, Bool.and_eq_true, Bool.not_eq_true', decide_eq_true_eq] at h
    simp [h.1, xViols, h.2.1, h.2.2]
  · simp only [Bool.and_eq_true, Bool.not_eq_true', decide_eq_true_eq] at h
    simp [h.1.1, gViols, h.1.2, h.2]
  · simp only [Bool.and_eq_true, Bool.not_eq_true'] at h
    simp [h.1.1, h.1.2, Option.isSome_iff_ne_none.1 h.2]
  · simp only [Bool.and_eq_true, Bool.not_eq_true', decide_eq_true_eq] at h
    simp [h.1.1.1, chanViols, h.1.1.2, h.1.2, h.2]

theorem dstViols_ok {ex : Ex} {f : Fibre} {ws : Bool} {u : DstU} (w : DWord) (h : dstOk ex f ws u = true) :
    dstViols ex f w ws u = [] := by
  unfold dstOk at h
  unfold dstViols
  cases hs : u.dst <;> simp only [hs] at h ⊢
  · simp only [regOk, Bool.and_eq_true, decide_eq_true_eq] at h
    simp [xViols, h.1, h.2]
  · simp only [Bool.and_eq_true, Bool.not_eq_true', decide_eq_true_eq] at h
    simp [h.1.1, gViols, h.1.2, h.2]
  · simp only [Bool.and_eq_true, Bool.or_eq_true, Bool.not_eq_true', decide_eq_true_eq] at h
    obtain ⟨⟨⟨⟨h1, h2⟩, h3⟩, h4⟩, h5⟩ := h
    cases ws
    · simp at h4
      simp [h1, h2, chanViols, h3, h4, h5]
    · simp only [h1, h2, chanViols, h3, h5, viol]
      simp
  · cases hu : u.xOnly <;> cases ws <;> simp_all

theorem resViols_ok {ex : Ex} {f : Fibre} {u : ResU} (w : DWord) (h : resOk ex f u = true) : resViols ex f w false u = [] := by
  unfold resOk at h
  unfold resViols
  simp only [Bool.and_eq_true, Bool.not_eq_true'] at h
  simp only [h.2, Bool.false_and, Bool.false_eq_true, if_false, List.append_nil, ite_eq_left_iff, List.cons_ne_self, imp_false,
    Bool.not_eq_true, Bool.not_eq_false]
  exact h.1

theorem shapeViols_ok {ex : Ex} {h : Hdr} {sh : Shape} {f : Fibre} (w : DWord) (hl : laneOk ex h sh f = true) :
    shapeViols ex f w h.ws sh = [] := by
  unfold laneOk at hl
  simp only [Bool.and_eq_true, List.all_eq_true, Bool.not_eq_true', Bool.and_eq_false_iff] at hl
  obtain ⟨⟨⟨h1, h2⟩, h3⟩, h4⟩ := hl
  have e1 : sh.srcs.flatMap (srcViols ex f w) = [] := by
    rw [List.flatMap_eq_nil_iff]; exact fun u hu => srcViols_ok w (h1 u hu)
  have e3 : sh.res.flatMap (resViols ex f w false) = [] := by
    rw [List.flatMap_eq_nil_iff]; exact fun u hu => resViols_ok w (h3 u hu)
  have e2 : (match sh.dst with | some d => dstViols ex f w h.ws d | none => []) = [] := by
    cases hd : sh.dst with
    | none => rfl
    | some d => simp only [hd] at h2; exact dstViols_ok w h2
  unfold shapeViols
  rw [e1, e3]
  cases hd : sh.dst with
  | none => rcases h4 with h4 | h4 <;> simp [h4]
  | some d => simp only [hd] at e2; rcases h4 with h4 | h4 <;> simp [h4, e2]

/-! ## frondExec without violations -/

/-- The lanes of an instruction, none of which traps. -/
def laneIns (ex : Ex) (h : Hdr) (srcs : List SrcU) : List LaneIn :=
  ex.lanes.map (fun f => { f := f, act := guardOf h f, vals := operands ex srcs f })

theorem ready_spec {s : State} {ex : Ex} {h : Hdr} {sh : Shape} (hr : ready s ex h sh = true) :
    focusEx s = some ex ∧ (actives ex h).isEmpty = false ∧ (∀ f ∈ ex.lanes, guardOf h f = true → laneOk ex h sh f = true) ∧
    (∃ p, (chanReads sh.srcs ex.cush.chans).1 = some p) ∧ pushRoom s ex h sh = true ∧ soundReads ex h sh = true := by
  unfold ready at hr
  simp only [Bool.and_eq_true, decide_eq_true_eq, List.any_eq_true, List.all_eq_true, Bool.or_eq_true, Bool.not_eq_true'] at hr
  obtain ⟨⟨⟨⟨⟨h1, f, hf, hg⟩, h3⟩, h4⟩, h5⟩, h6⟩ := hr
  refine ⟨h1, ?_, ?_, Option.isSome_iff_exists.1 h4, h5, h6⟩
  · rw [List.isEmpty_eq_false_iff_exists_mem]; exact ⟨f, List.mem_filter.2 ⟨hf, hg⟩⟩
  · intro f hf hg; rcases h3 f hf with h | h
    · rw [hg] at h; cases h
    · exact h

/-- Where what an instruction reads is sound, no true slot is refused (R418). -/
theorem poisonedLanes_sound {ex : Ex} {h : Hdr} {sh : Shape} {p : List (Nat × ChanEntry) × List (List ChanEntry)}
    (hp : (chanReads sh.srcs ex.cush.chans).1 = some p) (hs : soundReads ex h sh = true) :
    poisonedLanes ex sh p.1 ((laneIns ex h sh.srcs).filter (·.act)) = [] := by
  unfold soundReads at hs
  simp only [hp, Bool.and_eq_true, List.all_eq_true, Bool.or_eq_true, Bool.not_eq_true', Bool.or_eq_false_iff] at hs
  obtain ⟨hl, he⟩ := hs
  have h1 : p.1.any (fun e => e.2.bad) = false := by
    rw [List.any_eq_false]; intro e h'; simpa using he e h'
  have h2 : (sh.across && ex.lanes.any (readBad sh)) = false := by
    cases ha : sh.across with
    | false => rfl
    | true =>
      rw [Bool.true_and, List.any_eq_false]
      intro f hf
      rcases hl f hf with ⟨h', -⟩ | h'
      · rw [ha] at h'; cases h'
      · simpa using h'
  unfold poisonedLanes
  rw [h1, h2]
  simp only [Bool.or_false, Bool.false_eq_true, if_false, List.filter_eq_nil_iff, List.mem_filter, and_imp]
  unfold laneIns
  intro l hm ha
  obtain ⟨f, hf, rfl⟩ := List.mem_map.1 hm
  rcases hl f hf with ⟨-, h'⟩ | h'
  · simp only at ha; rw [ha] at h'; cases h'
  · simpa using h'

theorem laneIns_actives (ex : Ex) (h : Hdr) (srcs : List SrcU) :
    ((laneIns ex h srcs).filter (·.act)) = (actives ex h).map (fun f => { f := f, act := true, vals := operands ex srcs f }) := by
  unfold laneIns actives
  induction ex.lanes with
  | nil => rfl
  | cons f l ih => cases hg : guardOf h f <;> simp [hg, ih]

/-- With no illegal use, every member advances past the instruction and the body acts on all lanes; then the run ends if the body
or ER ends it (R81, R82, R379). -/
theorem frondExec_ready {i : Instr} {h : Hdr} {sh : Shape} {extra : Ex → Fibre → List DWord → List Viol}
    {body : Ex → List LaneIn → State → Body} {s : State} {ex : Ex} (hr : ready s ex h sh = true)
    (hx : ∀ f ∈ ex.lanes, guardOf h f = true → extra ex f (operands ex sh.srcs f) = []) :
    ∃ p, (chanReads sh.srcs ex.cush.chans).1 = some p ∧ frondExec i h sh extra body s =
      (fun r : Body => settleRun r.1 ex.core ex.slot (r.2 || h.er))
        (frondExec.popAct ex sh.srcs p.2 ((laneIns ex h sh.srcs).filter (·.act))
          (body ex (laneIns ex h sh.srcs) (setPc s (ex.lanes.map (·.fid)) (ex.pc + 8#64)))) := by
  obtain ⟨hf, hne, hok, ⟨p, hp⟩, hroom, hsnd⟩ := ready_spec hr
  refine ⟨p, hp, ?_⟩
  have hi : ∀ w : DWord, (ex.lanes.map (fun f =>
      let act := guardOf h f
      let vals := sh.srcs.map (srcVal ex f p.1)
      let v := if act then firstViol (shapeViols ex f w h.ws sh ++ extra ex f vals) else none
      (({ f, act, vals } : LaneIn), v))) = (laneIns ex h sh.srcs).map (fun l => (l, none)) := by
    intro w
    unfold laneIns
    rw [List.map_map]
    refine List.map_congr_left fun f hmem => ?_
    have hv : sh.srcs.map (srcVal ex f p.1) = operands ex sh.srcs f := by simp [operands, hp]
    by_cases hg : guardOf h f = true
    · have h1 := shapeViols_ok w (hok f hmem hg)
      have h2 := hx f hmem hg
      simp [hg, hv, h1, h2, firstViol, bestBy]
    · simp [hg, hv]
  have hw : wholeViols sh.whole ((laneIns ex h sh.srcs).map (fun l => (l, (none : Option Viol)))) =
      (laneIns ex h sh.srcs).map (fun l => (l, none)) := by
    have : ((laneIns ex h sh.srcs).map (fun l => (l, (none : Option Viol)))).findSome? (·.2) = none := by
      rw [List.findSome?_eq_none_iff]; intro x hx'; obtain ⟨l, -, rfl⟩ := List.mem_map.1 hx'; rfl
    unfold wholeViols
    rw [this]
    cases sh.whole <;> rfl
  unfold frondExec
  simp only [hf, hp]
  rw [hi, hw]
  have hfil : (((laneIns ex h sh.srcs).map (fun l => (l, (none : Option Viol)))).filter (fun p => p.2.isNone)).map (·.1) =
      laneIns ex h sh.srcs := by
    rw [List.filter_eq_self.2]
    · rw [List.map_map]; exact (List.map_congr_left fun _ _ => rfl).trans (List.map_id _)
    · intro x hx'; obtain ⟨l, -, rfl⟩ := List.mem_map.1 hx'; rfl
  have htr : ((laneIns ex h sh.srcs).map (fun l => (l, (none : Option Viol)))).filterMap
      (fun p => p.2.map (fun v => (p.1.f, v))) = [] := by
    rw [List.filterMap_eq_nil_iff]; intro x hx'; obtain ⟨l, -, rfl⟩ := List.mem_map.1 hx'; rfl
  have hids : (laneIns ex h sh.srcs).map (fun l => l.f.fid) = ex.lanes.map (·.fid) := by
    unfold laneIns; rw [List.map_map]; rfl
  have hacts : ((laneIns ex h sh.srcs).filter (·.act)).isEmpty = false := by
    rw [laneIns_actives]; cases ha : actives ex h with
    | nil => rw [ha] at hne; cases hne
    | cons a l => rfl
  rw [hfil, htr, poisonedLanes_sound hp hsnd]
  simp only [List.any_nil, Bool.false_eq_true, if_false, List.map_id', List.foldl_nil, hids, hacts, applyTraps, List.foldl_nil, List.isEmpty_nil, Bool.not_true, Bool.or_false]
  unfold pushRoom at hroom
  cases hd : sh.dst with
  | none => rfl
  | some d =>
    obtain ⟨fd, dd, wd, cd, xd⟩ := d
    cases dd with
    | h c =>
      cases hws : h.ws with
      | true => rfl
      | false =>
        simp only [hd, hws] at hroom ⊢
        have hns : nextStage (setPc s (ex.lanes.map (·.fid)) (ex.pc + 8#64)) ex.cush = nextStage s ex.cush := rfl
        cases hn : nextStage s ex.cush with
        | none => simp only [hns, hn]; rfl
        | some dn =>
          simp only [hn, decide_eq_true_eq] at hroom
          simp only [hns, hn, Nat.not_le.2 hroom, decide_false]
          rfl
    | x _ => rfl
    | g _ => rfl
    | none => rfl

end Sys2Proof.Machine
end

