-- ==== Sys2Proof/Laws/PerInstr.lean ====
section
/-! SUPPORT. Laws of every instruction as syntax: one lemma per constructor. -/

namespace Sys2Proof.Laws.HasWord

/-- The rows 0 to 153 of the opcode table have a word, the steps of rows 154 to 238 have none (R74, spec/95). -/
def isWord : Instr → Bool
  | .nop .. | .yield .. | .brk .. | .trap .. | .sysc .. | .eret .. | .csrr .. | .csrw .. | .bra .. | .call ..
  | .brx .. | .callx .. | .ret .. | .exit .. | .fork .. | .spawn .. | .join .. | .bar .. | .reform .. | .resize ..
  | .iadd .. | .isub .. | .imul .. | .imulh .. | .imad .. | .imadw .. | .idiv .. | .irem .. | .ineg .. | .iabs ..
  | .imin .. | .imax .. | .and .. | .or .. | .xor .. | .andn .. | .shl .. | .shr .. | .sar .. | .rot .. | .bfx ..
  | .bfi .. | .popc .. | .clz .. | .brev .. | .sel .. | .mov .. | .addmin .. | .addmax .. | .iaddImm .. | .andImm ..
  | .orImm .. | .xorImm .. | .shlImm .. | .shrImm .. | .sarImm .. | .iminImm .. | .imaxImm .. | .icmpImm .. | .movi ..
  | .moviS64 .. | .movhi .. | .lea .. | .add64 .. | .sub64 .. | .icmp .. | .fcmp .. | .pset .. | .pmovGet ..
  | .pmovSet .. | .fadd .. | .fsub .. | .fmul .. | .ffma .. | .fmin .. | .fmax .. | .fdiv .. | .fsqrt .. | .fclass ..
  | .fscale .. | .frnd .. | .frcp .. | .frsq .. | .fexp2 .. | .flog2 .. | .fsin .. | .fcos .. | .cvt .. | .hadd2 ..
  | .hmul2 .. | .hfma2 .. | .shfl .. | .gath .. | .vote .. | .redn .. | .scan .. | .confl .. | .elect .. | .expand ..
  | .exstep .. | .segred .. | .lds .. | .sts .. | .atoms .. | .ld .. | .st .. | .ldn .. | .stn .. | .atom .. | .red ..
  | .ljoin .. | .ldge .. | .lsync .. | .fence .. | .pref .. | .cline .. | .migrate .. | .cload .. | .cnext ..
  | .cseek .. | .cdesc .. | .coit .. | .ccrd .. | .cval .. | .capp .. | .cfin .. | .csave .. | .crest .. | .cheap ..
  | .mwld .. | .mma .. | .mmag .. | .mhad .. | .mcond .. | .mzero .. | .mrd .. | .mqnt .. | .mxrd .. | .mxadd ..
  | .mprog .. | .tldef .. | .tlstat .. | .tlrel .. | .cvset .. | .cpy .. | .cpytLd .. | .cpytSt .. | .cpytTt ..
  | .cpyd .. | .wait .. | .tkset .. | .tkrd .. | .route .. | .chcnt .. => true
  | .forcedPark .. | .runStart .. | .frondMerge .. | .replyLand .. | .storeAck .. | .homeRequest .. | .requestRetry ..
  | .translationWalkComplete .. | .walkerComplete .. | .sporeRestore .. | .sporeAgePromote ..
  | .landingReserveGrant .. | .sporeLand .. | .cushionEnd .. | .carpetRetire .. | .launchPacketRead ..
  | .launchAccept .. | .patchPlace .. | .powerGrant | .powerGrantReturn .. | .matrixOpStart ..
  | .matrixSourceReadDone .. | .matrixOpComplete .. | .copyDescriptorRead .. | .copyBytesApplied .. | .copyComplete ..
  | .unfurlBlockDecode .. | .routeRun .. | .exchangeFire .. | .exchangeReceive .. | .exchangeAck ..
  | .crustSyncRequest .. | .faultRecordPost .. | .carpetDiscard .. | .registerWrite .. | .rcFieldRead ..
  | .pwpoolWrite .. | .brwinWrite .. | .brgselWrite .. | .interruptMessage .. | .hostBar2Read .. | .hostBar2Write ..
  | .hostBar4Access .. | .connEntryWrite .. | .circuitOpened .. | .circuitClosed .. | .circuitOpenFail ..
  | .rhizoidCircuitLost .. | .linkFlitReceive .. | .linkPortLost .. | .linkRetrain .. | .linkTrainingDone ..
  | .hostLinkDown | .uscfgWrite .. | .l1ResizeDone .. | .crpartWrite .. | .xlinvGo .. | .xlinvComplete
  | .crustRegionWrite .. | .crustRegionReady .. | .crustRegionRetired .. | .launchQueueWrite .. | .ctxSuspend ..
  | .ctxSuspendComplete .. | .ctxResume .. | .faultQueueControlWrite .. | .faultAnswerSyscall .. | .faultRetry ..
  | .faultKill .. | .frozenMasterRelease .. | .dieReset .. | .dieResetDone .. | .packageReset .. | .debugHaltWrite ..
  | .dieHalted .. | .debugAttachWrite .. | .brkRelease .. | .dieTimeout .. | .linkTimeout .. | .uncorrectableError ..
  | .scrub .. | .powerCapEvent .. | .hostLinkUp | .resetRelease .. | .engineReadReply .. => false

def Statement (i : Instr) : Prop := (encode i).isSome = isWord i

theorem nop (a0 : Hdr) : Statement (.nop a0) := rfl
theorem yield (a0 : Hdr) : Statement (.yield a0) := rfl
theorem brk (a0 : Hdr) (a1 : BitVec 24) : Statement (.brk a0 a1) := rfl
theorem trap (a0 : Hdr) (a1 : BitVec 24) : Statement (.trap a0 a1) := rfl
theorem sysc (a0 : Hdr) (a1 : BitVec 24) : Statement (.sysc a0 a1) := rfl
theorem eret (a0 : Hdr) : Statement (.eret a0) := rfl
theorem csrr (a0 : Hdr) (a1 : Dst) (a2 : BitVec 12) : Statement (.csrr a0 a1 a2) := rfl
theorem csrw (a0 : Hdr) (a1 : Src) (a2 : BitVec 12) : Statement (.csrw a0 a1 a2) := rfl
theorem bra (a0 : Hdr) (a1 : BitVec 24) : Statement (.bra a0 a1) := rfl
theorem call (a0 : Hdr) (a1 : BitVec 24) : Statement (.call a0 a1) := rfl
theorem brx (a0 : Hdr) (a1 : Src) : Statement (.brx a0 a1) := rfl
theorem callx (a0 : Hdr) (a1 : Src) : Statement (.callx a0 a1) := rfl
theorem ret (a0 : Hdr) : Statement (.ret a0) := rfl
theorem exit (a0 : Hdr) : Statement (.exit a0) := rfl
theorem fork (a0 : Hdr) (a1 : BitVec 24) (a2 : Src) (a3 : BitVec 3) : Statement (.fork a0 a1 a2 a3) := rfl
theorem spawn (a0 : Hdr) (a1 : BitVec 24) (a2 : Src) (a3 : BitVec 3) (a4 : Bool) : Statement (.spawn a0 a1 a2 a3 a4) := rfl
theorem join (a0 : Hdr) (a1 : Src) : Statement (.join a0 a1) := rfl
theorem bar (a0 : Hdr) (a1 : BitVec 2) : Statement (.bar a0 a1) := rfl
theorem reform (a0 : Hdr) : Statement (.reform a0) := rfl
theorem resize (a0 : Hdr) (a1 : BitVec 5) : Statement (.resize a0 a1) := rfl
theorem iadd (a0 : Hdr) (a1 : IModeSat) (a2 : Dst) (a3 : Src) (a4 : Src) : Statement (.iadd a0 a1 a2 a3 a4) := rfl
theorem isub (a0 : Hdr) (a1 : IModeSat) (a2 : Dst) (a3 : Src) (a4 : Src) : Statement (.isub a0 a1 a2 a3 a4) := rfl
theorem imul (a0 : Hdr) (a1 : IModeSat) (a2 : Dst) (a3 : Src) (a4 : Src) : Statement (.imul a0 a1 a2 a3 a4) := rfl
theorem imulh (a0 : Hdr) (a1 : IMode) (a2 : Dst) (a3 : Src) (a4 : Src) : Statement (.imulh a0 a1 a2 a3 a4) := rfl
theorem imad (a0 : Hdr) (a1 : IModeSat) (a2 : Dst) (a3 : Src) (a4 : Src) (a5 : Src) : Statement (.imad a0 a1 a2 a3 a4 a5) := rfl
theorem imadw (a0 : Hdr) (a1 : Bool) (a2 : Bool) (a3 : Dst) (a4 : Src) (a5 : Src) (a6 : Src) : Statement (.imadw a0 a1 a2 a3 a4 a5 a6) := rfl
theorem idiv (a0 : Hdr) (a1 : IModeSat) (a2 : Dst) (a3 : Src) (a4 : Src) : Statement (.idiv a0 a1 a2 a3 a4) := rfl
theorem irem (a0 : Hdr) (a1 : IMode) (a2 : Dst) (a3 : Src) (a4 : Src) : Statement (.irem a0 a1 a2 a3 a4) := rfl
theorem ineg (a0 : Hdr) (a1 : IModeSat) (a2 : Dst) (a3 : Src) : Statement (.ineg a0 a1 a2 a3) := rfl
theorem iabs (a0 : Hdr) (a1 : IModeSat) (a2 : Dst) (a3 : Src) : Statement (.iabs a0 a1 a2 a3) := rfl
theorem imin (a0 : Hdr) (a1 : IMode) (a2 : Dst) (a3 : Src) (a4 : Src) : Statement (.imin a0 a1 a2 a3 a4) := rfl
theorem imax (a0 : Hdr) (a1 : IMode) (a2 : Dst) (a3 : Src) (a4 : Src) : Statement (.imax a0 a1 a2 a3 a4) := rfl
theorem and (a0 : Hdr) (a1 : IMode) (a2 : Dst) (a3 : Src) (a4 : Src) : Statement (.and a0 a1 a2 a3 a4) := rfl
theorem or (a0 : Hdr) (a1 : IMode) (a2 : Dst) (a3 : Src) (a4 : Src) : Statement (.or a0 a1 a2 a3 a4) := rfl
theorem xor (a0 : Hdr) (a1 : IMode) (a2 : Dst) (a3 : Src) (a4 : Src) : Statement (.xor a0 a1 a2 a3 a4) := rfl
theorem andn (a0 : Hdr) (a1 : IMode) (a2 : Dst) (a3 : Src) (a4 : Src) : Statement (.andn a0 a1 a2 a3 a4) := rfl
theorem shl (a0 : Hdr) (a1 : IMode) (a2 : Dst) (a3 : Src) (a4 : Src) : Statement (.shl a0 a1 a2 a3 a4) := rfl
theorem shr (a0 : Hdr) (a1 : IMode) (a2 : Dst) (a3 : Src) (a4 : Src) : Statement (.shr a0 a1 a2 a3 a4) := rfl
theorem sar (a0 : Hdr) (a1 : IMode) (a2 : Dst) (a3 : Src) (a4 : Src) : Statement (.sar a0 a1 a2 a3 a4) := rfl
theorem rot (a0 : Hdr) (a1 : IMode) (a2 : Dst) (a3 : Src) (a4 : Src) : Statement (.rot a0 a1 a2 a3 a4) := rfl
theorem bfx (a0 : Hdr) (a1 : IMode) (a2 : Dst) (a3 : Src) (a4 : Src) : Statement (.bfx a0 a1 a2 a3 a4) := rfl
theorem bfi (a0 : Hdr) (a1 : IMode) (a2 : Dst) (a3 : Src) (a4 : Src) (a5 : Src) : Statement (.bfi a0 a1 a2 a3 a4 a5) := rfl
theorem popc (a0 : Hdr) (a1 : IMode) (a2 : Dst) (a3 : Src) : Statement (.popc a0 a1 a2 a3) := rfl
theorem clz (a0 : Hdr) (a1 : IMode) (a2 : Dst) (a3 : Src) : Statement (.clz a0 a1 a2 a3) := rfl
theorem brev (a0 : Hdr) (a1 : IMode) (a2 : Dst) (a3 : Src) : Statement (.brev a0 a1 a2 a3) := rfl
theorem sel (a0 : Hdr) (a1 : IMode) (a2 : Dst) (a3 : Src) (a4 : Src) (a5 : BitVec 3) : Statement (.sel a0 a1 a2 a3 a4 a5) := rfl
theorem mov (a0 : Hdr) (a1 : IMode) (a2 : Dst) (a3 : Src) : Statement (.mov a0 a1 a2 a3) := rfl
theorem addmin (a0 : Hdr) (a1 : IModeSat) (a2 : Dst) (a3 : Src) (a4 : Src) (a5 : Src) : Statement (.addmin a0 a1 a2 a3 a4 a5) := rfl
theorem addmax (a0 : Hdr) (a1 : IModeSat) (a2 : Dst) (a3 : Src) (a4 : Src) (a5 : Src) : Statement (.addmax a0 a1 a2 a3 a4 a5) := rfl
theorem iaddImm (a0 : Hdr) (a1 : IMode) (a2 : Dst) (a3 : Src) (a4 : BitVec 24) : Statement (.iaddImm a0 a1 a2 a3 a4) := rfl
theorem andImm (a0 : Hdr) (a1 : IMode) (a2 : Dst) (a3 : Src) (a4 : BitVec 24) : Statement (.andImm a0 a1 a2 a3 a4) := rfl
theorem orImm (a0 : Hdr) (a1 : IMode) (a2 : Dst) (a3 : Src) (a4 : BitVec 24) : Statement (.orImm a0 a1 a2 a3 a4) := rfl
theorem xorImm (a0 : Hdr) (a1 : IMode) (a2 : Dst) (a3 : Src) (a4 : BitVec 24) : Statement (.xorImm a0 a1 a2 a3 a4) := rfl
theorem shlImm (a0 : Hdr) (a1 : IMode) (a2 : Dst) (a3 : Src) (a4 : BitVec 24) : Statement (.shlImm a0 a1 a2 a3 a4) := rfl
theorem shrImm (a0 : Hdr) (a1 : IMode) (a2 : Dst) (a3 : Src) (a4 : BitVec 24) : Statement (.shrImm a0 a1 a2 a3 a4) := rfl
theorem sarImm (a0 : Hdr) (a1 : IMode) (a2 : Dst) (a3 : Src) (a4 : BitVec 24) : Statement (.sarImm a0 a1 a2 a3 a4) := rfl
theorem iminImm (a0 : Hdr) (a1 : IMode) (a2 : Dst) (a3 : Src) (a4 : BitVec 24) : Statement (.iminImm a0 a1 a2 a3 a4) := rfl
theorem imaxImm (a0 : Hdr) (a1 : IMode) (a2 : Dst) (a3 : Src) (a4 : BitVec 24) : Statement (.imaxImm a0 a1 a2 a3 a4) := rfl
theorem icmpImm (a0 : Hdr) (a1 : ICond) (a2 : BitVec 3) (a3 : Src) (a4 : BitVec 24) : Statement (.icmpImm a0 a1 a2 a3 a4) := rfl
theorem movi (a0 : Hdr) (a1 : Dst) (a2 : BitVec 32) : Statement (.movi a0 a1 a2) := rfl
theorem moviS64 (a0 : Hdr) (a1 : Dst) (a2 : BitVec 32) : Statement (.moviS64 a0 a1 a2) := rfl
theorem movhi (a0 : Hdr) (a1 : Dst) (a2 : BitVec 32) : Statement (.movhi a0 a1 a2) := rfl
theorem lea (a0 : Hdr) (a1 : Bool) (a2 : BitVec 3) (a3 : Dst) (a4 : Src) (a5 : Src) : Statement (.lea a0 a1 a2 a3 a4 a5) := rfl
theorem add64 (a0 : Hdr) (a1 : Dst) (a2 : Src) (a3 : Src) : Statement (.add64 a0 a1 a2 a3) := rfl
theorem sub64 (a0 : Hdr) (a1 : Dst) (a2 : Src) (a3 : Src) : Statement (.sub64 a0 a1 a2 a3) := rfl
theorem icmp (a0 : Hdr) (a1 : ICond) (a2 : Bool) (a3 : BitVec 3) (a4 : Src) (a5 : Src) : Statement (.icmp a0 a1 a2 a3 a4 a5) := rfl
theorem fcmp (a0 : Hdr) (a1 : FCond) (a2 : FType) (a3 : BitVec 3) (a4 : Src) (a5 : Src) : Statement (.fcmp a0 a1 a2 a3 a4 a5) := rfl
theorem pset (a0 : Hdr) (a1 : BitVec 4) (a2 : BitVec 3) (a3 : BitVec 3) (a4 : BitVec 3) : Statement (.pset a0 a1 a2 a3 a4) := rfl
theorem pmovGet (a0 : Hdr) (a1 : Dst) : Statement (.pmovGet a0 a1) := rfl
theorem pmovSet (a0 : Hdr) (a1 : Src) : Statement (.pmovSet a0 a1) := rfl
theorem fadd (a0 : Hdr) (a1 : FType) (a2 : FRnd) (a3 : Dst) (a4 : Src) (a5 : Src) : Statement (.fadd a0 a1 a2 a3 a4 a5) := rfl
theorem fsub (a0 : Hdr) (a1 : FType) (a2 : FRnd) (a3 : Dst) (a4 : Src) (a5 : Src) : Statement (.fsub a0 a1 a2 a3 a4 a5) := rfl
theorem fmul (a0 : Hdr) (a1 : FType) (a2 : FRnd) (a3 : Dst) (a4 : Src) (a5 : Src) : Statement (.fmul a0 a1 a2 a3 a4 a5) := rfl
theorem ffma (a0 : Hdr) (a1 : FType) (a2 : FRnd) (a3 : Dst) (a4 : Src) (a5 : Src) (a6 : Src) : Statement (.ffma a0 a1 a2 a3 a4 a5 a6) := rfl
theorem fmin (a0 : Hdr) (a1 : FType) (a2 : Dst) (a3 : Src) (a4 : Src) : Statement (.fmin a0 a1 a2 a3 a4) := rfl
theorem fmax (a0 : Hdr) (a1 : FType) (a2 : Dst) (a3 : Src) (a4 : Src) : Statement (.fmax a0 a1 a2 a3 a4) := rfl
theorem fdiv (a0 : Hdr) (a1 : FType) (a2 : FRnd) (a3 : Dst) (a4 : Src) (a5 : Src) : Statement (.fdiv a0 a1 a2 a3 a4 a5) := rfl
theorem fsqrt (a0 : Hdr) (a1 : FType) (a2 : FRnd) (a3 : Dst) (a4 : Src) : Statement (.fsqrt a0 a1 a2 a3 a4) := rfl
theorem fclass (a0 : Hdr) (a1 : FType) (a2 : Dst) (a3 : Src) : Statement (.fclass a0 a1 a2 a3) := rfl
theorem fscale (a0 : Hdr) (a1 : FType) (a2 : FRnd) (a3 : Dst) (a4 : Src) (a5 : Src) : Statement (.fscale a0 a1 a2 a3 a4 a5) := rfl
theorem frnd (a0 : Hdr) (a1 : FType) (a2 : FRnd) (a3 : Dst) (a4 : Src) : Statement (.frnd a0 a1 a2 a3 a4) := rfl
theorem frcp (a0 : Hdr) (a1 : FType) (a2 : Dst) (a3 : Src) : Statement (.frcp a0 a1 a2 a3) := rfl
theorem frsq (a0 : Hdr) (a1 : FType) (a2 : Dst) (a3 : Src) : Statement (.frsq a0 a1 a2 a3) := rfl
theorem fexp2 (a0 : Hdr) (a1 : FType) (a2 : Dst) (a3 : Src) : Statement (.fexp2 a0 a1 a2 a3) := rfl
theorem flog2 (a0 : Hdr) (a1 : FType) (a2 : Dst) (a3 : Src) : Statement (.flog2 a0 a1 a2 a3) := rfl
theorem fsin (a0 : Hdr) (a1 : FType) (a2 : Dst) (a3 : Src) : Statement (.fsin a0 a1 a2 a3) := rfl
theorem fcos (a0 : Hdr) (a1 : FType) (a2 : Dst) (a3 : Src) : Statement (.fcos a0 a1 a2 a3) := rfl
theorem cvt (a0 : Hdr) (a1 : Fmt) (a2 : Fmt) (a3 : CRnd) (a4 : Bool) (a5 : Dst) (a6 : Src) : Statement (.cvt a0 a1 a2 a3 a4 a5 a6) := by cases a3 <;> rfl
theorem hadd2 (a0 : Hdr) (a1 : Bool) (a2 : FRnd) (a3 : Dst) (a4 : Src) (a5 : Src) : Statement (.hadd2 a0 a1 a2 a3 a4 a5) := rfl
theorem hmul2 (a0 : Hdr) (a1 : Bool) (a2 : FRnd) (a3 : Dst) (a4 : Src) (a5 : Src) : Statement (.hmul2 a0 a1 a2 a3 a4 a5) := rfl
theorem hfma2 (a0 : Hdr) (a1 : Bool) (a2 : FRnd) (a3 : Dst) (a4 : Src) (a5 : Src) (a6 : Src) : Statement (.hfma2 a0 a1 a2 a3 a4 a5 a6) := rfl
theorem shfl (a0 : Hdr) (a1 : ShflMode) (a2 : Dst) (a3 : Src) (a4 : Src) : Statement (.shfl a0 a1 a2 a3 a4) := rfl
theorem gath (a0 : Hdr) (a1 : Dst) (a2 : Src) (a3 : Src) : Statement (.gath a0 a1 a2 a3) := rfl
theorem vote (a0 : Hdr) (a1 : VoteOp) (a2 : BitVec 3) : Statement (.vote a0 a1 a2) := by cases a1 <;> rfl
theorem redn (a0 : Hdr) (a1 : RedOp) (a2 : RedTy) (a3 : Dst) (a4 : Src) : Statement (.redn a0 a1 a2 a3 a4) := rfl
theorem scan (a0 : Hdr) (a1 : RedOp) (a2 : RedTy) (a3 : Bool) (a4 : Dst) (a5 : Src) : Statement (.scan a0 a1 a2 a3 a4 a5) := rfl
theorem confl (a0 : Hdr) (a1 : Dst) (a2 : Src) : Statement (.confl a0 a1 a2) := rfl
theorem elect (a0 : Hdr) (a1 : BitVec 3) : Statement (.elect a0 a1) := rfl
theorem expand (a0 : Hdr) (a1 : Src) (a2 : Src) : Statement (.expand a0 a1 a2) := rfl
theorem exstep (a0 : Hdr) (a1 : Dst) : Statement (.exstep a0 a1) := rfl
theorem segred (a0 : Hdr) (a1 : RedOp) (a2 : RedTy) (a3 : Dst) (a4 : Src) : Statement (.segred a0 a1 a2 a3 a4) := rfl
theorem lds (a0 : Hdr) (a1 : MSize) (a2 : Bool) (a3 : Dst) (a4 : Src) (a5 : BitVec 24) : Statement (.lds a0 a1 a2 a3 a4 a5) := rfl
theorem sts (a0 : Hdr) (a1 : MSize) (a2 : Bool) (a3 : Src) (a4 : Src) (a5 : BitVec 24) : Statement (.sts a0 a1 a2 a3 a4 a5) := rfl
theorem atoms (a0 : Hdr) (a1 : Aop) (a2 : MSize) (a3 : Bool) (a4 : Dst) (a5 : Src) (a6 : BitVec 10) (a7 : Src) : Statement (.atoms a0 a1 a2 a3 a4 a5 a6 a7) := rfl
theorem ld (a0 : Hdr) (a1 : MSize) (a2 : Bool) (a3 : Scope) (a4 : Dst) (a5 : Src) (a6 : BitVec 24) : Statement (.ld a0 a1 a2 a3 a4 a5 a6) := rfl
theorem st (a0 : Hdr) (a1 : MSize) (a2 : Bool) (a3 : Scope) (a4 : Src) (a5 : Src) (a6 : BitVec 24) : Statement (.st a0 a1 a2 a3 a4 a5 a6) := rfl
theorem ldn (a0 : Hdr) (a1 : MSize) (a2 : Dst) (a3 : Src) (a4 : BitVec 24) : Statement (.ldn a0 a1 a2 a3 a4) := rfl
theorem stn (a0 : Hdr) (a1 : MSize) (a2 : Src) (a3 : Src) (a4 : BitVec 24) : Statement (.stn a0 a1 a2 a3 a4) := rfl
theorem atom (a0 : Hdr) (a1 : Aop) (a2 : MSize) (a3 : Ord3) (a4 : Scope) (a5 : Dst) (a6 : Src) (a7 : BitVec 10) (a8 : Src) : Statement (.atom a0 a1 a2 a3 a4 a5 a6 a7 a8) := rfl
theorem red (a0 : Hdr) (a1 : Aop) (a2 : MSize) (a3 : Bool) (a4 : Scope) (a5 : Src) (a6 : BitVec 10) (a7 : Src) : Statement (.red a0 a1 a2 a3 a4 a5 a6 a7) := rfl
theorem ljoin (a0 : Hdr) (a1 : MSize) (a2 : Bool) (a3 : Scope) (a4 : Src) (a5 : BitVec 10) (a6 : Src) : Statement (.ljoin a0 a1 a2 a3 a4 a5 a6) := rfl
theorem ldge (a0 : Hdr) (a1 : MSize) (a2 : Scope) (a3 : Dst) (a4 : Src) (a5 : BitVec 10) (a6 : Src) : Statement (.ldge a0 a1 a2 a3 a4 a5 a6) := rfl
theorem lsync (a0 : Hdr) (a1 : Scope) : Statement (.lsync a0 a1) := rfl
theorem fence (a0 : Hdr) (a1 : Ord3) (a2 : Scope) : Statement (.fence a0 a1 a2) := rfl
theorem pref (a0 : Hdr) (a1 : Bool) (a2 : Src) (a3 : BitVec 10) : Statement (.pref a0 a1 a2 a3) := rfl
theorem cline (a0 : Hdr) (a1 : ClineOp) (a2 : Scope) (a3 : Src) (a4 : BitVec 10) : Statement (.cline a0 a1 a2 a3 a4) := rfl
theorem migrate (a0 : Hdr) (a1 : Src) (a2 : BitVec 10) : Statement (.migrate a0 a1 a2) := rfl
theorem cload (a0 : Hdr) (a1 : BitVec 4) (a2 : Src) : Statement (.cload a0 a1 a2) := rfl
theorem cnext (a0 : Hdr) (a1 : BitVec 4) : Statement (.cnext a0 a1) := rfl
theorem cseek (a0 : Hdr) (a1 : Bool) (a2 : BitVec 4) (a3 : Src) : Statement (.cseek a0 a1 a2 a3) := rfl
theorem cdesc (a0 : Hdr) (a1 : BitVec 4) (a2 : BitVec 4) : Statement (.cdesc a0 a1 a2) := rfl
theorem coit (a0 : Hdr) (a1 : Bool) (a2 : Dst) (a3 : BitVec 4) (a4 : BitVec 4) : Statement (.coit a0 a1 a2 a3 a4) := rfl
theorem ccrd (a0 : Hdr) (a1 : Dst) (a2 : BitVec 4) : Statement (.ccrd a0 a1 a2) := rfl
theorem cval (a0 : Hdr) (a1 : Fmt) (a2 : Dst) (a3 : BitVec 4) : Statement (.cval a0 a1 a2 a3) := rfl
theorem capp (a0 : Hdr) (a1 : BitVec 4) (a2 : Src) (a3 : Src) : Statement (.capp a0 a1 a2 a3) := rfl
theorem cfin (a0 : Hdr) (a1 : BitVec 4) : Statement (.cfin a0 a1) := rfl
theorem csave (a0 : Hdr) (a1 : BitVec 4) (a2 : Src) : Statement (.csave a0 a1 a2) := rfl
theorem crest (a0 : Hdr) (a1 : BitVec 4) (a2 : Src) : Statement (.crest a0 a1 a2) := rfl
theorem cheap (a0 : Hdr) (a1 : BitVec 4) (a2 : Src) : Statement (.cheap a0 a1 a2) := rfl
theorem mwld (a0 : Hdr) (a1 : Fmt) (a2 : BitVec 6) (a3 : BitVec 4) : Statement (.mwld a0 a1 a2 a3) := rfl
theorem mma (a0 : Hdr) (a1 : Fmt) (a2 : Bool) (a3 : BitVec 3) (a4 : BitVec 6) (a5 : BitVec 4) : Statement (.mma a0 a1 a2 a3 a4 a5) := rfl
theorem mmag (a0 : Hdr) (a1 : Fmt) (a2 : Bool) (a3 : BitVec 3) (a4 : BitVec 6) (a5 : Src) (a6 : BitVec 4) : Statement (.mmag a0 a1 a2 a3 a4 a5 a6) := rfl
theorem mhad (a0 : Hdr) (a1 : HadSize) (a2 : BitVec 6) (a3 : BitVec 6) (a4 : BitVec 4) : Statement (.mhad a0 a1 a2 a3 a4) := rfl
theorem mcond (a0 : Hdr) (a1 : Fmt) (a2 : BitVec 6) (a3 : BitVec 6) (a4 : BitVec 6) (a5 : BitVec 4) : Statement (.mcond a0 a1 a2 a3 a4 a5) := rfl
theorem mzero (a0 : Hdr) (a1 : BitVec 3) (a2 : BitVec 4) : Statement (.mzero a0 a1 a2) := rfl
theorem mrd (a0 : Hdr) (a1 : Fmt) (a2 : BitVec 6) (a3 : BitVec 3) (a4 : BitVec 3) (a5 : BitVec 4) : Statement (.mrd a0 a1 a2 a3 a4 a5) := rfl
theorem mqnt (a0 : Hdr) (a1 : Fmt) (a2 : BitVec 6) (a3 : BitVec 6) (a4 : BitVec 6) (a5 : BitVec 4) : Statement (.mqnt a0 a1 a2 a3 a4 a5) := rfl
theorem mxrd (a0 : Hdr) (a1 : BitVec 3) (a2 : Src) (a3 : BitVec 4) : Statement (.mxrd a0 a1 a2 a3) := rfl
theorem mxadd (a0 : Hdr) (a1 : BitVec 3) (a2 : Src) (a3 : BitVec 4) : Statement (.mxadd a0 a1 a2 a3) := rfl
theorem mprog (a0 : Hdr) (a1 : BitVec 2) (a2 : Dst) : Statement (.mprog a0 a1 a2) := rfl
theorem tldef (a0 : Hdr) (a1 : BitVec 6) (a2 : Src) (a3 : Src) : Statement (.tldef a0 a1 a2 a3) := rfl
theorem tlstat (a0 : Hdr) (a1 : Dst) (a2 : BitVec 6) : Statement (.tlstat a0 a1 a2) := rfl
theorem tlrel (a0 : Hdr) (a1 : BitVec 6) : Statement (.tlrel a0 a1) := rfl
theorem cvset (a0 : Hdr) (a1 : BitVec 4) (a2 : Src) : Statement (.cvset a0 a1 a2) := rfl
theorem cpy (a0 : Hdr) (a1 : Src) (a2 : Src) (a3 : Src) (a4 : BitVec 3) : Statement (.cpy a0 a1 a2 a3 a4) := rfl
theorem cpytLd (a0 : Hdr) (a1 : BitVec 6) (a2 : Src) (a3 : Src) (a4 : BitVec 3) : Statement (.cpytLd a0 a1 a2 a3 a4) := rfl
theorem cpytSt (a0 : Hdr) (a1 : BitVec 6) (a2 : Src) (a3 : BitVec 3) : Statement (.cpytSt a0 a1 a2 a3) := rfl
theorem cpytTt (a0 : Hdr) (a1 : BitVec 6) (a2 : BitVec 6) (a3 : BitVec 3) : Statement (.cpytTt a0 a1 a2 a3) := rfl
theorem cpyd (a0 : Hdr) (a1 : BitVec 6) (a2 : Src) (a3 : Src) (a4 : BitVec 3) : Statement (.cpyd a0 a1 a2 a3 a4) := rfl
theorem wait (a0 : Hdr) (a1 : BitVec 8) : Statement (.wait a0 a1) := rfl
theorem tkset (a0 : Hdr) (a1 : BitVec 3) (a2 : Src) : Statement (.tkset a0 a1 a2) := rfl
theorem tkrd (a0 : Hdr) (a1 : Dst) (a2 : BitVec 3) : Statement (.tkrd a0 a1 a2) := rfl
theorem route (a0 : Hdr) (a1 : Src) (a2 : BitVec 3) : Statement (.route a0 a1 a2) := rfl
theorem chcnt (a0 : Hdr) (a1 : Dst) (a2 : BitVec 4) : Statement (.chcnt a0 a1 a2) := rfl
theorem forcedPark (a0 : Nat) : Statement (.forcedPark a0) := rfl
theorem runStart (a0 : Nat) (a1 : Nat) : Statement (.runStart a0 a1) := rfl
theorem frondMerge (a0 : Nat) (a1 : Nat) : Statement (.frondMerge a0 a1) := rfl
theorem replyLand (a0 : Nat) : Statement (.replyLand a0) := rfl
theorem storeAck (a0 : Nat) : Statement (.storeAck a0) := rfl
theorem homeRequest (a0 : Nat) : Statement (.homeRequest a0) := rfl
theorem requestRetry (a0 : Nat) : Statement (.requestRetry a0) := rfl
theorem translationWalkComplete (a0 : Nat) : Statement (.translationWalkComplete a0) := rfl
theorem walkerComplete (a0 : Nat) : Statement (.walkerComplete a0) := rfl
theorem sporeRestore (a0 : Nat) (a1 : Nat) : Statement (.sporeRestore a0 a1) := rfl
theorem sporeAgePromote (a0 : Nat) : Statement (.sporeAgePromote a0) := rfl
theorem landingReserveGrant (a0 : Nat) : Statement (.landingReserveGrant a0) := rfl
theorem sporeLand (a0 : Nat) : Statement (.sporeLand a0) := rfl
theorem cushionEnd (a0 : Nat) : Statement (.cushionEnd a0) := rfl
theorem carpetRetire (a0 : Nat) : Statement (.carpetRetire a0) := rfl
theorem launchPacketRead (a0 : Nat) (a1 : Nat) : Statement (.launchPacketRead a0 a1) := rfl
theorem launchAccept (a0 : Nat) (a1 : Nat) : Statement (.launchAccept a0 a1) := rfl
theorem patchPlace (a0 : Nat) : Statement (.patchPlace a0) := rfl
theorem powerGrant : Statement .powerGrant := rfl
theorem powerGrantReturn (a0 : Nat) : Statement (.powerGrantReturn a0) := rfl
theorem matrixOpStart (a0 : Nat) : Statement (.matrixOpStart a0) := rfl
theorem matrixSourceReadDone (a0 : Nat) : Statement (.matrixSourceReadDone a0) := rfl
theorem matrixOpComplete (a0 : Nat) : Statement (.matrixOpComplete a0) := rfl
theorem copyDescriptorRead (a0 : Nat) : Statement (.copyDescriptorRead a0) := rfl
theorem copyBytesApplied (a0 : Nat) : Statement (.copyBytesApplied a0) := rfl
theorem copyComplete (a0 : Nat) : Statement (.copyComplete a0) := rfl
theorem unfurlBlockDecode (a0 : Nat) : Statement (.unfurlBlockDecode a0) := rfl
theorem routeRun (a0 : Nat) : Statement (.routeRun a0) := rfl
theorem exchangeFire (a0 : Nat) (a1 : Nat) : Statement (.exchangeFire a0 a1) := rfl
theorem exchangeReceive (a0 : Nat) : Statement (.exchangeReceive a0) := rfl
theorem exchangeAck (a0 : Nat) : Statement (.exchangeAck a0) := rfl
theorem crustSyncRequest (a0 : Nat) : Statement (.crustSyncRequest a0) := rfl
theorem faultRecordPost (a0 : Nat) : Statement (.faultRecordPost a0) := rfl
theorem carpetDiscard (a0 : Nat) (a1 : List Bool) : Statement (.carpetDiscard a0 a1) := rfl
theorem registerWrite (a0 : CtlWrite) : Statement (.registerWrite a0) := rfl
theorem rcFieldRead (a0 : Nat) (a1 : Nat) : Statement (.rcFieldRead a0 a1) := rfl
theorem pwpoolWrite (a0 : CtlWrite) : Statement (.pwpoolWrite a0) := rfl
theorem brwinWrite (a0 : CtlWrite) : Statement (.brwinWrite a0) := rfl
theorem brgselWrite (a0 : CtlWrite) : Statement (.brgselWrite a0) := rfl
theorem interruptMessage (a0 : Nat) (a1 : Nat) : Statement (.interruptMessage a0 a1) := rfl
theorem hostBar2Read (a0 : Nat) (a1 : Nat) : Statement (.hostBar2Read a0 a1) := rfl
theorem hostBar2Write (a0 : Nat) (a1 : List Byte) (a2 : HostFlaw) : Statement (.hostBar2Write a0 a1 a2) := rfl
theorem hostBar4Access (a0 : Nat) (a1 : Nat) (a2 : Option DWord) : Statement (.hostBar4Access a0 a1 a2) := rfl
theorem connEntryWrite (a0 : CtlWrite) : Statement (.connEntryWrite a0) := rfl
theorem circuitOpened (a0 : Nat) : Statement (.circuitOpened a0) := rfl
theorem circuitClosed (a0 : Nat) : Statement (.circuitClosed a0) := rfl
theorem circuitOpenFail (a0 : Nat) : Statement (.circuitOpenFail a0) := rfl
theorem rhizoidCircuitLost (a0 : Nat) : Statement (.rhizoidCircuitLost a0) := rfl
theorem linkFlitReceive (a0 : Nat) (a1 : Bool) (a2 : LinkMsg) : Statement (.linkFlitReceive a0 a1 a2) := rfl
theorem linkPortLost (a0 : Nat) : Statement (.linkPortLost a0) := rfl
theorem linkRetrain (a0 : CtlWrite) : Statement (.linkRetrain a0) := rfl
theorem linkTrainingDone (a0 : Nat) (a1 : Bool) : Statement (.linkTrainingDone a0 a1) := rfl
theorem hostLinkDown : Statement .hostLinkDown := rfl
theorem uscfgWrite (a0 : CtlWrite) : Statement (.uscfgWrite a0) := rfl
theorem l1ResizeDone (a0 : Nat) : Statement (.l1ResizeDone a0) := rfl
theorem crpartWrite (a0 : CtlWrite) : Statement (.crpartWrite a0) := rfl
theorem xlinvGo (a0 : CtlWrite) : Statement (.xlinvGo a0) := rfl
theorem xlinvComplete : Statement .xlinvComplete := rfl
theorem crustRegionWrite (a0 : CtlWrite) : Statement (.crustRegionWrite a0) := rfl
theorem crustRegionReady (a0 : Nat) (a1 : Nat) : Statement (.crustRegionReady a0 a1) := rfl
theorem crustRegionRetired (a0 : Nat) (a1 : Nat) : Statement (.crustRegionRetired a0 a1) := rfl
theorem launchQueueWrite (a0 : CtlWrite) : Statement (.launchQueueWrite a0) := rfl
theorem ctxSuspend (a0 : CtlWrite) : Statement (.ctxSuspend a0) := rfl
theorem ctxSuspendComplete (a0 : Nat) : Statement (.ctxSuspendComplete a0) := rfl
theorem ctxResume (a0 : CtlWrite) : Statement (.ctxResume a0) := rfl
theorem faultQueueControlWrite (a0 : CtlWrite) : Statement (.faultQueueControlWrite a0) := rfl
theorem faultAnswerSyscall (a0 : CtlWrite) : Statement (.faultAnswerSyscall a0) := rfl
theorem faultRetry (a0 : CtlWrite) : Statement (.faultRetry a0) := rfl
theorem faultKill (a0 : CtlWrite) : Statement (.faultKill a0) := rfl
theorem frozenMasterRelease (a0 : CtlWrite) : Statement (.frozenMasterRelease a0) := rfl
theorem dieReset (a0 : CtlWrite) : Statement (.dieReset a0) := rfl
theorem dieResetDone (a0 : Nat) (a1 : Bool) : Statement (.dieResetDone a0 a1) := rfl
theorem packageReset (a0 : CtlWrite) : Statement (.packageReset a0) := rfl
theorem debugHaltWrite (a0 : CtlWrite) : Statement (.debugHaltWrite a0) := rfl
theorem dieHalted (a0 : Nat) : Statement (.dieHalted a0) := rfl
theorem debugAttachWrite (a0 : CtlWrite) : Statement (.debugAttachWrite a0) := rfl
theorem brkRelease (a0 : CtlWrite) : Statement (.brkRelease a0) := rfl
theorem dieTimeout (a0 : Nat) : Statement (.dieTimeout a0) := rfl
theorem linkTimeout (a0 : Nat) : Statement (.linkTimeout a0) := rfl
theorem uncorrectableError (a0 : Nat) (a1 : Nat) (a2 : Nat) (a3 : Nat) (a4 : Bool) : Statement (.uncorrectableError a0 a1 a2 a3 a4) := rfl
theorem scrub (a0 : Nat) (a1 : Nat) (a2 : Bool) : Statement (.scrub a0 a1 a2) := rfl
theorem powerCapEvent (a0 : BitVec 16) (a1 : Nat) : Statement (.powerCapEvent a0 a1) := rfl
theorem hostLinkUp : Statement .hostLinkUp := rfl
theorem resetRelease (a0 : BitVec 12) (a1 : BitVec 5) : Statement (.resetRelease a0 a1) := rfl
theorem engineReadReply (a0 : Nat) : Statement (.engineReadReply a0) := rfl

end Sys2Proof.Laws.HasWord
end

