-- ==== Sys2Proof/Laws/Value.lean ====
section
/-! SUPPORT. What an instruction that computes one value a lane does (R64, R81 to R85, R144, R165). -/

namespace Sys2Proof.Machine

open Sys2Proof.Safety

/-! ## Folds of fibre and cushion updates -/

theorem getFibre_foldl_updFibre {α : Type} (k : α → Nat) (g : α → Fibre → Fibre) (hg : ∀ r f, (g r f).fid = f.fid) (l : List α)
    (s : State) (b : Nat) :
    getFibre (l.foldl (fun s r => updFibre s (k r) (g r)) s) b =
      (getFibre s b).map (fun f => (l.filter (fun r => b == k r)).foldl (fun f r => g r f) f) := by
  induction l generalizing s with
  | nil => simp
  | cons a l ih =>
    simp only [List.foldl_cons, ih, getFibre_updFibre s _ _ _ (hg a), Option.map_map]
    congr 1
    funext f
    by_cases h : b = k a <;> simp [h]

theorem getCush_foldl_updFibre {α : Type} (k : α → Nat) (g : α → Fibre → Fibre) (l : List α) (s : State) (b : Nat) :
    getCush (l.foldl (fun s r => updFibre s (k r) (g r)) s) b = getCush s b :=
  foldl_view (fun s => getCush s b) _ l s (fun _ _ => rfl)

theorem getSlot_foldl_updFibre {α : Type} (k : α → Nat) (g : α → Fibre → Fibre) (l : List α) (s : State) (c j : Nat) :
    getSlot (l.foldl (fun s r => updFibre s (k r) (g r)) s) c j = getSlot s c j :=
  foldl_view (fun s => getSlot s c j) _ l s (fun _ _ => rfl)

/-! ## Raising flags (R49, R64) -/

@[simp] theorem raise_zero (t : Nat) (c : Cushion) : c.raise t 0#5 = c := by simp [Cushion.raise]

/-- Flags raised one after the other in one cycle are those flags raised together. -/
theorem raise_raise (t : Nat) (a b : BitVec 5) (c : Cushion) : (c.raise t a).raise t b = c.raise t (a ||| b) := by
  by_cases ha : a = 0
  · subst ha; simp
  · by_cases hb : b = 0
    · subst hb; simp
    · have hab : a ||| b ≠ 0 := fun h => ha (BitVec.or_eq_zero_iff.1 h).1
      simp only [Cushion.raise, ha, hb, hab, if_false, if_true, BitVec.or_assoc]
      congr 3
      cases c.fsrNew with
      | none => rfl
      | some p => by_cases ht : p.1 = t <;> simp [ht, BitVec.or_assoc]

@[simp] theorem raise_fsr (t : Nat) (fl : BitVec 5) (c : Cushion) : (c.raise t fl).fsr = c.fsr ||| fl := by
  unfold Cushion.raise; split
  · rename_i h; simp [h]
  · rfl

/-- A raise changes FSR and the record of this cycle's flags alone. -/
theorem raise_view {β : Type} {v : Cushion → β} (hv : ∀ c x y, v { c with fsr := x, fsrNew := y } = v c) (t : Nat) (fl : BitVec 5)
    (c : Cushion) : v (c.raise t fl) = v c := by
  unfold Cushion.raise; split
  · rfl
  · exact hv _ _ _

@[simp] theorem raise_cid (t : Nat) (fl : BitVec 5) (c : Cushion) : (c.raise t fl).cid = c.cid := raise_view (fun _ _ _ => rfl) ..
@[simp] theorem raise_carpet (t : Nat) (fl : BitVec 5) (c : Cushion) : (c.raise t fl).carpet = c.carpet := raise_view (fun _ _ _ => rfl) ..
@[simp] theorem raise_patch (t : Nat) (fl : BitVec 5) (c : Cushion) : (c.raise t fl).patch = c.patch := raise_view (fun _ _ _ => rfl) ..
@[simp] theorem raise_pos (t : Nat) (fl : BitVec 5) (c : Cushion) : (c.raise t fl).pos = c.pos := raise_view (fun _ _ _ => rfl) ..
@[simp] theorem raise_stage (t : Nat) (fl : BitVec 5) (c : Cushion) : (c.raise t fl).stage = c.stage := raise_view (fun _ _ _ => rfl) ..
@[simp] theorem raise_g (t : Nat) (fl : BitVec 5) (c : Cushion) : (c.raise t fl).g = c.g := raise_view (fun _ _ _ => rfl) ..

/-- The flags that a list of results raises in a cushion, and for a fibre that is away. -/
def homeFlags (l : List (Fibre × BitVec 5)) (cid : Nat) : BitVec 5 :=
  orAll ((l.filter (fun r => r.1.cush == cid && !r.1.away)).map (·.2))
def awayFlags (l : List (Fibre × BitVec 5)) (fid : Nat) : BitVec 5 :=
  orAll ((l.filter (fun r => r.1.away && r.1.fid == fid)).map (·.2))

theorem orAll_foldl (l : List (BitVec 5)) (a : BitVec 5) : l.foldl (· ||| ·) a = a ||| orAll l := by
  unfold orAll
  induction l generalizing a with
  | nil => simp
  | cons b l ih => simp only [List.foldl_cons]; rw [ih, ih (0 ||| b)]; simp [BitVec.or_assoc]

theorem orAll_cons (a : BitVec 5) (l : List (BitVec 5)) : orAll (a :: l) = a ||| orAll l := by
  show l.foldl (· ||| ·) (0 ||| a) = _; rw [orAll_foldl]; simp

def raiseAll (s : State) (l : List (Fibre × BitVec 5)) : State := l.foldl (fun s r => raiseFlags s r.1 r.2) s

theorem getFibre_raiseFlags (s : State) (f : Fibre) (fl : BitVec 5) (b : Nat) :
    getFibre (raiseFlags s f fl) b =
      (getFibre s b).map (fun g => { g with awFlags := g.awFlags ||| (if f.away && f.fid == b then fl else 0) }) := by
  unfold raiseFlags
  split
  · rename_i h; subst h; cases getFibre s b <;> simp
  · split
    · rename_i ha
      rw [getFibre_updFibre]
      · cases getFibre s b with
        | none => rfl
        | some g => by_cases hb : b = f.fid
                    · simp [ha, hb]
                    · simp [ha, hb, Ne.symm hb]
      · intro g; rfl
    · rename_i ha; simp only [getFibre_updCush]; cases getFibre s b <;> simp [ha]

theorem getCush_raiseFlags (s : State) (f : Fibre) (fl : BitVec 5) (b : Nat) :
    getCush (raiseFlags s f fl) b =
      (getCush s b).map (Cushion.raise s.clock (if f.cush == b && !f.away then fl else 0)) := by
  unfold raiseFlags
  split
  · rename_i h; subst h; cases getCush s b <;> simp
  · split
    · rename_i ha; simp only [getCush_updFibre]; cases getCush s b <;> simp [ha]
    · rename_i ha
      rw [getCush_updCush]
      · cases getCush s b with
        | none => rfl
        | some g => by_cases hb : b = f.cush
                    · simp [ha, hb]
                    · simp [hb, Ne.symm hb]
      · exact raise_cid _ _

theorem clock_raiseFlags (s : State) (f : Fibre) (fl : BitVec 5) : (raiseFlags s f fl).clock = s.clock := by
  unfold raiseFlags; split
  · rfl
  · split <;> rfl

theorem getSlot_raiseFlags (s : State) (f : Fibre) (fl : BitVec 5) (c j : Nat) :
    getSlot (raiseFlags s f fl) c j = getSlot s c j := by
  unfold raiseFlags; split
  · rfl
  · split <;> rfl

theorem raiseFlags_only (s : State) (f : Fibre) (fl : BitVec 5) : onlyRun s (raiseFlags s f fl) := by
  unfold raiseFlags onlyRun; split
  · rfl
  · split <;> rfl

theorem getFibre_raiseAll (s : State) (l : List (Fibre × BitVec 5)) (b : Nat) :
    getFibre (raiseAll s l) b = (getFibre s b).map (fun g => { g with awFlags := g.awFlags ||| awayFlags l b }) := by
  unfold raiseAll
  induction l generalizing s with
  | nil => cases h : getFibre s b <;> simp [h, awayFlags, orAll]
  | cons a l ih =>
    simp only [List.foldl_cons, ih, getFibre_raiseFlags, Option.map_map]
    congr 1
    funext g
    by_cases h : (a.1.away && a.1.fid == b) = true
    · have : awayFlags (a :: l) b = a.2 ||| awayFlags l b := by unfold awayFlags; rw [List.filter_cons_of_pos (by simpa using h), List.map_cons, orAll_cons]
      simp [h, this, BitVec.or_assoc]
    · have : awayFlags (a :: l) b = awayFlags l b := by unfold awayFlags; rw [List.filter_cons_of_neg (by simpa using h)]
      simp [h, this]

theorem getCush_raiseAll (s : State) (l : List (Fibre × BitVec 5)) (b : Nat) :
    getCush (raiseAll s l) b = (getCush s b).map (Cushion.raise s.clock (homeFlags l b)) := by
  unfold raiseAll
  induction l generalizing s with
  | nil => cases h : getCush s b <;> simp [h, homeFlags, orAll]
  | cons a l ih =>
    simp only [List.foldl_cons, ih, getCush_raiseFlags, Option.map_map, clock_raiseFlags]
    congr 1
    funext g
    simp only [Function.comp, raise_raise]
    by_cases h : (a.1.cush == b && !a.1.away) = true
    · have : homeFlags (a :: l) b = a.2 ||| homeFlags l b := by unfold homeFlags; rw [List.filter_cons_of_pos (by simpa using h), List.map_cons, orAll_cons]
      simp [h, this]
    · have : homeFlags (a :: l) b = homeFlags l b := by unfold homeFlags; rw [List.filter_cons_of_neg (by simpa using h)]
      simp [h, this]

theorem getSlot_raiseAll (s : State) (l : List (Fibre × BitVec 5)) (c j : Nat) : getSlot (raiseAll s l) c j = getSlot s c j :=
  foldl_view (fun s => getSlot s c j) _ l s (fun _ _ => getSlot_raiseFlags _ _ _ _ _)

theorem onlyRun_refl (s : State) : onlyRun s s := rfl
theorem onlyRun_trans {s t u : State} (h : onlyRun s t) (k : onlyRun t u) : onlyRun s u := Eq.trans k h

theorem raiseAll_only (s : State) (l : List (Fibre × BitVec 5)) : onlyRun s (raiseAll s l) :=
  foldl_keep (fun t => onlyRun s t) _ l s (fun _ _ h => onlyRun_trans h (raiseFlags_only _ _ _)) (onlyRun_refl s)

/-! ## Waking, latches, and the end of a run -/

/-- What a wake changes of a fibre (R44). -/
theorem wakeFibre_view {β : Type} {v : Fibre → β}
    (hv : ∀ f w st j a, v { f with wait := w, pendG := 0, pendK := 0, pendP := false, heldBy := none, status := st, joinCnt := j, age := a } = v f)
    (s : State) (f : Fibre) : v (wakeFibre s f) = v f := by
  unfold wakeFibre; simp only; split
  · exact hv f .none f.status 1 f.age
  · exact hv f .none .ready 0 s.clock

theorem getFibre_wake (s : State) (a b : Nat) :
    getFibre (wake s a) b = (getFibre s b).map (fun f => if b = a ∧ f.status = .parked then wakeFibre s f else f) := by
  unfold wake
  rw [getFibre_updFibre]
  · congr 1; funext f; by_cases h : b = a <;> simp [h]
  · intro f; split
    · exact wakeFibre_view (fun _ _ _ _ _ => rfl) _ _
    · rfl

/-- A wake leaves registers, pc and the flags of an away fibre alone. -/
theorem wake_view {β : Type} (v : Fibre → β) (hv : ∀ s f, v (wakeFibre s f) = v f) (s : State) (a b : Nat) :
    (getFibre (wake s a) b).map v = (getFibre s b).map v := by
  rw [getFibre_wake]
  cases getFibre s b with
  | none => rfl
  | some f => simp only [Option.map_some]; split <;> simp [hv]

theorem wakeAll_view {β : Type} (v : Fibre → β) (hv : ∀ s f, v (wakeFibre s f) = v f) (s : State) (l : List Nat) (b : Nat) :
    (getFibre (wakeAll s l) b).map v = (getFibre s b).map v :=
  foldl_view (fun s => (getFibre s b).map v) _ l s (fun _ _ => wake_view v hv _ _ _)

@[simp] theorem getCush_wakeAll (s : State) (l : List Nat) (b : Nat) : getCush (wakeAll s l) b = getCush s b :=
  foldl_view (fun s => getCush s b) _ l s (fun _ _ => rfl)
@[simp] theorem getSlot_wakeAll (s : State) (l : List Nat) (c j : Nat) : getSlot (wakeAll s l) c j = getSlot s c j :=
  foldl_view (fun s => getSlot s c j) _ l s (fun _ _ => rfl)
@[simp] theorem nextStage_wakeAll (s : State) (l : List Nat) (c : Cushion) : nextStage (wakeAll s l) c = nextStage s c :=
  foldl_view (fun s => nextStage s c) _ l s (fun _ _ => rfl)
@[simp] theorem getFrond_wakeAll (s : State) (l : List Nat) (b : Nat) : getFrond (wakeAll s l) b = getFrond s b :=
  foldl_view (fun s => getFrond s b) _ l s (fun _ _ => rfl)

theorem settleRun_fibres (s : State) (core slot : Nat) (e : Bool) : (settleRun s core slot e).fibres = s.fibres := by
  unfold settleRun; split
  · rfl
  · split <;> rfl
theorem settleRun_cushions (s : State) (core slot : Nat) (e : Bool) : (settleRun s core slot e).cushions = s.cushions := by
  unfold settleRun; split
  · rfl
  · split <;> rfl
@[simp] theorem getFibre_settleRun (s : State) (core slot : Nat) (e : Bool) (b : Nat) :
    getFibre (settleRun s core slot e) b = getFibre s b := by unfold getFibre; rw [settleRun_fibres]
@[simp] theorem getCush_settleRun (s : State) (core slot : Nat) (e : Bool) (b : Nat) :
    getCush (settleRun s core slot e) b = getCush s b := by unfold getCush; rw [settleRun_cushions]
@[simp] theorem nextStage_settleRun (s : State) (core slot : Nat) (e : Bool) (c : Cushion) :
    nextStage (settleRun s core slot e) c = nextStage s c := by unfold nextStage; rw [settleRun_cushions]

theorem settleRun_only (s : State) (core slot : Nat) (e : Bool) : onlyRun s (settleRun s core slot e) := by
  unfold settleRun; split
  · rfl
  · split <;> rfl

theorem getSlot_settleRun_ne (s : State) (core slot : Nat) (e : Bool) {c j : Nat} (h : (c, j) ≠ (core, slot)) :
    getSlot (settleRun s core slot e) c j = getSlot s c j := by
  have hu : getSlot (endRun s core slot) c j = getSlot s c j := by
    unfold endRun getSlot
    rw [updSlot_slots, find?_updIf _ _ _ _ (by intro k; rfl)]
    cases hf : s.slots.find? (fun k => k.core == c && k.slot == j) with
    | none => rfl
    | some k =>
      have hk : k.core = c ∧ k.slot = j := by simpa using List.find?_some hf
      have : ¬ (k.core = core ∧ k.slot = slot) := fun h' => h (by rw [← hk.1, ← hk.2, h'.1, h'.2])
      simp [this]
  unfold settleRun; split
  · rfl
  · split
    · exact hu
    · rfl

/-- The slot after an instruction that leaves the frond in being (R82, R84). -/
theorem settleRun_slot {s : State} {core slot : Nat} {k : IssueSlot} {fr : Nat} (er : Bool) (hk : getSlot s core slot = some k)
    (hf : k.frond = some fr) (hfr : (getFrond s fr).isSome) :
    getSlot (settleRun s core slot er) core slot =
      some (if er then { k with frond := none, latches := [], endedAt := some s.clock } else k) := by
  unfold settleRun
  rw [hk]
  simp only [Option.bind_some, hf]
  cases er with
  | true =>
    simp only [Bool.true_or, if_true]
    unfold endRun
    rw [getSlot_updSlot, hk]
    · rfl
    · intro x; exact ⟨rfl, rfl⟩
  | false =>
    have : (getFrond s fr).isNone = false := by cases h : getFrond s fr <;> simp_all
    simp [this, hk]

/-! ## Writing results (R81, R83, R85, R165) -/

/-- The registers of a fibre after its result. -/
def putX (w64 : Bool) (i : Nat) (v : DWord) (f : Fibre) : Fibre := if w64 then setX64 f i v else setX f i (lo32 v)

theorem putX_fid (w64 : Bool) (i : Nat) (v : DWord) (f : Fibre) : (putX w64 i v f).fid = f.fid := by
  unfold putX; split <;> rfl

theorem putX_idem (w64 : Bool) (i : Nat) (v : DWord) (f : Fibre) : putX w64 i v (putX w64 i v f) = putX w64 i v f := by
  unfold putX; split
  · simp only [setX64, setX]
    congr 1
    · rw [setAt_comm 0 (setAt 0 (setAt 0 f.x i (lo32 v)) (i + 1) (hi32 v)) i (i + 1) _ _ (by omega), setAt_setAt,
        setAt_comm 0 (setAt 0 f.x i (lo32 v)) (i + 1) i _ _ (by omega), setAt_setAt]
    · simp only [List.filter_filter]; exact List.filter_congr fun j _ => by cases j != i <;> cases j != i + 1 <;> rfl
  · simp only [setX, setAt_setAt, List.filter_filter, Bool.and_self]

theorem pair64_halves (v : DWord) : pair64 (lo32 v) (hi32 v) = v := by
  unfold pair64 lo32 hi32
  apply BitVec.eq_of_getLsbD_eq
  intro i hi
  simp only [BitVec.getLsbD_append, BitVec.getLsbD_setWidth, BitVec.getLsbD_ushiftRight]
  by_cases h : i < 32
  · simp [h]
  · simp [h, show 32 + (i - 32) = i by omega, show i - 32 < 32 by omega]

theorem putX_read (w64 : Bool) (i : Nat) (v : DWord) (f : Fibre) :
    (if w64 then getX64 (putX w64 i v f) i else zext (getX (putX w64 i v f) i)) = if w64 then v else zext (lo32 v) := by
  unfold putX
  cases w64
  · simp [getX, setX, getD_setAt]
  · simp only [if_true, getX64, getX, setX64, setX, getD_setAt, Nat.left_eq_add, Nat.succ_ne_self, if_false, if_true]
    simp [pair64_halves]

/-- The x-register part of writeResult. -/
theorem writeResult_x {s : State} {ex : Ex} {h : Hdr} {i : BitVec 8} {w64 : Bool} {res : List (Fibre × DWord)} (hne : res.isEmpty = false)
    (hws : h.ws = false) :
    writeResult s ex h (.x i) w64 res = pushLatch (res.foldl (fun s r => updFibre s r.1.fid (putX w64 i.toNat r.2)) s) ex w64 res := by
  unfold writeResult
  simp only [hne, hws, Bool.false_eq_true, if_false]
  rfl

theorem writeResult_g {s : State} {ex : Ex} {h : Hdr} {i : BitVec 6} {w64 : Bool} {res : List (Fibre × DWord)} {f : Fibre} {v : DWord}
    (hl : res.getLast? = some (f, v)) (hws : h.ws = false) :
    writeResult s ex h (.g i) w64 res = pushLatch (updCush s ex.cush.cid (fun c =>
      { c with g := if w64 then setAt 0 (setAt 0 c.g i.toNat (lo32 v)) (i.toNat + 1) (hi32 v) else setAt 0 c.g i.toNat (lo32 v) }))
      ex w64 res := by
  have hne : res.isEmpty = false := by cases res with
    | nil => cases hl
    | cons a l => rfl
  unfold writeResult
  simp only [hne, hws, Bool.false_eq_true, if_false, hl]

/-- A view of fibres that neither a result nor a wake changes. -/
structure FibView {β : Type} (v : Fibre → β) : Prop where
  put : ∀ w64 i x f, v (putX w64 i x f) = v f
  wake : ∀ s f, v (wakeFibre s f) = v f

theorem pushChan_fibre {β : Type} {v : Fibre → β} (hv : ∀ s f, v (wakeFibre s f) = v f) (s : State) (ex : Ex) (h : Nat)
    (res : List (Fibre × DWord)) (b : Nat) : (getFibre (pushChan s ex h res) b).map v = (getFibre s b).map v := by
  unfold pushChan
  split
  · rfl
  · simp only [wakeAll_view v hv, getFibre_updCush]

theorem pushChan_cush {β : Type} {v : Cushion → β} (hv : ∀ c x, v { c with chans := x } = v c) (s : State) (ex : Ex) (h : Nat)
    (res : List (Fibre × DWord)) (b : Nat) : (getCush (pushChan s ex h res) b).map v = (getCush s b).map v := by
  unfold pushChan
  split
  · rfl
  · simp only [getCush_wakeAll]
    rw [getCush_updCush]
    · cases getCush s b with
      | none => rfl
      | some c => simp only [Option.map_some]; split <;> simp [hv]
    · intro c; rfl

theorem pushChan_slot (s : State) (ex : Ex) (h : Nat) (res : List (Fibre × DWord)) (c j : Nat) :
    getSlot (pushChan s ex h res) c j = getSlot s c j := by
  unfold pushChan; split
  · rfl
  · simp only [getSlot_wakeAll, getSlot_updCush]

theorem pushChan_frond (s : State) (ex : Ex) (h : Nat) (res : List (Fibre × DWord)) (b : Nat) :
    getFrond (pushChan s ex h res) b = getFrond s b := by
  unfold pushChan; split
  · rfl
  · simp only [getFrond_wakeAll, getFrond_updCush]

theorem writeResult_fibre {β : Type} {v : Fibre → β} (hv : FibView v) (s : State) (ex : Ex) (h : Hdr) (d : Dst) (w64 : Bool)
    (res : List (Fibre × DWord)) (b : Nat) : (getFibre (writeResult s ex h d w64 res) b).map v = (getFibre s b).map v := by
  unfold writeResult
  split
  · rfl
  · unfold pushLatch
    simp only [getFibre_updSlot]
    split
    · rfl
    · cases d with
      | x i =>
        show (getFibre (res.foldl (fun s r => updFibre s r.1.fid (putX w64 i.toNat r.2)) s) b).map v = _
        refine foldl_view (fun s => (getFibre s b).map v) _ res s (fun s r => ?_)
        rw [getFibre_updFibre _ _ _ _ (putX_fid _ _ _)]
        cases getFibre s b with
        | none => rfl
        | some f => simp only [Option.map_some]; split <;> simp [hv.put]
      | g i => simp only; split <;> rfl
      | h c => exact pushChan_fibre hv.wake _ _ _ _ _
      | none => rfl

theorem writeResult_cush {β : Type} {v : Cushion → β} (hg : ∀ c x, v { c with g := x } = v c) (hc : ∀ c x, v { c with chans := x } = v c)
    (s : State) (ex : Ex) (h : Hdr) (d : Dst) (w64 : Bool) (res : List (Fibre × DWord)) (b : Nat) :
    (getCush (writeResult s ex h d w64 res) b).map v = (getCush s b).map v := by
  unfold writeResult
  split
  · rfl
  · unfold pushLatch
    simp only [getCush_updSlot]
    split
    · rfl
    · cases d with
      | x i => simp only; rw [getCush_foldl_updFibre]
      | g i =>
        simp only
        split
        · rw [getCush_updCush]
          · cases getCush s b with
            | none => rfl
            | some c => simp only [Option.map_some]; split <;> simp [hg]
          · intro c; rfl
        · rfl
      | h c => exact pushChan_cush hc _ _ _ _ _
      | none => rfl

/-- The result latch (R83). -/
def latchOf (w64 : Bool) (res : List (Fibre × DWord)) : Latch :=
  { w64, vals := (List.range 32).map (fun l => (res.find? (fun r => r.1.lane == l)).map (fun r => if w64 then r.2 else zext (lo32 r.2))) }

theorem getSlot_pushLatch (s : State) (ex : Ex) (w64 : Bool) (res : List (Fibre × DWord)) :
    getSlot (pushLatch s ex w64 res) ex.core ex.slot =
      (getSlot s ex.core ex.slot).map (fun k => { k with latches := (latchOf w64 res :: k.latches).take 4 }) := by
  unfold pushLatch
  rw [getSlot_updSlot]
  · rfl
  · intro k; exact ⟨rfl, rfl⟩

theorem writeResult_slot (s : State) (ex : Ex) (h : Hdr) (d : Dst) (w64 : Bool) {res : List (Fibre × DWord)} (hne : res.isEmpty = false) :
    getSlot (writeResult s ex h d w64 res) ex.core ex.slot =
      (getSlot s ex.core ex.slot).map (fun k => { k with latches := (latchOf w64 res :: k.latches).take 4 }) := by
  unfold writeResult
  simp only [hne, Bool.false_eq_true, if_false]
  rw [getSlot_pushLatch]
  congr 1
  split
  · rfl
  · cases d with
    | x i => simp only; rw [getSlot_foldl_updFibre]
    | g i => simp only; split <;> rfl
    | h c => exact pushChan_slot _ _ _ _ _ _
    | none => rfl

theorem writeResult_frond (s : State) (ex : Ex) (h : Hdr) (d : Dst) (w64 : Bool) (res : List (Fibre × DWord)) (b : Nat) :
    getFrond (writeResult s ex h d w64 res) b = getFrond s b := by
  unfold writeResult
  split
  · rfl
  · unfold pushLatch
    simp only [getFrond_updSlot]
    split
    · rfl
    · cases d with
      | x i => exact foldl_view (fun s => getFrond s b) _ res s (fun _ _ => rfl)
      | g i => simp only; split <;> rfl
      | h c => exact pushChan_frond _ _ _ _ _
      | none => rfl

/-! ## Popping channels (R85) -/

theorem popAct_snd (ex : Ex) (srcs : List SrcU) (cs : List (List ChanEntry)) (acts : List LaneIn) (b : Body) : (frondExec.popAct ex srcs cs acts b).2 = b.2 := by
  unfold frondExec.popAct; simp only; split
  · rfl
  · split <;> rfl

theorem popAct_fibre {β : Type} {v : Fibre → β} (hv : ∀ s f, v (wakeFibre s f) = v f) (ex : Ex) (srcs : List SrcU)
    (cs : List (List ChanEntry)) (acts : List LaneIn) (b : Body) (n : Nat) :
    (getFibre (frondExec.popAct ex srcs cs acts b).1 n).map v = (getFibre b.1 n).map v := by
  unfold frondExec.popAct; simp only; split
  · rfl
  · split
    · rfl
    · rw [wakeAll_view v hv]; rfl

theorem popAct_cush {β : Type} {v : Cushion → β} (hv : ∀ c x, v { c with chans := x } = v c) (ex : Ex) (srcs : List SrcU)
    (cs : List (List ChanEntry)) (acts : List LaneIn) (b : Body) (n : Nat) :
    (getCush (frondExec.popAct ex srcs cs acts b).1 n).map v = (getCush b.1 n).map v := by
  have h : (getCush (updCush b.1 ex.cush.cid (fun c => { c with chans := cs })) n).map v = (getCush b.1 n).map v := by
    rw [getCush_updCush]
    · cases getCush b.1 n with
      | none => rfl
      | some c => simp only [Option.map_some]; split <;> simp [hv]
    · intro c; rfl
  unfold frondExec.popAct; simp only; split
  · rfl
  · split
    · exact h
    · simp only [getCush_wakeAll]; exact h

theorem popAct_slot (ex : Ex) (srcs : List SrcU) (cs : List (List ChanEntry)) (acts : List LaneIn) (b : Body) (c j : Nat) :
    getSlot (frondExec.popAct ex srcs cs acts b).1 c j = getSlot b.1 c j := by
  unfold frondExec.popAct; simp only; split
  · rfl
  · split
    · rfl
    · rw [getSlot_wakeAll]; rfl

theorem popAct_frond (ex : Ex) (srcs : List SrcU) (cs : List (List ChanEntry)) (acts : List LaneIn) (b : Body) (n : Nat) :
    getFrond (frondExec.popAct ex srcs cs acts b).1 n = getFrond b.1 n := by
  unfold frondExec.popAct; simp only; split
  · rfl
  · split
    · rfl
    · rw [getFrond_wakeAll]; rfl

/-! ## The next stage -/

theorem nextStage_updCush (s : State) (a : Nat) (g : Cushion → Cushion) (c : Cushion)
    (hg : ∀ d, (g d).carpet = d.carpet ∧ (g d).patch = d.patch ∧ (g d).pos = d.pos ∧ (g d).stage = d.stage) :
    nextStage (updCush s a g) c = (nextStage s c).map (fun d => if d.cid = a then g d else d) := by
  unfold nextStage
  rw [updCush_cushions, find?_updIf _ _ _ _ (by intro d; obtain ⟨h1, h2, h3, h4⟩ := hg d; rw [h1, h2, h3, h4])]
  congr 1; funext d; by_cases h : d.cid = a <;> simp [h]

theorem nextStage_raiseAll {β : Type} {v : Cushion → β} (hv : ∀ c x y, v { c with fsr := x, fsrNew := y } = v c) (s : State)
    (l : List (Fibre × BitVec 5)) (c : Cushion) : (nextStage (raiseAll s l) c).map v = (nextStage s c).map v := by
  refine foldl_view (fun s => (nextStage s c).map v) _ l s (fun s r => ?_)
  unfold raiseFlags; split
  · rfl
  · split
    · rfl
    · rw [nextStage_updCush]
      · cases nextStage s c with
        | none => rfl
        | some d => simp only [Option.map_some]; split <;> simp [raise_view hv]
      · intro d; simp

theorem lo32_zext (v : Word) : lo32 (zext v) = v := by simp [lo32, zext]

/-! ## The instruction -/

theorem getFibre_raised {s : State} {ex : Ex} (hf : focusEx s = some ex) (l : List (Fibre × BitVec 5)) {f : Fibre} (hm : f ∈ ex.lanes) :
    getFibre (raiseAll (setPc s (ex.lanes.map (·.fid)) (ex.pc + 8#64)) l) f.fid =
      some { f with pc := ex.pc + 8#64, awFlags := f.awFlags ||| awayFlags l f.fid } := by
  rw [getFibre_raiseAll, getFibre_setPc, focusEx_lane hf hm]
  have : (ex.lanes.map (·.fid)).contains f.fid = true := by
    rw [List.contains_iff_mem]; exact List.mem_map.2 ⟨f, hm, rfl⟩
  simp only [this, Option.map_some, if_true]

/-- Several results for one fibre that are all the same flags are those flags. -/
theorem orAll_same {l : List (BitVec 5)} {x : BitVec 5} (h : ∀ y ∈ l, y = x) (hx : x ∈ l) : orAll l = x := by
  have key : ∀ l : List (BitVec 5), (∀ y ∈ l, y = x) → orAll l = if l.isEmpty then 0 else x := by
    intro l
    induction l with
    | nil => intro _; rfl
    | cons a l ih =>
      intro h
      rw [orAll_cons, ih (fun y hy => h y (List.mem_cons_of_mem _ hy)), h a (List.mem_cons_self ..)]
      cases l <;> simp
  rw [key l h]; cases l with
  | nil => cases hx
  | cons a l => rfl

/-- What an instruction that computes one value a lane does (R64, R81 to R85, R144, R165). -/
theorem valueExec_done {r : ValueRow} {i : Instr} {s : State} {ex : Ex} (hr : ready s ex r.h r.shape = true) :
    ValueDone r s ex (valueExec i r.h r.srcs r.dst r.w64 (fun s f vs => r.val (fctlOf s f) f vs) s) := by
  obtain ⟨hf, hne, -, -, -⟩ := ready_spec hr
  obtain ⟨-, ⟨k, hk, hkf, hkl⟩, hfr, -, -, -, -⟩ := focusEx_spec hf
  obtain ⟨p, -, he⟩ := frondExec_ready (i := i) (sh := shape r.srcs (some (dW r.w64 r.dst))) (extra := fun _ _ _ => [])
    (body := fun ex lanes s =>
      let res := (lanes.filter (·.act)).map (fun l => (l.f, r.val (fctlOf s l.f) l.f l.vals))
      let s' := res.foldl (fun s r => raiseFlags s r.1 r.2.2) s
      (writeResult s' ex r.h r.dst r.w64 (res.map (fun r => (r.1, r.2.1))), false)) hr (fun _ _ _ => rfl)
  unfold valueExec
  rw [he]
  -- the results, as the row gives them
  have hres : ((laneIns ex r.h (shape r.srcs (some (dW r.w64 r.dst))).srcs).filter (·.act)).map (fun l =>
      (l.f, r.val (fctlOf (setPc s (ex.lanes.map (·.fid)) (ex.pc + 8#64)) l.f) l.f l.vals)) =
      (actives ex r.h).map (fun f => (f, r.out s ex f)) := by
    rw [laneIns_actives, List.map_map]; rfl
  simp only [hres]
  generalize (laneIns ex r.h (shape r.srcs (some (dW r.w64 r.dst))).srcs).filter (·.act) = A
  have hrs : ∀ (s0 : State), ((actives ex r.h).map (fun f => (f, r.out s ex f))).foldl (fun s r => raiseFlags s r.1 r.2.2) s0 =
      raiseAll s0 ((actives ex r.h).map (fun f => (f, (r.out s ex f).2))) := by
    intro s0; unfold raiseAll; rw [List.foldl_map, List.foldl_map]
  rw [hrs]
  generalize hL : (actives ex r.h).map (fun f => (f, (r.out s ex f).2)) = L
  have hmm : ((actives ex r.h).map (fun f => (f, r.out s ex f))).map (fun r => (r.1, r.2.1)) =
      (actives ex r.h).map (fun f => (f, (r.out s ex f).1)) := by rw [List.map_map]; rfl
  rw [hmm]
  have hresne : ((actives ex r.h).map (fun f => (f, (r.out s ex f).1))).isEmpty = false := by
    cases ha : actives ex r.h with
    | nil => rw [ha] at hne; cases hne
    | cons a l => rfl
  have hact : ∀ f ∈ actives ex r.h, f ∈ ex.lanes := fun f h => (List.mem_filter.1 h).1
  have same : ∀ f ∈ ex.lanes, ∀ g ∈ ex.lanes, g.fid = f.fid → g = f := by
    intro f h1 g h2 e
    have := focusEx_lane hf h2
    rw [e, focusEx_lane hf h1] at this; exact (Option.some.inj this).symm
  generalize hs1 : setPc s (ex.lanes.map (·.fid)) (ex.pc + 8#64) = s1
  have hg2 : ∀ f ∈ ex.lanes, getFibre (raiseAll s1 L) f.fid =
      some { f with pc := ex.pc + 8#64, awFlags := f.awFlags ||| awayFlags L f.fid } := by
    intro f h; rw [← hs1]; exact getFibre_raised hf L h
  -- a view of a fibre through the rest of the instruction
  have viewF : ∀ {β : Type} {v : Fibre → β}, FibView v → ∀ n, (getFibre (settleRun (frondExec.popAct ex
      (shape r.srcs (some (dW r.w64 r.dst))).srcs p.2 A (writeResult (raiseAll s1 L) ex r.h r.dst r.w64
        ((actives ex r.h).map (fun f => (f, (r.out s ex f).1))), false)).1 ex.core ex.slot
      ((frondExec.popAct ex (shape r.srcs (some (dW r.w64 r.dst))).srcs p.2 A (writeResult (raiseAll s1 L) ex r.h r.dst r.w64
        ((actives ex r.h).map (fun f => (f, (r.out s ex f).1))), false)).2 || r.h.er)) n).map v = (getFibre (raiseAll s1 L) n).map v := by
    intro β v hv n
    rw [getFibre_settleRun, popAct_fibre hv.wake, writeResult_fibre hv]
  refine ⟨?_, ?_, ?_, ?_, ?_, ?_, ?_⟩
  · intro f hm
    have h := viewF (v := (·.pc)) ⟨fun w _ _ _ => by cases w <;> rfl, wakeFibre_view (fun _ _ _ _ _ => rfl)⟩ f.fid
    rw [hg2 f hm] at h
    obtain ⟨g, hg, hp⟩ := Option.map_eq_some_iff.1 h
    exact ⟨g, hg, hp⟩
  · intro j hd hws f hm
    simp only [hd] at *
    rw [writeResult_x hresne hws]
    generalize hx : putX r.w64 j.toNat = P
    have hv : ∀ g : Fibre, (P (r.out s ex f).1 g).x = (P (r.out s ex f).1 g).x := fun _ => rfl
    have h := popAct_fibre (v := (·.x)) (wakeFibre_view (fun _ _ _ _ _ => rfl)) ex (shape r.srcs (some (dW r.w64 (Dst.x j)))).srcs p.2 A
      (pushLatch (((actives ex r.h).map (fun f => (f, (r.out s ex f).1))).foldl (fun s r => updFibre s r.1.fid (P r.2)) (raiseAll s1 L))
        ex r.w64 ((actives ex r.h).map (fun f => (f, (r.out s ex f).1))), false) f.fid
    have hput : (getFibre (pushLatch (((actives ex r.h).map (fun f => (f, (r.out s ex f).1))).foldl (fun s r => updFibre s r.1.fid (P r.2))
        (raiseAll s1 L)) ex r.w64 ((actives ex r.h).map (fun f => (f, (r.out s ex f).1)))) f.fid) =
        some (P (r.out s ex f).1 { f with pc := ex.pc + 8#64, awFlags := f.awFlags ||| awayFlags L f.fid }) := by
      unfold pushLatch
      rw [getFibre_updSlot, getFibre_foldl_updFibre (fun r : Fibre × DWord => r.1.fid) (fun r => P r.2) (fun a b => by rw [← hx]; exact putX_fid _ _ _ _),
        hg2 f (hact f hm), Option.map_some]
      congr 1
      -- all results for this fibre are its own
      have key : ∀ (l : List Fibre), (∀ g ∈ l, g ∈ ex.lanes) → ∀ b, (l.map (fun f => (f, (r.out s ex f).1))).filter (fun x => f.fid == x.1.fid) = b →
          ∀ g0, b.foldl (fun f r => P r.2 f) g0 = if b.isEmpty then g0 else P (r.out s ex f).1 g0 := by
        intro l
        induction l with
        | nil => intro _ b hb g0; subst hb; rfl
        | cons a l ih =>
          intro hal b hb g0
          by_cases e : f.fid = a.fid
          · have : a = f := same f (hact f hm) a (hal a (List.mem_cons_self ..)) e.symm
            subst this
            rw [List.map_cons, List.filter_cons_of_pos (by simp)] at hb
            subst hb
            rw [List.foldl_cons, ih (fun g hg => hal g (List.mem_cons_of_mem _ hg)) _ rfl]
            split
            · rfl
            · show P _ (P _ g0) = P _ g0
              rw [← hx]; exact putX_idem _ _ _ _
          · rw [List.map_cons, List.filter_cons_of_neg (by simpa using e)] at hb
            exact ih (fun g hg => hal g (List.mem_cons_of_mem _ hg)) b hb g0
      rw [key _ hact _ rfl]
      have : (((actives ex r.h).map (fun f => (f, (r.out s ex f).1))).filter (fun x => f.fid == x.1.fid)).isEmpty = false := by
        rw [List.isEmpty_eq_false_iff_exists_mem]
        exact ⟨(f, (r.out s ex f).1), List.mem_filter.2 ⟨List.mem_map.2 ⟨f, hm, rfl⟩, by simp⟩⟩
      rw [this]; rfl
    rw [hput] at h
    obtain ⟨g, hg, hgx⟩ := Option.map_eq_some_iff.1 h
    refine ⟨g, by rw [getFibre_settleRun]; exact hg, ?_⟩
    have e := putX_read r.w64 j.toNat (r.out s ex f).1 { f with pc := ex.pc + 8#64, awFlags := f.awFlags ||| awayFlags L f.fid }
    rw [hx] at e
    simp only [getX64, getX] at e ⊢
    rw [hgx]; exact e
  · intro j hd hws f hl
    simp only [hd] at *
    have hl' : ((actives ex r.h).map (fun f => (f, (r.out s ex f).1))).getLast? = some (f, (r.out s ex f).1) := by
      rw [List.getLast?_map, hl]; rfl
    rw [writeResult_g hl' hws]
    have h := popAct_cush (v := (·.g)) (fun _ _ => rfl) ex (shape r.srcs (some (dW r.w64 (Dst.g j)))).srcs p.2 A
      (pushLatch (updCush (raiseAll s1 L) ex.cush.cid (fun c =>
        { c with g := if r.w64 then setAt 0 (setAt 0 c.g j.toNat (lo32 (r.out s ex f).1)) (j.toNat + 1) (hi32 (r.out s ex f).1)
                      else setAt 0 c.g j.toNat (lo32 (r.out s ex f).1) })) ex r.w64 ((actives ex r.h).map (fun f => (f, (r.out s ex f).1))), false) ex.cush.cid
    have e0 : ∀ (g : Cushion → Cushion) x, (∀ c, (g c).cid = c.cid) → getCush (pushLatch (updCush (raiseAll s1 L) ex.cush.cid g) ex r.w64 x)
        ex.cush.cid = some (g (ex.cush.raise s1.clock (homeFlags L ex.cush.cid))) := by
      intro g x hg
      unfold pushLatch
      rw [getCush_updSlot, getCush_updCush _ _ _ _ hg, getCush_raiseAll, ← hs1, getCush_setPc, focusEx_cush hf]
      simp only [Option.map_some, if_true]
    rw [e0] at h
    rotate_left
    · intro c; rfl
    obtain ⟨c, hc, hcg⟩ := Option.map_eq_some_iff.1 h
    refine ⟨c, by rw [getCush_settleRun]; exact hc, ?_⟩
    simp only at hcg
    rw [hcg]
    unfold ValueRow.res
    cases r.w64
    · simp [getD_setAt]
    · simp [getD_setAt, pair64_halves]
  · intro c hd hws d hn hcid
    simp only [hd] at *
    -- the next stage's cushion, once the flags are raised
    have hn2 : (nextStage (raiseAll s1 L) ex.cush).map (fun d => (d.cid, d.chans)) = some (d.cid, d.chans) := by
      rw [nextStage_raiseAll (v := fun d => (d.cid, d.chans)) (fun _ _ _ => rfl)]
      have : nextStage s1 ex.cush = nextStage s ex.cush := by rw [← hs1]; rfl
      rw [this, hn]; rfl
    obtain ⟨d2, hd2, e2⟩ := Option.map_eq_some_iff.1 hn2
    obtain ⟨e2c, e2h⟩ := Prod.mk.inj e2
    -- after the push
    have hpush : (nextStage (writeResult (raiseAll s1 L) ex r.h (.h c) r.w64 ((actives ex r.h).map (fun f => (f, (r.out s ex f).1)))) ex.cush).map
        (fun d => (d.cid, d.chans)) = some (d.cid, setAt [] d.chans c.toNat (getD d.chans c.toNat [] ++ [r.entry s ex])) := by
      unfold writeResult
      simp only [hresne, hws, Bool.false_eq_true, if_false]
      unfold pushLatch pushChan
      rw [hd2]
      have hsl : ∀ (s : State) a b g, nextStage (updSlot s a b g) ex.cush = nextStage s ex.cush := fun _ _ _ _ => rfl
      rw [hsl]
      simp only [nextStage_wakeAll]
      rw [nextStage_updCush, hd2]
      · simp only [Option.map_some, if_true, e2c, e2h]
        congr 4
        have hent : ∀ f, lo32 (r.out s ex f).1 = lo32 (r.res s ex f) := by
          intro f; unfold ValueRow.res; cases r.w64 <;> simp [lo32_zext]
        unfold ValueRow.entry
        congr 1
        congr 1
        · refine List.map_congr_left fun l _ => ?_
          rw [List.find?_map, Option.map_map]
          congr 1
          exact congrArg (Option.map · _) (funext fun f => hent f)
        · rw [List.foldl_map]
      · intro x; exact ⟨rfl, rfl, rfl, rfl⟩
    obtain ⟨d3, hd3, e3⟩ := Option.map_eq_some_iff.1 hpush
    obtain ⟨e3c, e3h⟩ := Prod.mk.inj e3
    have hpop : (nextStage (frondExec.popAct ex (shape r.srcs (some (dW r.w64 (.h c)))).srcs p.2 A (writeResult (raiseAll s1 L) ex r.h (.h c) r.w64
        ((actives ex r.h).map (fun f => (f, (r.out s ex f).1))), false)).1 ex.cush).map (·.chans) = some d3.chans := by
      have hu : (nextStage (updCush (writeResult (raiseAll s1 L) ex r.h (.h c) r.w64 ((actives ex r.h).map (fun f => (f, (r.out s ex f).1))))
          ex.cush.cid (fun c => { c with chans := p.2 })) ex.cush).map (·.chans) = some d3.chans := by
        rw [nextStage_updCush, hd3]
        · rw [Option.map_some, if_neg (by rw [e3c]; exact hcid)]; rfl
        · intro x; exact ⟨rfl, rfl, rfl, rfl⟩
      unfold frondExec.popAct; simp only; split
      · rw [hd3]; rfl
      · split
        · exact hu
        · simp only [nextStage_wakeAll]; exact hu
    obtain ⟨d4, hd4, e4⟩ := Option.map_eq_some_iff.1 hpop
    refine ⟨d4, by rw [nextStage_settleRun]; exact hd4, ?_⟩
    rw [e4, e3h, getD_setAt, if_pos rfl]
  · intro cid c hc
    have h : (getCush (settleRun (frondExec.popAct ex (shape r.srcs (some (dW r.w64 r.dst))).srcs p.2 A
        (writeResult (raiseAll s1 L) ex r.h r.dst r.w64 ((actives ex r.h).map (fun f => (f, (r.out s ex f).1))), false)).1 ex.core ex.slot
        ((frondExec.popAct ex (shape r.srcs (some (dW r.w64 r.dst))).srcs p.2 A
        (writeResult (raiseAll s1 L) ex r.h r.dst r.w64 ((actives ex r.h).map (fun f => (f, (r.out s ex f).1))), false)).2 || r.h.er)) cid).map (·.fsr) =
        some (c.fsr ||| homeFlags L cid) := by
      rw [getCush_settleRun, popAct_cush (v := (·.fsr)) (fun _ _ => rfl), writeResult_cush (v := (·.fsr)) (fun _ _ => rfl) (fun _ _ => rfl),
        getCush_raiseAll, ← hs1, getCush_setPc, hc]
      simp
    obtain ⟨c', hc', e⟩ := Option.map_eq_some_iff.1 h
    refine ⟨c', hc', ?_⟩
    rw [e, ← hL]
    unfold homeFlags
    rw [List.filter_map, List.map_map]; rfl
  · intro f hm
    have h := viewF (v := (·.awFlags)) ⟨fun w _ _ _ => by cases w <;> rfl, wakeFibre_view (fun _ _ _ _ _ => rfl)⟩ f.fid
    rw [hg2 f (hact f hm)] at h
    obtain ⟨g, hg, hp⟩ := Option.map_eq_some_iff.1 h
    refine ⟨g, hg, ?_⟩
    rw [hp]
    have : awayFlags L f.fid = if f.away then (r.out s ex f).2 else 0 := by
      unfold awayFlags
      cases hw : f.away with
      | true =>
        refine orAll_same ?_ ?_
        · intro y hy
          obtain ⟨q, hq, rfl⟩ := List.mem_map.1 hy
          obtain ⟨hq1, hq2⟩ := List.mem_filter.1 hq
          rw [← hL] at hq1
          obtain ⟨g', hg', rfl⟩ := List.mem_map.1 hq1
          simp only [Bool.and_eq_true, beq_iff_eq] at hq2
          rw [same f (hact f hm) g' (hact g' hg') hq2.2]; rfl
        · refine List.mem_map.2 ⟨(f, (r.out s ex f).2), List.mem_filter.2 ⟨?_, by simp [hw]⟩, rfl⟩
          rw [← hL]; exact List.mem_map.2 ⟨f, hm, rfl⟩
      | false =>
        have : L.filter (fun r => r.1.away && r.1.fid == f.fid) = [] := by
          rw [List.filter_eq_nil_iff]
          intro q hq
          rw [← hL] at hq
          obtain ⟨g', hg', rfl⟩ := List.mem_map.1 hq
          simp only [Bool.and_eq_true, beq_iff_eq, not_and]
          intro ha e
          rw [same f (hact f hm) g' (hact g' hg') e, hw] at ha; cases ha
        rw [this]; rfl
    rw [this]; cases f.away <;> simp
  · have hsl : getSlot (frondExec.popAct ex (shape r.srcs (some (dW r.w64 r.dst))).srcs p.2 A
        (writeResult (raiseAll s1 L) ex r.h r.dst r.w64 ((actives ex r.h).map (fun f => (f, (r.out s ex f).1))), false)).1 ex.core ex.slot =
        some { k with latches := (r.latch s ex :: ex.latches).take 4 } := by
      rw [popAct_slot, writeResult_slot _ _ _ _ _ hresne, getSlot_raiseAll, ← hs1, getSlot_setPc, hk, Option.map_some, hkl]
      congr 3
      unfold latchOf ValueRow.latch
      congr 1
      congr 1
      refine List.map_congr_left fun l _ => ?_
      rw [List.find?_map, Option.map_map]; rfl
    have hfr' : (getFrond (frondExec.popAct ex (shape r.srcs (some (dW r.w64 r.dst))).srcs p.2 A
        (writeResult (raiseAll s1 L) ex r.h r.dst r.w64 ((actives ex r.h).map (fun f => (f, (r.out s ex f).1))), false)).1 ex.frond.fr).isSome = true := by
      rw [popAct_frond, writeResult_frond]
      have : getFrond (raiseAll s1 L) ex.frond.fr = getFrond s ex.frond.fr := by
        have h := congrArg State.fronds (raiseAll_only s1 L)
        unfold getFrond
        show List.find? _ (runless (raiseAll s1 L)).fronds = _
        rw [show (runless (raiseAll s1 L)).fronds = (runless s1).fronds from h, ← hs1]; rfl
      rw [this, hfr]; rfl
    have := settleRun_slot (er := r.h.er) hsl (fr := ex.frond.fr) hkf hfr'
    unfold runAfter
    simp only [popAct_snd, Bool.false_or]
    refine ⟨_, this, ?_⟩
    cases r.h.er
    · exact ⟨hkf, rfl⟩
    · exact ⟨rfl, rfl⟩

/-! ## What the instruction leaves unchanged -/

theorem pushChan_only (s : State) (ex : Ex) (h : Nat) (res : List (Fibre × DWord)) : onlyRun s (pushChan s ex h res) := by
  unfold pushChan; split
  · exact onlyRun_refl s
  · exact foldl_keep (fun t => onlyRun s t) _ _ _ (fun _ _ h => onlyRun_trans h rfl) rfl

theorem writeResult_only (s : State) (ex : Ex) (h : Hdr) (d : Dst) (w64 : Bool) (res : List (Fibre × DWord)) :
    onlyRun s (writeResult s ex h d w64 res) := by
  unfold writeResult
  split
  · exact onlyRun_refl s
  · refine onlyRun_trans (t := _) ?_ (show onlyRun _ (pushLatch _ ex w64 res) from rfl)
    split
    · exact onlyRun_refl s
    · cases d with
      | x i => exact foldl_keep (fun t => onlyRun s t) _ _ _ (fun _ _ h => onlyRun_trans h rfl) (onlyRun_refl s)
      | g i => simp only; split <;> rfl
      | h c => exact pushChan_only _ _ _ _
      | none => exact onlyRun_refl s

theorem popAct_none (ex : Ex) {srcs : List SrcU} (cs : List (List ChanEntry)) (acts : List LaneIn) (b : Body)
    (h : srcs.all (fun u => match u.src with | .h _ _ => false | _ => true) = true) : frondExec.popAct ex srcs cs acts b = b := by
  unfold frondExec.popAct
  refine if_pos ?_
  rw [Bool.or_eq_true]
  left
  rw [List.isEmpty_iff, List.filterMap_eq_nil_iff]
  intro u hu
  have := List.all_eq_true.1 h u hu
  cases hs : u.src <;> simp_all

theorem getSlot_writeResult_ne (s : State) (ex : Ex) (h : Hdr) (d : Dst) (w64 : Bool) (res : List (Fibre × DWord)) {c j : Nat}
    (hne : (c, j) ≠ (ex.core, ex.slot)) : getSlot (writeResult s ex h d w64 res) c j = getSlot s c j := by
  have hl : ∀ (s : State), getSlot (pushLatch s ex w64 res) c j = getSlot s c j := by
    intro s
    unfold pushLatch getSlot
    rw [updSlot_slots, find?_updIf _ _ _ _ (by intro k; rfl)]
    cases hf : s.slots.find? (fun k => k.core == c && k.slot == j) with
    | none => rfl
    | some k =>
      have hk : k.core = c ∧ k.slot = j := by simpa using List.find?_some hf
      have : ¬ (k.core = ex.core ∧ k.slot = ex.slot) := fun h' => hne (by rw [← hk.1, ← hk.2, h'.1, h'.2])
      simp [this]
  unfold writeResult
  split
  · rfl
  · rw [hl]
    split
    · rfl
    · cases d with
      | x i => simp only; rw [getSlot_foldl_updFibre]
      | g i => simp only; split <;> rfl
      | h c' => exact pushChan_slot _ _ _ _ _ _
      | none => rfl

theorem badRest_putX (w64 : Bool) (i : Nat) (v : DWord) (f : Fibre) :
    badRest (putX w64 i v f).bad (some i) w64 = badRest f.bad (some i) w64 := by
  unfold putX badRest
  cases w64 <;> simp only [setX64, setX, Bool.false_eq_true, if_false, if_true, List.filter_filter] <;>
    exact List.filter_congr fun j _ => by cases h : j != i <;> cases h' : j == i + 1 <;> simp_all

theorem regsRest_putX (w64 : Bool) (i : Nat) (v : DWord) (f : Fibre) :
    regsRest (putX w64 i v f).x (some i) w64 = regsRest f.x (some i) w64 := by
  unfold putX regsRest
  cases w64
  · simp [setX, setAt_setAt]
  · simp only [if_true, setX64, setX]
    rw [setAt_comm 0 (setAt 0 f.x i (lo32 v)) (i + 1) i _ _ (by omega), setAt_setAt, setAt_setAt]

theorem valueExec_frame {r : ValueRow} {i : Instr} {s : State} {ex : Ex} (hr : ready s ex r.h r.shape = true)
    (hc : noChan r.shape = true) :
    ValueFrame r s ex (valueExec i r.h r.srcs r.dst r.w64 (fun s f vs => r.val (fctlOf s f) f vs) s) := by
  obtain ⟨hf, hne, -, -, -⟩ := ready_spec hr
  obtain ⟨-, ⟨k, hk, hkf, hkl⟩, hfr, -, -, -, -⟩ := focusEx_spec hf
  obtain ⟨p, -, he⟩ := frondExec_ready (i := i) (sh := shape r.srcs (some (dW r.w64 r.dst))) (extra := fun _ _ _ => [])
    (body := fun ex lanes s =>
      let res := (lanes.filter (·.act)).map (fun l => (l.f, r.val (fctlOf s l.f) l.f l.vals))
      let s' := res.foldl (fun s r => raiseFlags s r.1 r.2.2) s
      (writeResult s' ex r.h r.dst r.w64 (res.map (fun r => (r.1, r.2.1))), false)) hr (fun _ _ _ => rfl)
  unfold noChan at hc
  rw [Bool.and_eq_true] at hc
  rw [popAct_none (srcs := (shape r.srcs (some (dW r.w64 r.dst))).srcs) _ _ _ _ hc.1] at he
  unfold valueExec
  rw [he]
  have hres : ((laneIns ex r.h (shape r.srcs (some (dW r.w64 r.dst))).srcs).filter (·.act)).map (fun l =>
      (l.f, r.val (fctlOf (setPc s (ex.lanes.map (·.fid)) (ex.pc + 8#64)) l.f) l.f l.vals)) =
      (actives ex r.h).map (fun f => (f, r.out s ex f)) := by
    rw [laneIns_actives, List.map_map]; rfl
  simp only [hres]
  have hrs : ∀ (s0 : State), ((actives ex r.h).map (fun f => (f, r.out s ex f))).foldl (fun s r => raiseFlags s r.1 r.2.2) s0 =
      raiseAll s0 ((actives ex r.h).map (fun f => (f, (r.out s ex f).2))) := by
    intro s0; unfold raiseAll; rw [List.foldl_map, List.foldl_map]
  rw [hrs]
  generalize hL : (actives ex r.h).map (fun f => (f, (r.out s ex f).2)) = L
  have hmm : ((actives ex r.h).map (fun f => (f, r.out s ex f))).map (fun r => (r.1, r.2.1)) =
      (actives ex r.h).map (fun f => (f, (r.out s ex f).1)) := by rw [List.map_map]; rfl
  rw [hmm]
  generalize hR : (actives ex r.h).map (fun f => (f, (r.out s ex f).1)) = R
  have hRne : R.isEmpty = false := by
    rw [← hR]; cases ha : actives ex r.h with
    | nil => rw [ha] at hne; cases hne
    | cons a l => rfl
  have hact : ∀ f ∈ actives ex r.h, f ∈ ex.lanes := fun f h => (List.mem_filter.1 h).1
  have same : ∀ f ∈ ex.lanes, ∀ g ∈ ex.lanes, g.fid = f.fid → g = f := by
    intro f h1 g h2 e
    have := focusEx_lane hf h2
    rw [e, focusEx_lane hf h1] at this; exact (Option.some.inj this).symm
  have hLf : ∀ x ∈ L, x.1 ∈ actives ex r.h := by intro x hx; rw [← hL] at hx; obtain ⟨f, h, rfl⟩ := List.mem_map.1 hx; exact h
  have hRf : ∀ x ∈ R, x.1 ∈ actives ex r.h := by intro x hx; rw [← hR] at hx; obtain ⟨f, h, rfl⟩ := List.mem_map.1 hx; exact h
  generalize hs1 : setPc s (ex.lanes.map (·.fid)) (ex.pc + 8#64) = s1
  have noAway : ∀ n, (∀ f ∈ actives ex r.h, f.fid ≠ n) → awayFlags L n = 0 := by
    intro n h
    unfold awayFlags
    have : L.filter (fun r => r.1.away && r.1.fid == n) = [] := by
      rw [List.filter_eq_nil_iff]; intro q hq; simp [h _ (hLf q hq)]
    rw [this]; rfl
  -- fibres after the result
  have hfib : ∀ n, getFibre (settleRun (writeResult (raiseAll s1 L) ex r.h r.dst r.w64 R) ex.core ex.slot (false || r.h.er)) n =
      match xDst r.h.ws r.dst with
      | some i => (getFibre (raiseAll s1 L) n).map (fun f => (R.filter (fun x => n == x.1.fid)).foldl (fun f x => putX r.w64 i x.2 f) f)
      | none => getFibre (raiseAll s1 L) n := by
    intro n
    rw [getFibre_settleRun]
    cases hws : r.h.ws with
    | true =>
      have hx : xDst true r.dst = none := by cases r.dst <;> rfl
      rw [hx]
      unfold writeResult; simp only [hRne, hws, Bool.false_eq_true, if_false, if_true]; rfl
    | false =>
      cases hd : r.dst with
      | x i =>
        rw [writeResult_x hRne hws]
        unfold pushLatch
        rw [getFibre_updSlot]
        exact getFibre_foldl_updFibre (fun r : Fibre × DWord => r.1.fid) (fun x => putX r.w64 i.toNat x.2) (fun a b => putX_fid _ _ _ _) R _ n
      | g i =>
        have : ∃ f v, R.getLast? = some (f, v) := by
          cases h : R.getLast? with
          | none => rw [List.getLast?_eq_none_iff] at h; rw [h] at hRne; cases hRne
          | some q => exact ⟨q.1, q.2, rfl⟩
        obtain ⟨f, v, hl⟩ := this
        rw [writeResult_g hl hws]; rfl
      | h c => exact absurd hc.2 (by simp [ValueRow.shape, shape, dW, hd])
      | none => unfold writeResult; simp only [hRne, hws, Bool.false_eq_true, if_false]; rfl
  refine ⟨?_, ⟨?_, ?_, ?_⟩, ?_, ?_⟩
  · refine onlyRun_trans ?_ (settleRun_only _ _ _ _)
    refine onlyRun_trans ?_ (writeResult_only _ _ _ _ _ _)
    refine onlyRun_trans ?_ (raiseAll_only _ _)
    rw [← hs1]; rfl
  · intro n hn
    have hn' : ∀ f ∈ actives ex r.h, f.fid ≠ n := fun f h e => hn (List.mem_map.2 ⟨f, hact f h, e⟩)
    have h0 : getFibre (raiseAll s1 L) n = getFibre s n := by
      rw [getFibre_raiseAll, noAway n hn', ← hs1, getFibre_setPc]
      have : (ex.lanes.map (·.fid)).contains n = false := by
        rw [Bool.eq_false_iff, Ne, List.contains_iff_mem]; exact hn
      rw [this]; cases getFibre s n <;> simp
    rw [hfib, h0]
    split
    · have : R.filter (fun x => n == x.1.fid) = [] := by
        rw [List.filter_eq_nil_iff]; intro q hq; simp only [beq_iff_eq]; exact fun e => hn' _ (hRf q hq) e.symm
      rw [this]; cases getFibre s n <;> rfl
    · rfl
  · intro c j h
    rw [getSlot_settleRun_ne _ _ _ _ h, getSlot_writeResult_ne _ _ _ _ _ _ h, getSlot_raiseAll, ← hs1, getSlot_setPc]
  · have hsl : getSlot (writeResult (raiseAll s1 L) ex r.h r.dst r.w64 R) ex.core ex.slot =
        some { k with latches := (latchOf r.w64 R :: k.latches).take 4 } := by
      rw [writeResult_slot _ _ _ _ _ hRne, getSlot_raiseAll, ← hs1, getSlot_setPc, hk]; rfl
    have hfr' : (getFrond (writeResult (raiseAll s1 L) ex r.h r.dst r.w64 R) ex.frond.fr).isSome = true := by
      rw [writeResult_frond]
      have h := congrArg State.fronds (raiseAll_only s1 L)
      have : getFrond (raiseAll s1 L) ex.frond.fr = getFrond s ex.frond.fr := by
        unfold getFrond
        show List.find? _ (runless (raiseAll s1 L)).fronds = _
        rw [show (runless (raiseAll s1 L)).fronds = (runless s1).fronds from h, ← hs1]; rfl
      rw [this, hfr]; rfl
    rw [Bool.false_or, settleRun_slot (er := r.h.er) hsl (fr := ex.frond.fr) hkf hfr', hk]
    cases r.h.er <;> rfl
  · intro f hm
    have h2 : getFibre (raiseAll s1 L) f.fid = some { f with pc := ex.pc + 8#64, awFlags := f.awFlags ||| awayFlags L f.fid } := by
      rw [← hs1]; exact getFibre_raised hf L hm
    have hx := hfib f.fid
    rw [h2] at hx
    cases hg : guardOf r.h f with
    | false =>
      have hn' : ∀ g ∈ actives ex r.h, g.fid ≠ f.fid := by
        intro g h e
        have := same f hm g (hact g h) e
        subst this
        have := (List.mem_filter.1 h).2; rw [hg] at this; cases this
      rw [noAway _ hn'] at hx
      refine ⟨{ f with pc := ex.pc + 8#64 }, hx.trans ?_, by simp only [Bool.false_eq_true, if_false]⟩
      split
      · have : R.filter (fun x => f.fid == x.1.fid) = [] := by
          rw [List.filter_eq_nil_iff]; intro q hq; simp only [beq_iff_eq]; exact fun e => hn' _ (hRf q hq) e.symm
        rw [this]; simp
      · simp
    | true =>
      simp only [if_true]
      cases hd : xDst r.h.ws r.dst with
      | none => rw [hd] at hx; exact ⟨_, hx, rfl⟩
      | some j =>
        rw [hd] at hx
        simp only [Option.map_some] at hx
        refine ⟨_, hx, ?_⟩
        have : ∀ (l : List (Fibre × DWord)) (g : Fibre), fibreRest (l.foldl (fun f x => putX r.w64 j x.2 f) g) (some j) r.w64 =
            fibreRest g (some j) r.w64 := by
          intro l g
          refine foldl_view (fun g => fibreRest g (some j) r.w64) _ l g (fun g x => ?_)
          have e := regsRest_putX r.w64 j x.2 g
          have e' := badRest_putX r.w64 j x.2 g
          unfold fibreRest
          rw [e, e']
          unfold putX
          split <;> rfl
        rw [this]; rfl
  · intro cid
    rw [getCush_settleRun]
    have h1 : ∀ o, (getCush (raiseAll s1 L) cid).map (fun c => cushRest c o r.w64) = (getCush s cid).map (fun c => cushRest c o r.w64) := by
      intro o
      rw [getCush_raiseAll, ← hs1, getCush_setPc, Option.map_map]
      exact congrArg (Option.map · _) (funext fun c => raise_view (v := fun c => cushRest c o r.w64) (fun _ _ _ => rfl) _ _ c)
    refine Eq.trans ?_ (h1 _)
    cases hws : r.h.ws with
    | true => unfold writeResult; simp only [hRne, hws, Bool.false_eq_true, if_false, if_true]; rfl
    | false =>
      cases hd : r.dst with
      | x i =>
        rw [writeResult_x hRne hws]; unfold pushLatch; rw [getCush_updSlot, getCush_foldl_updFibre]
      | g i =>
        have : ∃ f v, R.getLast? = some (f, v) := by
          cases h : R.getLast? with
          | none => rw [List.getLast?_eq_none_iff] at h; rw [h] at hRne; cases hRne
          | some q => exact ⟨q.1, q.2, rfl⟩
        obtain ⟨f, v, hl⟩ := this
        rw [writeResult_g hl hws]; unfold pushLatch; rw [getCush_updSlot, getCush_updCush]
        · cases getCush (raiseAll s1 L) cid with
          | none => rfl
          | some c =>
            by_cases e : cid = ex.cush.cid
            · simp only [e, if_true, Option.map_some, gDst, Bool.false_eq_true, if_false, cushRest, regsRest]
              cases r.w64
              · simp [setAt_setAt]
              · simp only [if_true]
                rw [setAt_comm 0 (setAt 0 c.g i.toNat (lo32 v)) (i.toNat + 1) i.toNat _ _ (by omega), setAt_setAt, setAt_setAt]
            · simp [e]
        · intro c; rfl
      | h c => exact absurd hc.2 (by simp [ValueRow.shape, shape, dW, hd])
      | none => unfold writeResult; simp only [hRne, hws, Bool.false_eq_true, if_false]; rfl

end Sys2Proof.Machine
end

