-- ==== Sys2Proof/Tests/Slice0.lean ====
section
/-! SUPPORT. Tests: words written out from the encoding tables decode to their instruction, ill-formed terms are refused, single steps give
the values worked out from the rules, and states that meet the hypotheses of the statements. -/

namespace Sys2Proof.Tests

open Sys2Proof Sys2Proof.Machine Sys2Proof.Safety Sys2Proof.Stmt

set_option Elab.async false

/-! ## Decoding: the words of the spec's encodings (R74 to R106) -/

theorem test_word_iadd : decodeWord 0x1000140301000006#64 = .ok (.iadd plain ⟨false, true, true⟩ (.x 5) (.x 3) (.x 4)) := by decide
theorem test_word_iadd_guarded : decodeWord 0x1280140380400000#64 = .ok (.iadd ⟨true, 2, false, false⟩ ⟨false, false, false⟩ (.x 5) (.x 3) (.b 1)) := by
  decide
theorem test_word_cvt : decodeWord 0x300014030252A028#64 = .ok (.cvt plain .bf16 .f32 (.sr (.x 9)) false (.x 5) (.x 3)) := by decide
theorem test_word_shlImm : decodeWord 0x14001C0700000342#64 = .ok (.shlImm plain ⟨false, true⟩ (.x 7) (.x 7) 3) := by decide
theorem test_word_movhi : decodeWord 0x1C00100000004801#64 = .ok (.movhi plain (.x 4) 0x12) := by decide
theorem test_word_ffma : decodeWord 0x2800280B0300D0E0#64 = .ok (.ffma plain .f32 .rne (.x 10) (.x 11) (.x 12) (.x 13)) := by decide
theorem test_word_bra : decodeWord 0x044FFFFF80000000#64 = .ok (.bra ⟨false, 1, false, false⟩ 0xFFFFF8) := by decide
theorem test_word_fork : decodeWord 0x0C0000005024400C#64 = .ok (.fork plain 5 (.x 9) 3) := by decide
theorem test_word_shfl : decodeWord 0x3800140301000002#64 = .ok (.shfl plain .down (.x 5) (.x 3) (.x 4)) := by decide
theorem test_word_st : decodeWord 0x50001C080000408A#64 = .ok (.st plain .w32 true .die (.x 7) (.x 8) 0x40) := by decide
theorem test_word_atom : decodeWord 0x5C00140800181093#64 = .ok (.atom plain .add .w32 .acqRel .package (.x 5) (.x 8) 0x10 (.x 6)) := by decide
theorem test_word_ldge : decodeWord 0x64000C0A1010008B#64 = .ok (.ldge plain .w32 .package (.x 3) (.x 10) 0 (.x 4)) := by decide
theorem test_word_fence : decodeWord 0x680C000000000013#64 = .ok (.fence plain .acqRel .package) := by decide
theorem test_word_cseek : decodeWord 0x6C00040600000081#64 = .ok (.cseek plain true 1 (.x 6)) := by decide
theorem test_word_mma : decodeWord 0x7000000200001040#64 = .ok (.mma plain .s8 false 0 2 1) := by decide
theorem test_word_tldef : decodeWord 0x7400090040800000#64 = .ok (.tldef plain 2 (.g 0) (.g 2)) := by decide
theorem test_word_cpy : decodeWord 0x780C00080280C001#64 = .ok (.cpy plain (.x 8) (.x 10) (.x 12) 1) := by decide

/-! ## Ill-formed terms (R387, R10, R27, R443) -/

theorem test_illformed_cvt_source : (Instr.cvt plain .f32 .mx8 (.mode .rne) false (.x 1) (.x 2)).wf = false := by decide
theorem test_illformed_cvt_seed_to_integer : (Instr.cvt plain .s32 .f32 (.sr (.x 9)) false (.x 1) (.x 2)).wf = false := by decide
theorem test_illformed_redn_and_f32 : (Instr.redn plain .and .f32 (.x 1) (.x 2)).wf = false := by decide
theorem test_illformed_atoms_fadd_bytes : (Instr.atoms plain .fadd .n8 false (.x 1) (.x 2) 0 (.x 3)).wf = false := by decide
theorem test_illformed_red_exch : (Instr.red plain .exch .w32 false .package (.x 2) 0 (.x 1)).wf = false := by decide
theorem test_illformed_mma_s32 : (Instr.mma plain .s32 false 0 2 1).wf = false := by decide
theorem test_illformed_core : (Instr.runStart 384 0).wf = false := by decide
theorem test_illformed_die : (Instr.patchPlace 8).wf = false := by decide
theorem test_illformed_region : (Instr.crustRegionReady 0 64).wf = false := by decide
theorem test_illformed_queue : (Instr.faultRecordPost 17).wf = false := by decide
theorem test_illformed_entry : (Instr.circuitOpened 256).wf = false := by decide
theorem test_illformed_port : (Instr.linkPortLost 16).wf = false := by decide
theorem test_illformed_gate : (Instr.powerCapEvent 48 0).wf = false := by decide
theorem test_illformed_write_width : (Instr.registerWrite { off := 0x7000, bytes := 2, value := 0 }).wf = false := by decide
theorem test_illformed_write_alignment : (Instr.registerWrite { off := 0x7004, bytes := 8, value := 0 }).wf = false := by decide

/-! ## A small machine: one fibre of 256 registers on core 0, in the focus of issue slot 0 -/

def base : State := { State.reset.withFetchWord 64 0 with focus := some (0, 0) }

/-- The fibre of `base` with registers x0, x1, …. -/
def withX (xs : List Word) : State := { base with fibres := base.fibres.map (fun f => { f with x := xs ++ f.x.drop xs.length }) }

/-- What a step leaves, read by a function. -/
def after {α : Type} (o : Host.Outcome State Fault Refusal) (g : State → α) : Option α := match o with | .next t => some (g t) | _ => none

/-- Register x i of the first fibre, its pc, its handler bit. -/
def xOf (i : Nat) (t : State) : Word := ((t.fibres.head?).map (fun f => getX f i)).getD 0
def pcOf (t : State) : DWord := ((t.fibres.head?).map (·.pc)).getD 0
def handlerOf (t : State) : Bool := ((t.fibres.head?).map (·.handler)).getD false
def infoOf (i : Nat) (t : State) : DWord := ((t.fibres.head?).map (fun f => getD f.faultInfo i 0)).getD 0

/-- IADD wraps at 32 bits (R148). -/
theorem test_iadd_wraps : after (exec (.iadd plain ⟨false, false, false⟩ (.x 2) (.x 0) (.x 1)) (withX [0xFFFFFFFF, 2])) (xOf 2) = some 1#32 := by
  decide +kernel
/-- Signed IADD with SAT stops at 2^31 - 1 (R148). -/
theorem test_iadd_saturates :
    after (exec (.iadd plain ⟨false, true, true⟩ (.x 2) (.x 0) (.x 1)) (withX [0x7FFFFFFF, 1])) (xOf 2) = some 0x7FFFFFFF#32 := by
  decide +kernel
theorem test_pc_advances : after (exec (.nop plain) base) pcOf = some (pcOf base + 8) := by decide +kernel
/-- TRAP puts its code into W3 and its syndrome 1 into bits 63 to 48 of W4, and enters the handler (R168, R380). -/
theorem test_trap_enters_handler : after (exec (.trap plain 0x123) base) (fun t => (handlerOf t, infoOf 2 t, infoOf 3 t)) =
    some (true, 0x123#64, 0x0001000000000000#64) := by decide +kernel
/-- A step fetches the word at the pc and runs it: MOVI, by the words of R97. -/
theorem test_step_runs_the_fetched_word : after (step (State.reset.withFetchWord 64 0x1C00100000004801)) pcOf = some (pcOf base + 8) := by
  decide +kernel
/-- PWPOOL clamps SIZE to 48 and sets SHRINK only below INUSE (R13). -/
theorem test_pwpool_clamps : after (exec (.pwpoolWrite (wr8 0x1000 5)) State.reset) (fun t => (ctlF t 0x1000 0 16, ctlB t 0x1008 0)) =
    some (48, false) := by decide +kernel
/-- Reset release opens the default circuits: entry 0 leads from die 0 to die 1 (R24). -/
theorem test_release_opens_circuits :
    after (exec (.resetRelease 0 0) State.reset) (fun t => (circuitOpen t 0 1, diesConnected t 7 3)) = some (true, true) := by decide +kernel
/-- A vault byte goes with its die's reset, one of another die stays (R376). -/
theorem test_die_reset_clears_vault :
    after (exec (.dieReset (wr8 0x32000 1)) { base with mem := [(2 ^ 40, 7), (2 ^ 40 + 48 * 2 ^ 22, 9)] })
      (fun t => (physRead t (2 ^ 40), physRead t (2 ^ 40 + 48 * 2 ^ 22), ctlB t 0x32000 8)) = some (0, 9, true) := by decide +kernel

/-! ## Witnesses: states that meet the hypotheses of the statements -/

/-- The frond in focus, and its one member. -/
def ex0 : Ex := (focusEx base).getD ⟨0, 0, ⟨0, 0, 0, false, [], 0, 0, 0⟩, [], probeCushion 0 0, probeCarpet 0, 0, []⟩
def fib0 : Fibre := (ex0.lanes.head?).getD (probeFibre 0 (probeCushion 0 0))

/-- What the focused issue slot holds, its first member; the state after a step that goes on. -/
def exOf (s : State) : Ex := (focusEx s).getD ex0
def fibOf (s : State) : Fibre := ((exOf s).lanes.head?).getD fib0
def next (o : Host.Outcome State Fault Refusal) (s : State) : State := match o with | .next t => t | _ => s

/-- `base` with its fibre, its cushion or its kernel changed. -/
def withFib (s : State) (g : Fibre → Fibre) : State := { s with fibres := s.fibres.map g }
def withCush (s : State) (g : Cushion → Cushion) : State := { s with cushions := s.cushions.map g }
def withKer (s : State) (g : Kernel → Kernel) : State := { s with carpets := s.carpets.map (fun k => { k with ker := g k.ker }) }

/-- Fibres in no group stand apart as their records and fronds say. -/
theorem apart (s : State) (h : (s.fibres.map (·.fid)).Nodup ∧ (s.fronds.flatMap (·.members)).Nodup ∧ (∀ x ∈ s.fronds, ∀ m ∈ x.members, m < s.nextId) ∧
    (∀ x ∈ s.fronds, ∀ f ∈ s.fibres, f.fid ∈ x.members → f.status = .resident ∧ f.cush = x.cush ∧ f.task = false) ∧
    ∀ f ∈ s.fibres, f.group = none) : FibresApart s :=
  ⟨h.1, h.2.1, h.2.2.1, h.2.2.2.1, fun f hf k hk => by simp [h.2.2.2.2 f hf] at hk⟩

theorem base_apart : FibresApart base := apart base (by decide +kernel)
theorem base_handles : HandlesBelow base := by unfold HandlesBelow; decide +kernel
theorem base_canonical : MemCanon base := by unfold MemCanon; decide +kernel

/-! ### Of the statements about steps, fetching and the invariants -/

theorem witness_invariants : MemCanon base ∧ PredZeroTrue base ∧ HandlesBelow base ∧ FibresApart base ∧ after (step base) (·.clock) = some 1 :=
  ⟨base_canonical, by unfold PredZeroTrue; decide +kernel, base_handles, base_apart, by decide +kernel⟩
/-- An issue turn whose frond may issue MOVHI. -/
def fetching : State :=
  let s := State.reset.withFetchWord 64 0x1C00100000004801
  let s1 := { s with agenda := s.agenda.drop 1 }
  { noteIssued (tick s1 (turnCycles s1 { dt := 1, act := .issue 0 0 })) 0 0 with focus := some (0, 0) }
theorem witness_issue_turn : (State.reset.withFetchWord 64 0x1C00100000004801).agenda = [{ dt := 1, act := .issue 0 0 }] ∧
    focusEx fetching = some (exOf fetching) ∧ issueRuns fetching (exOf fetching) = true ∧
    (match fetchWord fetching (exOf fetching) with | .word _ w => decodeWord w == .ok (.movhi plain (.x 4) 0x12) | _ => false) = true := by
  decide +kernel
theorem witness_event_turn : encode (.runStart 0 0) = none := by decide
theorem witness_own_turn : { base with agenda := [] }.agenda = [] ∧ (ownTurn { base with agenda := [], focus := none }).isSome = true := by
  decide +kernel
theorem witness_fetch : (match xlate base 0 0 (fetchAccess ex0.pc) with
    | (t, .ok xs) => t.poison.isEmpty && (placesOf t xs).all (fun p => match p with | .mem _ _ => true | _ => false)
    | _ => false) = true ∧ patchAt ex0.car ex0.pc = none := by decide +kernel

/-! ### Of the statements about values, predicates and channels -/

theorem witness_ialu : ∃ i r, IaluRow i r ∧ ready base ex0 r.h r.shape = true ∧ noChan r.shape = true :=
  ⟨_, _, .iadd plain ⟨false, true, true⟩ (.x 2) (.x 0) (.x 255), by decide +kernel⟩
theorem witness_falu : ∃ i r, FaluRow i r ∧ ready base ex0 r.h r.shape = true := ⟨_, _, .fadd plain .f64 .dyn (.x 254) (.x 0) (.g 2), by decide +kernel⟩
theorem witness_imm : ∃ i r, ImmRow i r ∧ ready base ex0 r.h r.shape = true := ⟨_, _, .pmovGet plain (.x 0), by decide +kernel⟩
theorem witness_conv : ∃ i r, ConvRow i r ∧ ready base ex0 r.h r.shape = true := ⟨_, _, .frcp plain .f32 (.x 1) (.x 0), by decide +kernel⟩
theorem witness_lane : ∃ i r, LaneRow ex0 i r ∧ ready base ex0 r.h { r.shape with across := true } = true := ⟨_, _, .shfl plain .down (.x 1) (.x 0) (.x 3), by decide +kernel⟩
theorem witness_pred : ∃ i r, PredOf ex0 i r ∧ ready base ex0 r.h r.shape = true ∧ noChan r.shape = true :=
  ⟨_, _, .icmp plain .eq false 3 (.x 0) (.x 1), by decide +kernel⟩
/-- An entry in channel 0, and a next stage with an empty one. -/
def staged : State := withCush { base with cushions := base.cushions ++ base.cushions.map (fun c => { c with cid := 99, stage := 2 }) }
  (fun c => if c.stage = 1 then { c with chans := [⟨List.replicate 32 7, 0, false⟩] :: c.chans.drop 1 } else c)
theorem witness_channels : ready staged (exOf staged) plain (Machine.shape [s32 1 (.h 0 true)] (some (dW false (.h 15)))) = true ∧
    stagesApart staged (exOf staged) :=
  ⟨by decide +kernel, show ∀ d ∈ nextStage staged (exOf staged).cush, d.cid ≠ (exOf staged).cush.cid by decide +kernel⟩
theorem witness_channel_empty : laneOk ex0 plain (Machine.shape [s32 1 (.h 3 true)] (some (dW false (.x 0)))) fib0 = true ∧
    soundReads ex0 plain (Machine.shape [s32 1 (.h 3 true)] (some (dW false (.x 0)))) = true ∧
    getD ex0.cush.chans 3 [] = [] ∧ roomFor base fib0 (parkArgs ex0 ex0.pc (.chanPop 3)) := by unfold roomFor; decide +kernel
def filled : State := withCush staged (fun c => if c.stage = 2 then { c with chans := List.replicate 16 ⟨List.replicate 32 7, 0, false⟩ :: c.chans.drop 1 } else c)
theorem witness_channel_full : laneOk (exOf filled) plain (Machine.shape [s32 1 (.x 0)] (some (dW false (.h 0)))) (fibOf filled) = true ∧
    ((nextStage filled (exOf filled).cush).map (fun n => (getD n.chans 0 []).length)) = some 16 ∧ getD (exOf filled).car.ker.chDepth 0 0 = 0 ∧
    roomFor filled (fibOf filled) (parkArgs (exOf filled) (exOf filled).pc (.chanPush 0)) := by unfold roomFor; decide +kernel

/-! ### Of the statements about control flow and traps -/

theorem witness_solo : ready base ex0 plain noShape = true ∧ ex0.lanes = [fib0] := by decide +kernel
theorem witness_false_guard : focusEx base = some ex0 ∧ (encode (.nop ⟨false, 1, false, false⟩)).isSome = true ∧
    (match encode (.nop ⟨false, 1, false, false⟩) with | some w => ex0.lanes.all (fun f => !guardOf (wordHdr w) f) | none => false) = true := by
  decide +kernel
theorem witness_traps : traps base fib0 ex0.car := by unfold traps; decide +kernel
/-- In handler mode; and with no handler. -/
def handling : State := withFib base (fun f => { f with handler := true, retAddr := 0x10000100 })
theorem witness_handling : solo handling (exOf handling) (fibOf handling) plain noShape ∧ (fibOf handling).handler = true := by
  unfold solo; decide +kernel
def unhandled : State := withKer base (fun k => { k with handler := 0xFFFFFFFF })
theorem witness_unhandled : solo unhandled (exOf unhandled) (fibOf unhandled) plain noShape ∧ (exOf unhandled).car.ker.handler = 0xFFFFFFFF := by
  unfold solo; decide +kernel
def attached : State := ctlSetB base offDBGCTL 16 true
theorem witness_attached : solo attached (exOf attached) (fibOf attached) plain noShape ∧ ctlB attached offDBGCTL (16 + (exOf attached).car.asid) = true ∧
    roomFor attached (fibOf attached) (parkArgs (exOf attached) ((exOf attached).pc + 8#64) .brk) := by unfold solo roomFor; decide +kernel
theorem witness_syscall : solo base ex0 fib0 plain { noShape with more := [sBase 4 0 (.x 0)] } ∧
    roomFor base fib0 { parkArgs ex0 (ex0.pc + 8#64) .sysc with dstG := 1 } := by unfold solo roomFor; decide +kernel
theorem witness_csr_numbers : csrAssigned 0x32 = true ∧ csrAssigned 0x33 = false ∧ csrPriv 0x800 = true ∧ csrPriv 0x32 = false ∧ csrAssigned 0x813 = true ∧
    csrAssigned 0x814 = false ∧ ready base ex0 plain (csrRow base ex0 plain (.x 4) 0x32).shape = true ∧
    ready handling (exOf handling) plain (csrRow handling (exOf handling) plain (.x 4) 0x813).shape = true := by decide +kernel
theorem witness_csrw : ready base ex0 plain { Machine.shape [s32 1 (.x 0)] none with held := true } = true ∧ (actives ex0 plain).getLast? = some fib0 := by
  decide +kernel
/-- x0 holds an aligned address of the code, x2 one that is not; the function table lists the first, with a larger window than 1. -/
def calling : State := withKer (withX [0x10000400, 0, 0x10000404, 0]) (fun k => { k with funcs := [0x0000000400000380#64] })
theorem witness_targets : solo calling (exOf calling) (fibOf calling) plain (Machine.shape [s64 1 (.x 0)] none) ∧
    (opv (operands (exOf calling) [s64 1 (.x 0)] (fibOf calling)) 0).toNat % 8 = 0 ∧
    (opv (operands (exOf calling) [s64 1 (.x 2)] (fibOf calling)) 0).toNat % 8 ≠ 0 ∧
    (budgetOf (exOf calling).car 0x10000400#64).isSome = true := by unfold solo; decide +kernel
/-- A window of one granule that can grow, and one that cannot. -/
def small : State := withFib calling (fun f => { f with winSize := 1 })
def tight : State := { small with fibres := small.fibres ++ small.fibres.map (fun f => { f with fid := 3, idx := 32, winOff := 0x840 }) }
theorem witness_windows : solo small (exOf small) (fibOf small) plain (Machine.shape [s64 1 (.x 0)] none) ∧ (fibOf small).status = .resident ∧
    growRoom small (fibOf small) 4 = true ∧ growRoom tight (fibOf tight) 4 = false ∧
    roomFor tight (fibOf tight) (parkArgs (exOf tight) (exOf tight).pc (.window 4)) ∧
    (budgetOf (exOf small).car 0x10000400#64) = some 4 := by unfold solo roomFor; decide +kernel
theorem witness_return : solo base ex0 fib0 plain retShape ∧ fib0.frame.toNat % 8 = 0 ∧
    (fibOf (withFib base (fun f => { f with frame := 4 }))).frame.toNat % 8 ≠ 0 := by unfold solo; decide +kernel
theorem witness_fork : ready base ex0 plain (Machine.shape [s32 1 (.x 0)] none) = true ∧
    recordUse base ex0.cush.core + 128 * (actives ex0 plain).length ≤ recBytes base ex0.cush.core ∧ (freeIdxs base ex0.cush.cid).headD 0 = 1 := by
  decide +kernel
theorem witness_exit : (getCush base fib0.cush).isSome = true := by decide +kernel
theorem witness_barrier : ready base ex0 plain heldShape = true ∧ recordRoom base ex0 plain (parkArgs ex0 (ex0.pc + 8#64) (.bar 3)) ∧
    recordRoom base ex0 plain (parkArgs ex0 (ex0.pc + 8#64) .reform) ∧ ∀ g ∈ cushFibres base ex0.cush.cid, g.fid = fib0.fid := by
  unfold recordRoom; decide +kernel
theorem witness_illegal : laneOk ex0 plain (Machine.shape [s64 1 (.x 255)] none) fib0 = false ∧ guardOf plain fib0 = true ∧
    16 * fib0.winSize < 256 + 2 ∧ (latchVal ex0 3 fib0.lane).isNone = true ∧
    (exOf (withKer base (fun k => { k with chMask := 0x7FFF }))).car.ker.chMask.getLsbD 15 = false ∧
    (fibOf (withFib base (fun f => { f with away := true }))).away = true := by decide +kernel
theorem witness_ready_value :
    ready base ex0 plain (Machine.shape [sNoChan 1 1 (.x 3), sNoChan 1 2 (.x 4)] (some (dW false (.x 5)))) = true := by decide +kernel
theorem witness_ready_load : ready base ex0 plain (ldShape .w32 (.x 5) (.x 8)) = true := by decide +kernel
theorem witness_ready_held : ready base ex0 plain heldShape = true := by decide +kernel

/-! ### Of the statements about near memory, the vault window, expansion -/

/-- x0 is the last word of scratch, x1 one byte on; x2 and x3 the last word of the visible slice, and x4 and x5 one byte on. -/
def nearby : State := withX [0x3FFC, 0x3FFD, 0x2FFFFC, 0, 0x2FFFFD, 0]
theorem witness_near : ready nearby (exOf nearby) plain (ldsShape .w32 (.x 8) (.x 0)) = true ∧
    (nearCells nearby (exOf nearby) false (opv (operands (exOf nearby) [sBase 1 6 (.x 0)] (fibOf nearby)) 0) 0 .w32).isSome = true ∧
    (nearCells nearby (exOf nearby) false (opv (operands (exOf nearby) [sBase 1 6 (.x 1)] (fibOf nearby)) 0) 0 .w32).isSome = false ∧
    (nearCells nearby (exOf nearby) true 0x800 1020 .w32).isSome = true ∧ (nearCells nearby (exOf nearby) true 0x800 1021 .w32).isSome = false ∧
    nearSound nearby (exOf nearby) (nearCells nearby (exOf nearby) true 0x800 1020 .w32) := by
  unfold nearSound; decide +kernel
theorem witness_near_quad : ready base ex0 (noWs plain) (ldsShape .w128 (.x 252) (.x 0)) = true ∧
    (nearCells base ex0 false (opv (operands ex0 [sBase 1 6 (.x 0)] fib0) 0) 0 .w128).isSome = true := by decide +kernel
theorem witness_near_store : ready nearby (exOf nearby) plain (stsShape .w64 (.x 6) (.x 0)) = true ∧
    ready nearby (exOf nearby) plain (atomsShape .cas .w32 (.x 8) (.x 0) (.x 9)) = true ∧
    nearOf (opv (operands (exOf nearby) (atomsShape .cas .w32 (.x 8) (.x 0) (.x 9)).srcs (fibOf nearby)) 1) 0 % 4 = 0 ∧
    nearOf (opv (operands (exOf nearby) (atomsShape .cas .w32 (.x 8) (.x 1) (.x 9)).srcs (fibOf nearby)) 1) 0 % 4 = 1 := by decide +kernel
theorem witness_window_registers : fib0 ∈ base.fibres ∧ fib0.status = .resident ∧ fib0.winOff % 64 = 0 ∧ fib0.winOff + 64 * fib0.winSize ≤ 0x8000 ∧
    ∀ g ∈ base.fibres, g = fib0 := by decide +kernel
theorem nothing_in_flight (f : Fibre) (a n : Nat) : vaultClear nearby (exOf nearby) f a n := by
  have h1 : nearby.reqs = [] := by decide +kernel
  have h2 : nearby.held = [] := by decide +kernel
  constructor
  · intro r hr; rw [h1] at hr; cases hr
  · intro k hk; rw [h2] at hk; cases hk
theorem witness_vault : ready nearby (exOf nearby) plain (ldnShape .w32 (.x 8) (.x 2)) = true ∧ ready nearby (exOf nearby) plain (stnShape .w32 (.x 8) (.x 2)) = true ∧
    inVault nearby (exOf nearby) (globalOf (opv (operands (exOf nearby) [sBase 2 6 (.x 2)] (fibOf nearby)) 0) 0) 4 = true ∧
    inVault nearby (exOf nearby) (globalOf (opv (operands (exOf nearby) [sBase 2 6 (.x 4)] (fibOf nearby)) 0) 0) 4 = false ∧ nearby.poison = [] := by
  decide +kernel
/-- A read of the core's on its way to the last visible line of the slice. -/
def vaultBusy : State := pushReq nearby (mkReq nearby 0 0 3 0 0 0 0 (.read (.load 1) [(2 ^ 40 + 0x2FFFC0, 0)]))
theorem witness_vault_busy : ready vaultBusy (exOf vaultBusy) plain (stnShape .w32 (.x 8) (.x 2)) = true ∧
    ¬ vaultClear vaultBusy (exOf vaultBusy) (fibOf vaultBusy) (2 ^ 40 + 0x2FFFFC) 4 := by
  refine ⟨by decide +kernel, fun h => ?_⟩
  have hm : (vaultBusy.reqs.all (fun r => r.src == 0 && (exOf vaultBusy).core == 0 && (opAddrs r.op).contains (2 ^ 40 + 0x2FFFC0)) &&
    !vaultBusy.reqs.isEmpty) = true := by decide +kernel
  simp only [Bool.and_eq_true, List.all_eq_true, beq_iff_eq, List.contains_iff_mem] at hm
  obtain ⟨r, hr⟩ : ∃ r, r ∈ vaultBusy.reqs := List.exists_mem_of_ne_nil _ (by simpa using hm.2)
  obtain ⟨⟨hs, hc⟩, ha⟩ := hm.1 r hr
  exact h.1 r hr (by omega) (Or.inl (by omega)) _ ha (Or.inl (by omega))

theorem witness_expand : ready base ex0 plain (expandShape (.x 0) (.x 1)) = true ∧ fib0.idx < 128 ∧ ex0.cush.exp.parts ++ ex0.cush.exp.later = [] ∧
    recordRoom base ex0 plain (parkArgs ex0 (ex0.pc + 8#64) .expand) ∧ ex0.cush.exp.phase = .idle ∧
    ∀ g ∈ cushFibres base ex0.cush.cid, g.fid = fib0.fid := by unfold recordRoom; decide +kernel
def lateIndex : State := withFib base (fun f => { f with idx := 128 })
theorem witness_expand_refused : solo lateIndex (exOf lateIndex) (fibOf lateIndex) plain (expandShape (.x 0) (.x 1)) ∧ 128 ≤ (fibOf lateIndex).idx := by
  unfold solo; decide +kernel
/-- A round of one fibre with n items, of which it has taken m and k steps are folded. -/
def dealing (n m k : Nat) : State := withCush base (fun c => { c with exp :=
  { phase := .dealing, parts := [{ fid := fib0.fid, idx := 0, start := 5, len := n, off := 0, acc := none, next := m, collected := false }],
    later := [], total := n, folded := k, contrib := [] } })
theorem witness_exstep : ready (dealing 3 1 1) (exOf (dealing 3 1 1)) plain (exstepShape (.x 4)) = true ∧
    (exOf (dealing 3 1 1)).cush.exp.phase = .dealing ∧ itemOf (exOf (dealing 3 1 1)).cush.exp fib0.fid = some 1 ∧
    stepValue (exOf (dealing 3 1 1)).cush.exp fib0.fid = 0x0000000600000000#64 ∧ itemOf (exOf (dealing 3 3 3)).cush.exp fib0.fid = none := by decide +kernel
theorem witness_segred : solo (dealing 3 1 1) (exOf (dealing 3 1 1)) fib0 plain (segredShape .s32 (.x 4) (.x 0)) ∧
    (∀ q ∈ (exOf (dealing 3 1 1)).cush.exp.parts, q.next < 1 + 16 ∧ q.collected = false) := by unfold solo; decide +kernel
theorem witness_segred_ahead : solo (dealing 17 16 0) (exOf (dealing 17 16 0)) fib0 plain (segredShape .s32 (.x 4) (.x 0)) ∧
    itemOf (exOf (dealing 17 16 0)).cush.exp fib0.fid = some 16 ∧ stepLacks (exOf (dealing 17 16 0)).cush.exp ∧
    roomFor (dealing 17 16 0) fib0 (parkArgs (exOf (dealing 17 16 0)) (exOf (dealing 17 16 0)).pc .segredRoom) := by
  unfold solo stepLacks roomFor; decide +kernel
theorem witness_segred_last : solo (dealing 3 3 3) (exOf (dealing 3 3 3)) fib0 plain (segredShape .s32 (.x 4) (.x 0)) ∧
    itemOf (exOf (dealing 3 3 3)).cush.exp fib0.fid = none ∧ (∀ g ∈ (dealing 3 3 3).fibres, g.wait = .none) ∧
    stepLacks (exOf (dealing 3 3 2)).cush.exp := by unfold solo stepLacks; decide +kernel

/-! ### Of the statements about global memory -/

/-- x0 and x1 are an address of the one mapped page, x2 and x3 of a page that is not. -/
def global : State := withX [0x10001000, 0, 0x20001000, 0, 0x10001002, 0]
theorem global_quiet : quiet global (exOf global) plain := by
  have h1 : global.reqs = [] := by decide +kernel
  have h2 : global.remote = [] := by decide +kernel
  refine ⟨by unfold HandlesBelow; decide +kernel,
    apart global (by decide +kernel), by decide +kernel, by decide +kernel, ?_⟩
  intro f _
  constructor
  · intro r hr; rw [h1] at hr; cases hr
  · intro r hr; rw [h2] at hr; cases hr
theorem witness_load : ready global (exOf global) (loadHdr plain .w32) (ldShape .w32 (.x 8) (.x 0)) = true ∧
    Reaches global (exOf global) (ldAcc (exOf global) (fibOf global) .w32 (.x 0) 0) ∧ actives (exOf global) plain = [fibOf global] ∧
    recordRoom global (exOf global) plain (replyArgs (exOf global) false (.x 8) .w32) ∧
    (∀ p ∈ placed global (exOf global) (ldAcc (exOf global) (fibOf global) .w32 (.x 0) 0), l1Poison global (exOf global).core p = false) := by
  unfold Reaches recordRoom; decide +kernel
theorem witness_store : ready global (exOf global) plain (stnShape .w64 (.x 6) (.x 0)) = true ∧
    Reaches global (exOf global) (stAcc (exOf global) (fibOf global) .w64 (.x 6) (.x 0) 0) ∧ (fibOf global).stcnt < 0xFFFF ∧
    holds_ global (fibOf global) false .core = none ∧ (placed global (exOf global) (stAcc (exOf global) (fibOf global) .w64 (.x 6) (.x 0) 0)).length = 8 ∧
    (let ps := placed global (exOf global) (stAcc (exOf global) (fibOf global) .w64 (.x 6) (.x 0) 0); ∀ p ∈ ps, missesL1 global (exOf global) ps p = false) ∧
    (let ps := placed global (exOf global) (stAcc (exOf global) (fibOf global) .n8 (.x 6) (.x 0) 0); ∃ p ∈ ps, missesL1 global (exOf global) ps p = true) := by
  unfold Reaches; decide +kernel
/-- The store counter is at its last value; and one store is unacknowledged. -/
def counting (n : Nat) : State := withFib global (fun f => { f with stcnt := n })
theorem witness_store_full : 0xFFFF ≤ (fibOf (counting 0xFFFF)).stcnt ∧
    recordRoom (counting 0xFFFF) (exOf (counting 0xFFFF)) plain (parkArgs (exOf (counting 0xFFFF)) (exOf (counting 0xFFFF)).pc .storeRoom) := by
  unfold recordRoom; decide +kernel
theorem witness_store_held : solo (counting 1) (exOf (counting 1)) (fibOf (counting 1)) plain (stnShape .w32 (.x 6) (.x 0)) ∧
    holds_ (counting 1) (fibOf (counting 1)) true .core = some .core ∧ calm (counting 1) = true ∧ 0 < (fibOf (counting 1)).stcnt ∧
    Reaches (counting 1) (exOf (counting 1)) (stAcc (exOf (counting 1)) (fibOf (counting 1)) .w32 (.x 6) (.x 0) 0) := by
  unfold solo Reaches; decide +kernel
theorem witness_atomic : ready global (exOf global) plain (atomShape .cas .w32 (.x 8) (.x 0) (.x 9)) = true ∧
    (atAddr (exOf global) (fibOf global) .w32 (.x 8) (.x 0) 0).toNat % 4 = 0 ∧ (atAddr (exOf global) (fibOf global) .w32 (.x 8) (.x 4) 0).toNat % 4 = 2 ∧
    Reaches global (exOf global) (atAcc (exOf global) (fibOf global) .w32 (.x 8) (.x 0) 0) ∧ holds_ global (fibOf global) true .cushion = none := by
  unfold Reaches; decide +kernel
theorem witness_join : ready global (exOf global) plain (Machine.shape [s64 1 (.x 0)] none) = true ∧
    Reaches global (exOf global) (joinAcc (exOf global) (fibOf global) (.x 0)) := by unfold Reaches; decide +kernel
/-- The page is a crust page of 32-bit maximum cells, in an active region of one block. -/
def crusted : State :=
  { ctlSet (ctlSet global (offCRTAB 0 0) (0x10001003#64)) (offCRTAB 0 0 + 8) 1 with
    coreTlb := global.coreTlb.map (fun e => (e.1, { e.2 with leaf := e.2.leaf ||| 0x200#64 })) }
theorem witness_crust : ready crusted (exOf crusted) plain (memShape .w32 (.x 8) (.x 0) (some (.x 9))) = true ∧
    Reaches crusted (exOf crusted) (crAcc .w32 true (atAddr (exOf crusted) (fibOf crusted) .w32 (.x 8) (.x 0) 0)) ∧
    Reaches crusted (exOf crusted) (crAcc .w32 false (atAddr (exOf crusted) (fibOf crusted) .w32 (.x 8) (.x 0) 0)) := by unfold Reaches; decide +kernel
theorem witness_access_checks : getCarpet global (fibOf global).carpet = some (exOf global).car ∧
    canonicalVA 0x0100000000000000#64 = false ∧ canonicalVA (ldAddr (exOf global) (fibOf global) (.x 0) 0) = true ∧
    ctlB global (offCTXMEM 0) 0 = true ∧ tlbFind global.coreTlb 0 0 0x20001000 = none ∧ tlbFind global.dieTlb 0 0 0x20001000 = none ∧
    (tlbFind global.coreTlb 0 0 0x10001000).isSome = true ∧ roomFor global (fibOf global) (parkArgs (exOf global) (exOf global).pc .walk) ∧
    ((tlbFind crusted.coreTlb 0 0 0x10001000).map (fun y => (y.leaf.getLsbD 3, y.leaf.getLsbD 9))) = some (true, true) := by
  unfold roomFor; decide +kernel
theorem witness_fence : workOf base fib0 true .cushion = some .cushion ∧ workOf base fib0 true .core = some .core ∧
    workOf (withCush base (fun c => { c with roamed := true })) fib0 true .core = some .package ∧ storesBefore base ex0.cush.cid base.nextId = false ∧
    (fibOf (counting 1)).stcnt ≠ 0 ∧ roomFor (counting 1) (fibOf (counting 1)) (parkArgs (exOf (counting 1)) ((exOf (counting 1)).pc + 8#64) (.fence .core none (counting 1).nextId)) ∧
    base.wbs = [] ∧ base.l1 = [] := by unfold roomFor; decide +kernel
/-- The core's L1 has a line of the mapped page with a dirty word. -/
def dirtied : State := { global with l1 := [{ core := 0, line := 0x10001000 / 64, valid := 0xFFFF, dirty := 1, data := List.replicate 64 7 }] }
theorem witness_line : solo dirtied (exOf dirtied) (fibOf dirtied) plain (addrShape 6 (.x 0)) ∧ scopeOf (fibOf dirtied) true .die = some .die ∧
    Reaches dirtied (exOf dirtied) (lineAcc (exOf dirtied) (fibOf dirtied) (.x 0) 0) ∧ calm dirtied = true ∧
    cachedAt dirtied (exOf dirtied) (lineAcc (exOf dirtied) (fibOf dirtied) (.x 0) 0) = some 0x10001000 ∧
    (l1Get dirtied 0 (0x10001000 / 64)).isSome = true := by unfold solo Reaches; decide +kernel
theorem witness_lsync : roomFor base fib0 (parkArgs ex0 (ex0.pc + 8#64) (.lsyncDrain .system)) ∧ calm base = true ∧ fib0.stcnt = 0 := by
  unfold roomFor; decide +kernel
theorem witness_migrate : solo global (exOf global) (fibOf global) plain (addrShape 6 (.x 0)) ∧
    Reaches global (exOf global) (dieAcc (exOf global) (fibOf global) (.x 0) 0) ∧
    (memAt global (exOf global) (dieAcc (exOf global) (fibOf global) (.x 0) 0)).map homeDie = some ((exOf global).cush.core / 48) ∧
    roomFor global (fibOf global) { parkArgs (exOf global) ((exOf global).pc + 8#64) .none with join := 0 } := by
  unfold solo Reaches roomFor; decide +kernel
theorem witness_spawn : solo calling (exOf calling) (fibOf calling) plain (Machine.shape [sNoChan 2 1 (.x 0)] none) ∧
    sporeRoom calling 0 0 64 = true ∧ (fibOf calling).fid ≠ calling.nextId ∧ (budgetOf (exOf calling).car (target (exOf calling) 0)) = none ∧
    (budgetOf (exOf calling).car (target (exOf calling) (BitVec.ofNat 24 ((0x10000400 - (exOf calling).pc.toNat) / 8)))) = some 4 := by
  unfold solo; decide +kernel

/-! ### Of the statements about cursors -/

def bytesOf (ws : List DWord) : List Byte := (ws.flatMap (fun w => leBytes 8 w.toNat)) ++ List.replicate (64 - 8 * ws.length) 0
/-- The metadata cache has, from 0x10001000: a dense level of 10 with child and bytes as values, a compressed level of 32-bit coordinates,
its positions 2 and 4, its coordinates, values, and the words of a cursor; then a level whose child has segments, that child, and a level to
append to; then a bitmap with ranks, a hashed table, runs, blocks and a chain of segments, and the arrays of these. -/
def cursing : State := withCush { global with
  fibres := global.fibres.map (fun f => { f with
    x := [0x10001000, 0, 0x10001040, 0, 4, 0, 0x10001180, 0, 9, 37] ++ f.x.drop 10
    k := [⟨w0Of 0x10001000 0 false, 3, 10, 3⟩, ⟨w0Of 0x10001000 0 false, 5, 10, 5⟩, ⟨w0Of 0x10001040 1 false, 2, 4, 7⟩,
          ⟨w0Of 0x10001000 0 true, 10, 10, BitVec.allOnes 64⟩, ⟨0, 0, 0, 0⟩, ⟨w0Of 0x10001200 1 false ||| (1#64 <<< 61), 2, 4, 0⟩,
          ⟨w0Of 0x10001240 0 false, 1, 4, 1⟩, ⟨w0Of 0x10001200 1 false ||| (1#64 <<< 61), 4, 4, 0⟩,
          ⟨w0Of 0x10001400 2 false, 4, 128, 4⟩, ⟨0, 0, 0, 0⟩, ⟨w0Of 0x10001440 3 false, BitVec.ofNat 64 (2 ^ 40 + 2), 4, 7⟩,
          ⟨w0Of 0x10001480 4 false, 2, 4, 7⟩, ⟨w0Of 0x100014C0 5 false, 8, 16, 28⟩, ⟨w0Of 0x10001500 1 false, 2, 4, 7⟩,
          ⟨w0Of 0x100014C0 5 false, 15, 16, 39⟩] ++ f.k.drop 15 })
  meta_ := [
    { core := 0, line := 0x400040, valid := 0xFFFF, dirty := 0, data := bytesOf [0x808, 10, 0x10001040, 0, 0, 0, 0x10001100] },
    { core := 0, line := 0x400041, valid := 0xFFFF, dirty := 0, data := bytesOf [0x009, 20, 0, 0x10001080, 0x100010C0, 0, 0] },
    { core := 0, line := 0x400042, valid := 0xFFFF, dirty := 0, data := bytesOf [0x0000000400000002] },
    { core := 0, line := 0x400043, valid := 0xFFFF, dirty := 0, data := bytesOf [0, 0x0000000900000007] },
    { core := 0, line := 0x400044, valid := 0xFFFF, dirty := 0, data := bytesOf [0x0706050403020100] },
    { core := 0, line := 0x400046, valid := 0xFFFF, dirty := 0, data := bytesOf [w0Of 0x10001000 0 false, 1, 10, 1] },
    { core := 0, line := 0x400048, valid := 0xFFFF, dirty := 0, data := bytesOf [0x14009, 20, 0, 0x10001280, 0x100012C0, 0, 0] },
    { core := 0, line := 0x400049, valid := 0xFFFF, dirty := 0, data := bytesOf [0x008, 4, 0x10001200, 0, 0, 0, 0] },
    { core := 0, line := 0x400050, valid := 0xFFFF, dirty := 0, data := bytesOf [0x80A, 128, 0, 0, 0x10001548, 0x10001540, 0x10001100] },
    { core := 0, line := 0x400051, valid := 0xFFFF, dirty := 0, data := bytesOf [0x00B, 20, 0, 0x10001080, 0x100010C0, 0, 0] },
    { core := 0, line := 0x400052, valid := 0xFFFF, dirty := 0, data := bytesOf [0x00C, 20, 0, 0x10001080, 0x100010C0, 0x10001558, 0] },
    { core := 0, line := 0x400053, valid := 0xFFFF, dirty := 0, data := bytesOf [0x00D, 40, 0, 0x10001080, 0x100010C0, 0, 0] },
    { core := 0, line := 0x400054, valid := 0xFFFF, dirty := 0, data := bytesOf [0x14009, 20, 0, 0x10001080, 0x10001568, 0, 0] },
    { core := 0, line := 0x400055, valid := 0xFFFF, dirty := 0,
      data := bytesOf [1, 0x90, 0, 0, 0x0000000100000002, 0, 0x0000000400000007, 0] }] }
  (fun c => { c with g := [0x10001000, 0, 0x10001040, 0, 0x10001004, 0, 0x20001000, 0] ++ c.g.drop 8 })
theorem settled_of_few (s : State) (h : (calm s && s.reqs.isEmpty) = true) (n : s.meta_.length ≤ 16) : settled s = true := by
  unfold settled
  rw [h, Bool.true_and, List.all_eq_true]
  exact fun l _ => decide_eq_true (Nat.le_trans (List.length_filter_le _ _) n)
theorem cursing_settled : settled cursing = true := settled_of_few cursing (by decide +kernel) (by decide +kernel)
def rd0 : Rd := seen cursing (exOf cursing)
def lvl (a : DWord) : Lvl := (levelAt rd0 a).getD ⟨0, 0, 0, 0, .s8, false, 0, false, 0, 0, 0, 0, 0, 0, 0⟩
theorem witness_levels : (([0x10001000, 0x10001040, 0x10001200, 0x10001240, 0x10001400, 0x10001440, 0x10001480, 0x100014C0, 0x10001500] : List DWord).all
    (fun a => levelAt rd0 a == some (lvl a))) = true ∧
    actives (exOf cursing) plain = [fibOf cursing] ∧ ready cursing (exOf cursing) plain (curaShape [sG 1 (.g 0)]) = true ∧
    ready cursing (exOf cursing) plain (curaShape [sNoChan 1 1 (.x 4)]) = true ∧ ready cursing (exOf cursing) plain (curdShape (.x 8)) = true := by
  decide +kernel
/-- What an instruction does to the fibre of `cursing`, at issue. -/
def Walks (i : Instr) (ks : List (Nat × Cursor)) (v : Option (DWord × Bool)) (fl : BitVec 5) : Prop :=
  CursStep (atIssue cursing (exOf cursing) (fibOf cursing) i) (fibOf cursing) i ks v fl
def cur (k : Nat) : Cursor := getK (fibOf cursing) k
theorem first_of {rd : Rd} {lv : Lvl} {b n : Nat} {p : Nat × Nat} {r : Option (Nat × Nat)} (h : lv.seg = false) (k : FirstAt rd lv b n p r) :
    FirstOf rd lv b n p r := by unfold FirstOf; rw [h]; exact k
theorem next_of {rd : Rd} {lv : Lvl} {b n : Nat} {p : Nat × Nat} {r : Option (Nat × Nat)} (h : lv.seg = false)
    (k : FirstAt rd lv b n (if lv.kind = 4 then (p.1, p.2 + 1) else (p.1 + 1, 0)) r) : NextOf rd lv b n p r := by unfold NextOf; rw [h]; exact k
theorem here_at {rd : Rd} {lv : Lvl} {b : Nat} (p : Nat × Nat) (h : p.1 < b) (k : isPos rd lv p = some true) : FirstAt rd lv b 0 p (some p) := .here p h k
theorem at_of {rd : Rd} {lv : Lvl} {b n : Nat} {p : Nat × Nat} {r : Option (Nat × Nat)} (p' : Nat × Nat) (h : p = p') (k : FirstAt rd lv b n p' r) :
    FirstAt rd lv b n p r := by subst h; exact k
/-- A bitmap moves over clear bits of its word at no step. -/
theorem on_at {rd : Rd} {lv : Lvl} {b n : Nat} {p : Nat × Nat} {r : Option (Nat × Nat)} (h : p.1 < b) (k : isPos rd lv p = some false)
    (e : lv.kind = 2 ∧ (p.1 + 1) % 64 ≠ 0) (m : FirstAt rd lv b n (p.1 + 1, 0) r) : FirstAt rd lv b n p r := by
  have := FirstAt.on n p r h k m
  rwa [if_pos e, Nat.add_zero] at this

theorem witness_cload : Walks (.cload plain 9 (.g 0)) [(9, ⟨w0Of 0x10001000 0 false, 0, 10, 0⟩)] none 0 ∧
    Walks (.cload plain 9 (.g 2)) [(9, ⟨w0Of 0x10001040 1 false, 2, 4, 7⟩)] none 0 := by
  constructor
  · exact .load _ _ _ (lvl 0x10001000) _ (by decide +kernel) ⟨0, 10, 0, some (0, 0), by decide +kernel, by decide +kernel, by decide +kernel,
      first_of (by decide +kernel) (here_at (0, 0) (by decide) (by decide +kernel)), 0, by decide +kernel, by decide +kernel⟩
  · exact .load _ _ _ (lvl 0x10001040) _ (by decide +kernel) ⟨2, 4, 0, some (2, 0), by decide +kernel, by decide +kernel, by decide +kernel,
      first_of (by decide +kernel) (here_at (2, 0) (by decide) (by decide +kernel)), 7, by decide +kernel, by decide +kernel⟩
/-- The parent's positions of a table, of runs, of blocks and of a chain. -/
theorem witness_enters : Enters rd0 60 (lvl 0x10001440) 0 (cur 10) ∧ Enters rd0 60 (lvl 0x10001480) 0 (cur 11) ∧
    Enters rd0 60 (lvl 0x100014C0) 0 (cur 12) ∧ Enters rd0 60 (lvl 0x10001500) 0 (cur 13) := by
  refine ⟨⟨2, 4, 0, some (2, 0), ?_, ?_, by decide, first_of ?_ (here_at (2, 0) (by decide) ?_), 7, ?_, ?_⟩,
    ⟨2, 4, 0, some (2, 0), ?_, ?_, by decide, first_of ?_ (here_at (2, 0) (by decide) ?_), 7, ?_, ?_⟩,
    ⟨8, 16, 0, some (8, 0), ?_, ?_, by decide, first_of ?_ (here_at (8, 0) (by decide) ?_), 28, ?_, ?_⟩,
    ⟨2, 4, 0, some (2, 0), ?_, ?_, by decide, ?_, 7, ?_, ?_⟩⟩ <;> first | decide +kernel | (unfold FirstOf; rw [if_pos (by decide +kernel)]; rfl)
/-- A dense level moves by one, a bitmap to its next set bit, a run to its next offset, a chain over its link to its end; a done cursor stays. -/
theorem witness_cnext : Walks (.cnext plain 0) [(0, ⟨w0Of 0x10001000 0 false, 4, 10, 4⟩)] none 0 ∧
    Walks (.cnext plain 8) [(8, ⟨w0Of 0x10001400 2 false, 7, 128, 7⟩)] none 0 ∧
    Walks (.cnext plain 11) [(11, ⟨w0Of 0x10001480 4 false, BitVec.ofNat 64 (2 ^ 40 + 2), 4, 8⟩)] none 0 ∧
    Walks (.cnext plain 13) [(13, doneAs (lvl 0x10001500) (cur 13))] none 0 ∧ Walks (.cnext plain 3) [(3, cur 3)] none 0 := by
  refine ⟨.next _ _ (lvl 0x10001000) 0 (some (4, 0)) _ ?_ ?_ (by decide) (next_of ?_ (here_at (4, 0) ?_ ?_)) ⟨4, ?_, ?_⟩,
    .next _ _ (lvl 0x10001400) 0 (some (7, 0)) _ ?_ ?_ (by decide) (next_of ?_ (on_at ?_ ?_ ?_ (on_at ?_ ?_ ?_ (here_at (7, 0) ?_ ?_)))) ⟨7, ?_, ?_⟩,
    .next _ _ (lvl 0x10001480) 0 (some (2, 1)) _ ?_ ?_ (by decide) (next_of ?_ (here_at (2, 1) ?_ ?_)) ⟨8, ?_, ?_⟩,
    .next _ _ (lvl 0x10001500) 0 none _ ?_ ?_ (by decide) ?_ ?_, .nextStays _ _ (lvl 0x10001000) ?_ ?_⟩
  case refine_30 =>
    unfold NextOf
    rw [if_pos (by decide +kernel), if_neg (by decide +kernel), if_pos (by decide +kernel)]
    exact ⟨4, by decide +kernel, by decide +kernel⟩
  all_goals first | decide +kernel | rfl
theorem seeks_of {rd : Rd} {n : Nat} {lv : Lvl} {b x : Nat} {p : Nat × Nat} {r : Option (Nat × Nat)} (b' x' : Nat) (p' : Nat × Nat) (hb : b = b')
    (hx : x = x') (hp : p = p') (k : Seeks rd n lv b' p' x' r) : Seeks rd n lv b p x r := by subst hb hx hp; exact k
theorem splits_two {below : Nat → Option Bool} (i : Nat) (h : below i = some true) (k : below (i + 1) = some false) : splitsAt i (i + 1) (i + 2) below :=
  ⟨by omega, by omega, fun j _ _ _ => by rwa [show j = i by omega], fun j _ _ => by rwa [show j = i + 1 by omega]⟩
theorem seeks_blocks : Seeks rd0 60 (lvl 0x100014C0) 16 (8, 0) 37 (some (13, 0)) := by
  have k : (lvl 0x100014C0).kind = 5 := by decide +kernel
  have b : (lvl 0x100014C0).bsz = 4 := by decide +kernel
  simp only [Seeks, k, b]
  exact ⟨trivial, 3, splits_two 2 (by decide +kernel) (by decide +kernel), 9, by decide +kernel⟩
theorem probes_of {rd : Rd} {lv : Lvl} {x lo n i k q : Nat} {r : Option Nat} (i' q' : Nat) (hi : i = i') (hq : q = q')
    (p : Probes rd lv x lo n i' k q' r) : Probes rd lv x lo n i k q r := by subst hi hq; exact p
theorem looks_up (x : Nat) (h : x = 9) : LooksUp rd0 (lvl 0x10001440) (cur 10) 0 x (some 3) := by
  subst h
  unfold LooksUp
  exact probes_of 2 3 (by decide +kernel) (by decide +kernel) (.found 1 3 (by decide +kernel))
/-- x4 is 4, the dense level's own position; x2 lies beyond its end; x9 is 37, in the second block; x8 is 9, in the table's second slot. -/
theorem witness_cseek : Walks (.cseek plain false 0 (.x 4)) [(0, ⟨w0Of 0x10001000 0 false, 4, 10, 4⟩)] none 0 ∧
    Walks (.cseek plain true 0 (.x 2)) [(0, doneAs (lvl 0x10001000) (cur 0))] none 0 ∧
    Walks (.cseek plain true 12 (.x 9)) [(12, ⟨w0Of 0x100014C0 5 false, 13, 16, 37⟩)] none 0 ∧
    Walks (.cseek plain false 10 (.x 8)) [(10, ⟨w0Of 0x10001440 3 false, BitVec.ofNat 64 (2 ^ 40 + 3), 4, 9⟩)] none 0 := by
  refine ⟨.seek _ false _ _ (lvl 0x10001000) (some (4, 0)) ⟨w0Of 0x10001000 0 false, 4, 10, 4⟩ ?_ ?_ ?_ ?_ ?_ ⟨4, ?_, ?_⟩,
    .seek _ true _ _ (lvl 0x10001000) none (doneAs (lvl 0x10001000) (cur 0)) ?_ ?_ ?_ ?_ ?_ ?_,
    .seek _ true _ _ (lvl 0x100014C0) (some (13, 0)) ⟨w0Of 0x100014C0 5 false, 13, 16, 37⟩ ?_ ?_ ?_ ?_ ?_ ⟨37, ?_, ?_⟩,
    .seekHash _ _ _ (lvl 0x10001440) 0 (some 3) ?_ ?_ ?_ ?_ ?_ (looks_up _ ?_)⟩
  all_goals first | decide +kernel | (show coordOk _ _ _ _; unfold coordOk; decide +kernel) | rfl |
    exact seeks_of 16 37 (8, 0) (by decide +kernel) (by decide +kernel) (by decide +kernel) seeks_blocks
/-- A dense level that is done; and to the children of position 0 and of the bitmap's position 7, the second set bit. -/
theorem witness_cdesc : (lvl 0x10001000).child ≠ 0#64 ∧ Walks (.cdesc plain 9 3) [(9, ⟨w0Of 0x10001040 1 true, 0, 0, BitVec.allOnes 64⟩)] none 0 ∧
    childOf rd0 (lvl 0x10001400) (7, 0) = some 2 ∧ childOf rd0 (lvl 0x10001400) (4, 0) = some 1 := by
  refine ⟨by decide +kernel, .descDone _ _ _ (lvl 0x10001000) (lvl 0x10001040) ?_ ?_ ?_ ?_, ?_, ?_⟩ <;> decide +kernel
theorem witness_crest : Walks (.crest plain 9 (.x 6)) [(9, ⟨w0Of 0x10001000 0 false, 1, 10, 1⟩)] none 0 := by
  refine .restore _ _ _ (w0Of 0x10001000 0 false).toNat 1 10 1 ?_ ?_ ?_ ?_ ?_ <;> decide +kernel
/-- A result of 32 bits fits any register of the window. -/
theorem narrow {f : Fibre} {d : Dst} {b : Bool} (h : b = false) : wideOk f b d := fun e => absurd (h.symm.trans e) (by decide)
theorem witness_ccrd : Walks (.ccrd plain (.x 8) 2) [] (some (7, false)) 0 :=
  .coordinate _ _ _ (lvl 0x10001040) (by decide +kernel) (by simp only [atIssue]; exact narrow (by decide +kernel))
/-- The value 3 of the dense position 3; 0 when done; the bitmap's value at position 4, an s8, as f32: 1. -/
theorem witness_cval : Walks (.cval plain .s8 (.x 8) 0) [] (some (3, false)) 0 ∧ Walks (.cval plain .s8 (.x 8) 3) [] (some (0, false)) 0 ∧
    Walks (.cval plain .f32 (.x 8) 8) [] (some (0x3F800000, false)) 0 := by
  refine ⟨.value _ _ _ _ (lvl 0x10001000) 3 3 ?_ ?_ ?_ ?_ ?_ ?_, .valueDone _ _ _ _ (lvl 0x10001000) ?_ ?_ ?_ ?_, .value _ _ _ _ (lvl 0x10001400) 1 1 ?_ ?_ ?_ ?_ ?_ ?_⟩
  all_goals first | decide +kernel | (simp only [atIssue]; exact narrow (by decide +kernel))
theorem holds_dense {rd : Rd} {lv : Lvl} {c : Cursor} (h : lv.kind = 0) (k : lv.extent ≤ boundIn lv c)
    (e : (posIn lv c.w1).1 + lv.extent = boundIn lv c + c.w3.toNat) :
    Holds rd lv c (fun x q => c.w3.toNat ≤ x ∧ x < lv.extent ∧ q = (boundIn lv c + x - lv.extent, 0)) := .inl ⟨h, k, e, fun _ _ => Iff.rfl⟩
/-- The block cursor 14 stands on its last position, at coordinate 39. -/
theorem holds_last : Holds rd0 (lvl 0x100014C0) (cur 14) (fun x q => (q, x) ∈ [(((15, 0) : Nat × Nat), 39)]) := by
  have p : posIn (lvl 0x100014C0) (cur 14).w1 = (15, 0) := by decide +kernel
  have b : boundIn (lvl 0x100014C0) (cur 14) = 16 := by decide +kernel
  have w : (cur 14).w3.toNat = 39 := by decide +kernel
  refine .inr ?_
  rw [p, b, w]
  refine ⟨by decide +kernel, by decide +kernel, fun h => absurd h (by decide +kernel), by decide +kernel, fun h => absurd h (by decide +kernel),
    by decide +kernel, by decide +kernel, 0, [], .cons 0 0 _ _ none [] (by decide +kernel) (next_of (by decide +kernel) ?_) .nil, by decide, by decide, by decide, fun _ _ => Iff.rfl⟩
  rw [if_neg (by decide +kernel)]
  exact .ended _ (by decide)
/-- Two dense sides meet at 5; dense 3 and the block at 39 never meet; the table drives the dense side to 7; a union takes the lower. -/
theorem witness_coit : Walks (.coit plain false (.x 8) 0 1)
      [(0, ⟨w0Of 0x10001000 0 false, 5, 10, 5⟩), (1, ⟨w0Of 0x10001000 0 false, 5, 10, 5⟩)] (some (5, false)) 0 ∧
    Walks (.coit plain false (.x 8) 0 14) [(0, doneAs (lvl 0x10001000) (cur 0)), (14, doneAs (lvl 0x100014C0) (cur 14))] (some (0xFFFFFFFF, false)) 0 ∧
    Walks (.coit plain false (.x 8) 0 10) [(0, ⟨w0Of 0x10001000 0 false, 7, 10, 7⟩), (10, cur 10)] (some (7, false)) 0 ∧
    Walks (.coit plain true (.x 8) 0 2) [(0, cur 0), (2, cur 2)] (some (3, false)) 0 := by
  refine ⟨.meets _ _ _ _ (lvl 0x10001000) (lvl 0x10001000) _ _ 5 (5, 0) (5, 0) ?_ ?_ ?_ ?_ ?_ (holds_dense ?_ ?_ ?_) (holds_dense ?_ ?_ ?_) ?_ ?_ ?_ ?_,
    .meetNone _ _ _ _ (lvl 0x10001000) (lvl 0x100014C0) _ _ ?_ ?_ ?_ ?_ ?_ (holds_dense ?_ ?_ ?_) holds_last ?_ ?_,
    .hashed _ _ _ _ (lvl 0x10001000) (lvl 0x10001440) 0 0 (some (2, 0)) (some (7, (2, 0), (7, 0))) ?_ ?_ ?_ ?_ ?_ ?_ ?_ ?_ ?_,
    .union _ _ _ _ (lvl 0x10001000) (lvl 0x10001040) ?_ ?_ ?_ ?_ ?_⟩
  all_goals first | decide +kernel | (simp only [atIssue]; exact narrow (by decide +kernel)) | skip
  case refine_15 => 
    intro y i j hy hl
    have e : (cur 1).w3.toNat = 5 := by decide +kernel
    exact absurd (Nat.le_trans (Nat.le_trans (Nat.le_of_eq e.symm) (Nat.le_max_right _ _)) hy) (by omega)
  case refine_24 =>
    intro x q r _ h k
    simp only [List.mem_singleton, Prod.mk.injEq] at k
    have e : (lvl 0x10001000).extent = 10 := by decide +kernel
    omega
  case refine_25 => exact fun _ h => absurd (show (lvl 0x100014C0).kind = 0 from h) (by decide +kernel)
  case refine_33 =>
    rw [if_neg (by decide +kernel)]
    exact ⟨first_of (by decide +kernel) (at_of (2, 0) (by decide +kernel) (here_at (2, 0) (by decide +kernel) (by decide +kernel))), .found 0 (2, 0) 7 (7, 0) (by decide +kernel) (by unfold Found; rw [if_neg (by decide +kernel)]; decide +kernel)⟩
  case refine_34 => intro x q r h; cases h; decide
/-- CCRD, CVAL and COIT with WS name no register (R275, R388). -/
theorem witness_cursor_ws : solo cursing (exOf cursing) (fibOf cursing) { plain with ws := true } (curdShape .none) ∧
    solo cursing (exOf cursing) (fibOf cursing) plain (curaShape [sNoChan 1 1 (.x 0), sNoChan 1 2 (.x 2)]) ∧
    solo cursing (exOf cursing) (fibOf cursing) plain (curaShape [sBase 2 2 (.x 6)]) ∧
    solo cursing (exOf cursing) (fibOf cursing) plain (curaShape [sG 1 (.g 6)]) := by unfold solo; decide +kernel
theorem witness_append : levelOf rd0 true (cur 5) = some (lvl 0x10001200) ∧
    isDone (cur 5) = false ∧ (lvl 0x10001200).hasval = false ∧ (cur 5).w1 ≠ (cur 5).w2 ∧ (cur 7).w1 = (cur 7).w2 ∧ (fibOf cursing).stcnt < 0xFFFF ∧
    ((goesTo cursing (exOf cursing) (at64 (lvl 0x10001200).crd 2 4) 4).map (fun ps => (ps.map (· / 64)).dedup.length)) = some 1 ∧
    ((goesTo cursing (exOf cursing) (at64 (lvl 0x10001200).pos 1 4) 4).map (fun ps => (ps.map (· / 64)).dedup.length)) = some 1 := by decide +kernel
/-- The level with values: its descriptor, HASVAL set and values of 8 bits from 0x10001100. -/
def valued : State := { cursing with meta_ := cursing.meta_.map (fun l =>
  if l.line = 0x400048 then { l with data := bytesOf [0x14809, 20, 0, 0x10001280, 0x100012C0, 0, 0x10001100] } else l) }
theorem witness_append_value : ((levelOf (seen valued (exOf valued)) true (cur 5)).map (fun lv => (lv.hasval,
    (valWrite (seen valued (exOf valued)) lv 2 0x1FF).map (fun w => (w.1, w.2, ((goesTo valued (exOf valued) w.1 1).map (fun ps => (ps.map (· / 64)).dedup.length))))))) =
    some (true, some (0x10001102, [0xFF], some 1)) := by decide +kernel
theorem witness_csave : ready cursing (exOf cursing) plain (curaShape [sBase 2 2 (.x 6)]) = true ∧ getK (fibOf cursing) 0 ≠ ⟨0, 0, 0, 0⟩ ∧
    (goesTo cursing (exOf cursing) (opv (operands (exOf cursing) [sBase 2 2 (.x 6)] (fibOf cursing)) 0) 32).isSome = true := by decide +kernel
theorem witness_cheap : levelOf rd0 false (cur 6) = some (lvl 0x10001240) ∧ (lvl 0x10001240).child = 0x10001200 ∧
    (lvl 0x10001200).kind = 1 ∧ (lvl 0x10001200).seg = true ∧ (goesTo cursing (exOf cursing) (at64 (lvl 0x10001200).pos 2 4) 8).isSome = true ∧
    largestFits cursing (fibOf cursing) := by unfold largestFits; decide +kernel
/-- The walker has the CHEAP of level 6, or the CAPP of level 7, before it; the die has the translation, and heaps 0 and 4 give chunk 2 next. -/
def walking (s : State) (i : Instr) : State :=
  let t := next (exec i s) s
  let heap (t : State) (h : Nat) : State := ctlSet (ctlSet t (offHEAP 0 h 0) 0x0000000300000001#64) (offHEAP 0 h 0 + 8) 0x0000000200000000#64
  { heap (heap t 0) 4 with dieTlb := t.coreTlb.map (fun e => (0, e.2)) }
def fibIn (s : State) : Fibre := s.fibres.headD fib0
def jobIn (s : State) : WalkerJob := s.jobs.headD ⟨0, 0, .nop plain, 0, [], none, [], [], 0, 0, []⟩
def cheaping : State := walking cursing (.cheap plain 6 (.x 4))
def capping : State := walking valued (.capp plain 7 (.x 4) (.x 2))
theorem free_of {s : State} {f : Fibre} {j : WalkerJob} (k : Carpet)
    (h : (s.jobs.find? (fun q => q.fid == f.fid) = some j ∧ getFibre s f.fid = some f ∧ f.status = .parked ∧ f.wait = .reply ∧ f.saved = false ∧ j.due = []) ∧
      (getCarpet s f.carpet = some k ∧ k.dead = false) ∧ s.reqs = [] ∧ s.held = [] ∧ s.poison = [] ∧ MemCanon s ∧
      ∀ l ∈ s.l1, l.core = j.core → l.dirty = 0#16) : walkerFree s f j :=
  ⟨h.1.1, h.1.2.1, h.1.2.2.1, h.1.2.2.2.1, h.1.2.2.2.2.1, h.1.2.2.2.2.2, ⟨k, h.2.1⟩, h.2.2⟩
def carIn (s : State) : Carpet := s.carpets.headD (probeCarpet 0)
theorem witness_walker_free : walkerFree cheaping (fibIn cheaping) (jobIn cheaping) ∧ walkerFree capping (fibIn capping) (jobIn capping) :=
  ⟨free_of (carIn cheaping) (by unfold MemCanon; decide +kernel), free_of (carIn capping) (by unfold MemCanon; decide +kernel)⟩
theorem witness_walker_jobs : (jobIn cheaping).instr = .cheap plain 6 (.x 4) ∧ (jobIn capping).instr = .capp plain 7 (.x 4) (.x 2) ∧
    (fibIn cheaping).joinCnt = 1 ∧ (fibIn capping).joinCnt = 1 := by decide +kernel
/-- CHEAP: the cursor's level, its child, the heap's next chunk, and the position entry. -/
theorem witness_walker_cheap : (let w := inWalker cheaping (fibIn cheaping) (jobIn cheaping)
    (levelOf w.rd false (getK (fibIn cheaping) 6)).map (fun lv => ((levelAt w.rd lv.child).map (fun c => (c.kind, c.seg, c.ce)),
      childOf w.rd lv (posIn lv (getK (fibIn cheaping) 6).w1), (lo32 (w.arg false)).toNat % 16))) = some (some (1, true, 4), some 1, 4) ∧
    ctlF cheaping (offHEAP 0 4 0 + 8) 32 32 < ctlF cheaping (offHEAP 0 4 0) 32 32 ∧
    ((walkerGoes cheaping (fibIn cheaping) (jobIn cheaping) 0x10001288 8).map (fun ps => (ps.map (· / 64)).dedup.length)) = some 1 := by decide +kernel
/-- CAPP at the end of its chunk, on a level with values: the link, the new coordinate and the value each go to one line. -/
theorem witness_walker_capp : (let w := inWalker capping (fibIn capping) (jobIn capping)
    (levelOf w.rd true (getK (fibIn capping) 7)).map (fun lv => (lv.hasval, lv.ce, (valWrite w.rd lv 8 0x2A).map (·.1)))) = some (true, 4, some 0x10001108) ∧
    isDone (getK (fibIn capping) 7) = false ∧ (getK (fibIn capping) 7).w1 = (getK (fibIn capping) 7).w2 ∧
    ([(0x100012D0, 4), (0x100012E0, 4), (0x10001108, 1)] : List (DWord × Nat)).all (fun p =>
      ((walkerGoes capping (fibIn capping) (jobIn capping) p.1 p.2).map (fun ps => (ps.map (· / 64)).dedup.length)) == some 1) = true := by decide +kernel
theorem witness_walker_miss : preCheck cursing 0 .walker (accParts 0x20001000 8) = none ∧ tlbFind cursing.coreTlb 0 0 0x20001000 = none ∧
    tlbFind cursing.dieTlb 0 0 0x20001000 = none ∧ opv (operands (exOf cursing) [sG 1 (.g 6)] (fibOf cursing)) 0 = 0x20001000#64 ∧
    getK (fibOf cursing) 4 = ⟨0, 0, 0, 0⟩ ∧ (opv (operands (exOf cursing) [sG 1 (.g 4)] (fibOf cursing)) 0).toNat % 64 = 4 := by decide +kernel

/-! ### Of the statements about tiles and the matrix engine -/

/-- A tile of 32-byte pitch at the start of scratch, of these rows, columns and format, with a side tile. -/
def aTileOf (rows cols code side : Nat) (st : TState) : Tile :=
  { w0 := BitVec.ofNat 64 (64 * 2 ^ 19), w1 := BitVec.ofNat 64 (rows + cols * 2 ^ 11 + code * 2 ^ 22 + side * 2 ^ 31), st, relpend := false,
    wclaim := false, readers := 0, live := cols }
/-- Tile 1 is ready, 2 is being filled, 3 is read, 4 claimed; the others serve the operations below; a panel is latched; convergence register 0
has been armed for one signer and register 1 for two; g0 to g3 are the words of a tile, g4 to g7 no words of a tile. -/
def tiled : State := withCush (withX [1024, 1025, 0]) (fun c => { c with
  g := [BitVec.ofNat 32 (64 * 2 ^ 19), 0, BitVec.ofNat 32 (4 + 8 * 2 ^ 11), 0, 1, 0, 0, 0, BitVec.ofNat 32 (2 ^ 19 + 2 ^ 30), 0, 8, 0] ++ c.g.drop 12
  cvs := [⟨1, 0, 0⟩, ⟨2, 0, 0⟩] ++ c.cvs.drop 2
  panel := some ⟨.s8, 4, 8, false, List.replicate 4 (List.replicate 8 1), List.replicate 4 []⟩
  tiles := [aTileOf 4 8 0 0 .empty, aTileOf 4 8 0 0 .ready, aTileOf 4 8 0 0 .filling, { aTileOf 4 8 0 0 .ready with readers := 2 },
    { aTileOf 4 8 0 0 .empty with wclaim := true }, aTileOf 4 16 8 0 .ready, aTileOf 4 16 8 0 .empty, aTileOf 4 8 0 0 .empty,
    aTileOf 4 8 0 0 .empty, aTileOf 4 8 10 0 .empty, aTileOf 4 32 16 11 .empty, aTileOf 4 1 4 0 .empty, aTileOf 4 32 8 0 .ready] ++ c.tiles.drop 13 })
theorem witness_tldef : ready tiled (exOf tiled) plain (tileShape [sG 1 (.g 0), sG 2 (.g 2)] none [aTile 0 0]) = true ∧
    (tileWords (exOf tiled).car.ker.scratch (opv (operands (exOf tiled) [sG 1 (.g 0), sG 2 (.g 2)] (fibOf tiled)) 0)
      (opv (operands (exOf tiled) [sG 1 (.g 0), sG 2 (.g 2)] (fibOf tiled)) 1)) ∧ (getTile (exOf tiled).cush 0).st = .empty ∧
    bits (opv (operands (exOf tiled) [sG 1 (.g 4), sG 2 (.g 2)] (fibOf tiled)) 0) 0 19 % 4 = 1 ∧
    ((List.range 5).map (fun i => ((getTile (exOf tiled).cush i).st, (getTile (exOf tiled).cush i).wclaim, (getTile (exOf tiled).cush i).readers))) =
      [(.empty, false, 0), (.ready, false, 0), (.filling, false, 0), (.ready, false, 2), (.empty, true, 0)] := by unfold tileWords; decide +kernel
theorem witness_tile_readers : ready tiled (exOf tiled) plain (tileShape [] (some (dNoChan (.x 4))) [aTile 1 1]) = true ∧
    solo tiled (exOf tiled) (fibOf tiled) plain (tileShape [] none [aTile 1 3]) := by unfold solo; decide +kernel
theorem witness_cvset : solo tiled (exOf tiled) (fibOf tiled) plain (tileShape [sNoChan 1 1 (.x 0)] none [{ field := 0, kind := 1, idx := 2 }]) ∧
    (opv (operands (exOf tiled) [sNoChan 1 1 (.x 0)] (fibOf tiled)) 0).toNat = 1024 ∧ (opv (operands (exOf tiled) [sNoChan 1 1 (.x 1)] (fibOf tiled)) 0).toNat = 1025 ∧
    (opv (operands (exOf tiled) [sNoChan 1 1 (.x 2)] (fibOf tiled)) 0).toNat = 0 ∧
    (getD (withCush tiled (fun c => { c with cvs := [⟨2, 1, 0⟩] })).cushions 0 ex0.cush).cvs = [⟨2, 1, 0⟩] := by unfold solo; decide +kernel
/-- The operation at the head of the queue, in a phase and with a grant. -/
def headOp (i : Instr) (cost : Nat) (srcs dsts : List Nat) (ph : MPhase) (data : List (List (List Nat))) : MatOp :=
  { id := 3, op := i, word := wordOf i, gpair := 0, rm := 0, srcs := srcs.map (fun j => (j, getTile (exOf tiled).cush j)),
    dsts := dsts.map (fun j => (j, getTile (exOf tiled).cush j)), pc := (exOf tiled).pc, lastFibre := 0, cost, tag := .z, clear := false, barrier := none,
    phase := ph, data, panels := [], counted := 0, outstanding := 0, image := [], prog := 0, began := 0, steps := 0 }
def queueing (op : MatOp) (grant : Nat) : State := { withCush tiled (fun c => { c with mq := [op], grant }) with running := true }
theorem witness_mprog : ready tiled (exOf tiled) plain { Machine.shape [] (some (dNoChan (.x 4))) with held := true } = true ∧ (exOf tiled).cush.mq = [] ∧
    tilesAllow (exOf (queueing (headOp (.mwld plain .s8 1 0) 1 [1] [] .queued []) 1)).cush (headOp (.mwld plain .s8 1 0) 1 [1] [] .queued []) ∧
    ¬ tilesAllow (exOf (queueing (headOp (.mwld plain .s8 0 0) 1 [0] [] .queued []) 1)).cush (headOp (.mwld plain .s8 0 0) 1 [0] [] .queued []) := by
  unfold tilesAllow inState; decide +kernel
/-- The reasons that speak against an entry in a state, with what each names, where its shape is sound. -/
def against (s : State) (i : Instr) : Option (List (Nat × Nat)) := match signForm i with
  | some (h, cv, gs, res) =>
    let c := (exOf s).cush
    if ready s (exOf s) h (signShape cv gs res) then
      some (entryAt c (exOf s).car.ker (opv (operands (exOf s) gs (fibOf s)) 0) (liveLeft c c.mq.reverse) (panelLeft c c.mq.reverse) i).2
    else none
  | none => none
theorem witness_enter : (([.mwld plain .s8 1 0, .mma plain .s8 false 0 1 0, .mmag plain .s8 false 0 1 (.g 8) 0, .mhad plain .h16 6 5 0, .mzero plain 0 0,
      .mrd plain .f32 9 0 1 0, .mqnt plain .mx8 10 12 11 0, .mxrd plain 0 (.g 10) 0, .mxadd plain 0 (.g 10) 0, .mcond plain .s8 7 1 1 0] : List Instr).all
    (fun i => against tiled i == some [])) = true ∧ queueRoom tiled (exOf tiled) = true ∧ largestFits tiled (fibOf tiled) := by
  unfold largestFits; decide +kernel
theorem witness_token_overflow : (mrdCount (exOf tiled).cush (.mrd plain .f32 9 0 1 0)) = some (1, 128) ∧ getTk (exOf tiled).cush 1 + 128 ≤ 0xFFFFFFFF ∧
    0xFFFFFFFF < getTk { (exOf tiled).cush with tks := [0, 0xFFFFFF80] } 1 + 128 := by decide +kernel
/-- A type that is not the tile's; K of the panel and of the tile; an MHAD of another width; a claimed destination; a pair at an odd number; and two
reasons together. -/
theorem witness_bad_entry : against tiled (.mwld plain .n8 1 0) = some [(1, 1)] ∧ against tiled (.mma plain .s8 false 0 12 0) = some [(1, 12), (2, 12)] ∧
    against tiled (.mhad plain .h64 6 5 0) = some [(6, 5)] ∧ against tiled (.mrd plain .s8 4 0 1 0) = some [(11, 4)] ∧
    against tiled (.mxrd plain 1 (.g 10) 0) = some [(5, 1)] ∧ against tiled (.mqnt plain .f32 9 12 11 0) = some [(3, 9), (6, 12), (9, 9)] ∧
    (fibOf tiled).expItem = none ∧ getCarpet tiled (fibOf tiled).carpet = some (exOf tiled).car := by decide +kernel
/-- Behind an MQNT of tile 12 into tile 10, which will leave 32 columns; behind an MWLD of tile 5, which will leave its panel; with a full queue in
a core whose record area and spill area are full. -/
theorem witness_enter_behind :
    (let s := queueing (headOp (.mqnt plain .mx8 10 12 11 0) 1 [12] [10] .queued []) 1
     liveLeft (exOf s).cush (exOf s).cush.mq.reverse 10 = some 32 ∧ against s (.mwld plain .mx8 10 0) = some []) ∧
    (let s := queueing (headOp (.mwld plain .f16 5 0) 1 [5] [] .queued []) 1
     (panelLeft (exOf s).cush (exOf s).cush.mq.reverse).map (fun p => (p.fmt, p.n, p.k)) = some (.f16, 4, some 16) ∧
     against s (.mma plain .f16 false 0 5 0) = some [] ∧ against s (.mma plain .s8 false 0 1 0) = some [(2, 1)]) := by decide +kernel
def crammed : State :=
  let s := withCush tiled (fun c => { c with mq := List.replicate 32 (headOp (.mzero plain 0 0) 1 [] [] .queued []) })
  let f := { fib0 with status := .parked }
  { ctlSetF s (offVLTCFG 0) 0 4 0 with fibres := s.fibres ++ [{ f with fid := 5000 }, { f with fid := 5001 }], spilled := [5001] }
theorem no_room (s : State) (core asid n : Nat)
    (h : recBytes s core < recordUse s core ∧ s.spilled.filter (· != 0) = s.spilled ∧ spillSize s asid < spillUse s asid ∧
      (sporeItems s).filter (fun i => s.spilled.contains i.h && s.fibres.any (fun f => f.fid == i.h && f.status == .ready)) = [] ∧
      ∀ i ∈ sortBy (fun (a b : SporeItem) => (a.parked && !b.parked) || (a.parked == b.parked && decide (a.age < b.age)))
        ((sporeItems s).filter (fun i => i.core == core && !s.spilled.contains i.h)), spillSize s i.asid < spillUse s i.asid + i.bytes) :
    sporeRoom s core asid n = false := by
  obtain ⟨h1, h2, h3, h4, h5⟩ := h
  have hb : fetchBack s = s := by unfold fetchBack; rw [h4]; rfl
  have ho : spillOut s core n = s := by
    simp only [spillOut]
    generalize sortBy _ _ = l at h5 ⊢
    clear h4 hb
    induction l with
    | nil => rfl
    | cons i l ih =>
      have k := h5 i (by simp)
      simp only [List.foldl_cons]
      rw [if_neg (by omega), if_neg (by omega)]
      exact ih (fun j hj => h5 j (by simp [hj]))
  have hs : { s with spilled := s.spilled.filter (· != 0) } = s := by rw [h2]
  simp only [sporeRoom, makeRoom, hs, hb, ho]
  rw [if_neg (by omega), if_neg (by omega), if_neg (by omega)]
  rfl
theorem witness_queue_full : queueRoom crammed (exOf crammed) = false ∧ against crammed (.mzero plain 0 0) = some [] :=
  ⟨by rw [queueRoom, no_room _ _ _ _ (by decide +kernel)]; decide +kernel, by decide +kernel⟩
theorem witness_signers : ((List.range 3).map (fun i => (getD (exOf tiled).cush.cvs i ⟨0, 0, 0⟩).expected)) = [1, 2, 0] ∧
    (exOf tiled).cush.mq = [] ∧ signedWord (.mzero plain 0 0) ≠ signedWord (.mzero plain 1 0) := by decide +kernel

/-! ### Of the statement about copies and tokens -/

/-- x0 to x5 are two aligned addresses, a count of 32, one of 33 and a misaligned address; the carpet's producers are its one fibre; token 1 is
full. -/
def copying : State := withCush (withFib tiled (fun f => { f with x := [0x10001000, 0, 0x10001020, 0, 32, 33, 0x10001004, 0] ++ f.x.drop 8 }))
  (fun c => { c with tks := [0, 0xFFFFFFFF, 0xFFFFFFE0] ++ c.tks.drop 3 })
theorem witness_cpy : solo copying (exOf copying) (fibOf copying) plain (Machine.shape (cpySrcs (.x 0) (.x 2) (.x 4)) none) ∧
    (exOf copying).car.ker.tokMask.getLsbD 0 = true ∧ (opv (operands (exOf copying) (cpySrcs (.x 0) (.x 2) (.x 4)) (fibOf copying)) 2).toNat = 32 ∧
    (opv (operands (exOf copying) (cpySrcs (.x 0) (.x 2) (.x 5)) (fibOf copying)) 2).toNat = 33 ∧
    (opv (operands (exOf copying) (cpySrcs (.x 6) (.x 2) (.x 4)) (fibOf copying)) 0).toNat % 32 = 4 ∧ (fibOf copying).away = false ∧
    getTk (exOf copying).cush 0 + upsDue copying (exOf copying).cush.cid 0 + 32 ≤ 0xFFFFFFFF ∧
    0xFFFFFFFF < getTk (exOf copying).cush 2 + upsDue copying (exOf copying).cush.cid 2 + 32 ∧ copying.engines = [] ∧
    storesBefore copying (exOf copying).cush.cid copying.nextId = false ∧ copying.wbs = [] := by unfold solo; decide +kernel
def roaming : State := withFib copying (fun f => { f with away := true })
theorem witness_cpy_away : solo roaming (exOf roaming) (fibOf roaming) plain (Machine.shape (cpySrcs (.x 0) (.x 2) (.x 4)) none) ∧
    (fibOf roaming).away = true ∧ (fibOf roaming).stcnt < 0xFFFF ∧ roomFor roaming (fibOf roaming) (parkArgs (exOf roaming) (exOf roaming).pc .storeRoom) := by
  unfold solo roomFor; decide +kernel
theorem witness_edge_waits : edgeWaits dirtied (exOf dirtied) := by
  have h : (dirtied.l1.any (fun l => l.core == (exOf dirtied).core && l.dirty != 0#16)) = true := by decide +kernel
  obtain ⟨l, hl, hc⟩ := List.any_eq_true.mp h
  simp only [Bool.and_eq_true, beq_iff_eq, bne_iff_ne] at hc
  exact .inl ⟨l, hl, hc⟩
def ldForm : CopyForm := ⟨plain, .cpyLd, some (.g 0), some (.g 2), 0, none, some 0⟩
def ttForm : CopyForm := ⟨plain, .cpyTt, none, none, 0, some 1, some 7⟩
theorem witness_copies : CopyOf (.cpytLd plain 0 (.g 0) (.g 2) 0) ldForm ∧ solo copying (exOf copying) (fibOf copying) plain ldForm.shape ∧
    CopyOf (.cpytTt plain 7 1 0) ttForm ∧ solo copying (exOf copying) (fibOf copying) plain ttForm.shape ∧
    (exOf copying).car.pkt.prodLo ≤ (fibOf copying).idx ∧ (fibOf copying).idx ≤ (exOf copying).car.pkt.prodHi ∧
    formatsMeet (exOf copying).cush ttForm.src ttForm.dst ∧ tilesMeet (exOf copying).cush ttForm.src ttForm.dst ∧
    firstOutside (exOf copying) ttForm.src ttForm.dst = none ∧ getTk (exOf copying).cush 0 < 0xFFFFFFFF :=
  ⟨.ld plain 0 (.g 0) (.g 2) 0, by unfold solo; decide +kernel, .tt plain 7 1 0, by unfold solo; decide +kernel, by decide +kernel, by decide +kernel,
   fun _ ha _ hd => by cases ha; cases hd; exact (by unfold copyable; decide +kernel),
   ⟨fun _ ha => by cases ha; exact (by unfold copyMayDrain; decide +kernel), fun _ hd => by cases hd; exact (by unfold copyMayFill; decide +kernel)⟩,
   by decide +kernel, by decide +kernel⟩
theorem witness_copies_stop : ¬ copyMayFill (getTile (exOf copying).cush 2) ∧ ¬ copyMayFill (getTile (exOf copying).cush 4) ∧
    ¬ copyable (bits (getTile (exOf copying).cush 1).w1 22 5) (bits (getTile (exOf copying).cush 6).w1 22 5) ∧ 0xFFFFFFFF ≤ getTk (exOf copying).cush 1 ∧
    copyable (bits (getTile (exOf copying).cush 5).w1 22 5) (bits (getTile (exOf copying).cush 9).w1 22 5) ∧
    bits (getTile (exOf copying).cush 5).w1 0 22 ≠ bits (getTile (exOf copying).cush 9).w1 0 22 ∧
    firstOutside (exOf (withKer copying (fun k => { k with scratch := 64 }))) (some 1) none = some 1 ∧
    (exOf (withFib copying (fun f => { f with idx := 1 }))).car.pkt.prodHi < 1 := by
  unfold copyMayFill copyable; decide +kernel
theorem witness_route : solo copying (exOf copying) (fibOf copying) plain (tileShape [sG 1 (.g 0)] none [aTok 7 0]) ∧
    solo copying (exOf copying) (fibOf copying) plain (tileShape [sG 1 (.g 0)] none [aTok 7 1]) := by unfold solo; decide +kernel
theorem witness_wait : solo copying (exOf copying) (fibOf copying) plain
      { Machine.shape [] none with res := ((List.range 8).filter (fun t => (2#8).getLsbD t)).map (aTok 1), held := true } ∧
    (fibOf copying).cush = (exOf copying).cush.cid ∧ roomFor copying (fibOf copying) (parkArgs (exOf copying) ((exOf copying).pc + 8#64) (.tokens 2)) ∧
    (List.range 8).map (getTk (exOf copying).cush) = [0, 0xFFFFFFFF, 0xFFFFFFE0, 0, 0, 0, 0, 0] := by unfold solo roomFor; decide +kernel
theorem witness_tkset : solo copying (exOf copying) (fibOf copying) plain { Machine.shape [sNoChan 1 1 (.x 4)] none with res := [aTok 0 0], held := true } ∧
    (lo32 (opv (operands (exOf copying) [sNoChan 1 1 (.x 4)] (fibOf copying)) 0)).toInt = 32 ∧ (fibOf copying).status = .resident := by unfold solo; decide +kernel
theorem witness_counters : ready copying (exOf copying) plain { Machine.shape [] (some (dNoChan (.x 8))) with res := [aTok 1 0], held := true } = true ∧
    ready copying (exOf copying) plain { Machine.shape [] (some (dNoChan (.x 8))) with res := [{ field := 1, kind := 3, idx := 15 }], held := true } = true := by
  decide +kernel

/-! ### Of the statements about requests, replies, walks and the exchange -/

/-- A request of core 0 to die 0 is the only one under way. -/
def asking (s : State) (die : Nat) (op : HomeOp) : State := pushReq s (mkReq s 0 die 4 0 1 0 0 op)
def theReq (s : State) : Req := s.reqs.headD (mkReq s 0 0 0 0 0 0 0 (.prefL2 0))
def servable (s : State) : Prop := takesUp s (theReq s) (.homeRequest 0) ∧ goes s (theReq s) ∧ MemCanon s
def writing : State := asking base 0 (.write (.store 1 2 0) [(0x100, 7), (0x101, 9)])
theorem witness_write : servable writing ∧ (theReq writing).op = .write (.store 1 2 0) [(0x100, 7), (0x101, 9)] := by
  refine ⟨⟨⟨0, by decide +kernel⟩, ?_⟩, by decide +kernel⟩
  unfold goes heard reaches admitted firstOfAll firstWaiting waitsForTicket MemCanon; decide +kernel
def reading : State := asking base 0 (.read (.load 9) [(0x100, 0), (0x101, 1)])
theorem goes_of (s : State) (r : Req) (h : (!ctlB s offDBGCTL r.die && !dieInReset s r.die && trackerRoom s r && !r.taken && diesConnected s (srcDie r.src) r.die &&
    diesConnected s r.die (srcDie r.src) && (s.reqs.find? (fun q => q.src == r.src && q.die == r.die)).map (·.id) == some r.id &&
    (s.reqs.find? (fun q => q.src == r.src && q.die == r.die && !q.taken)).map (·.id) == some r.id && s.reqs.all (fun q => q.ticket.isNone)) = true) :
    goes s r := by
  simp only [Bool.and_eq_true, Bool.not_eq_true', beq_iff_eq, List.all_eq_true] at h
  obtain ⟨⟨⟨⟨⟨⟨⟨⟨h1, h2⟩, h3⟩, h4⟩, h5⟩, h9⟩, h6⟩, h7⟩, h8⟩ := h
  refine ⟨h1, h2, h6, .inr ⟨⟨h4, h7, ⟨h5, h9⟩, fun ⟨q, hq, _, _, ht, _⟩ => ?_⟩, h2, h3⟩⟩
  simp [Option.isNone_iff_eq_none.mp (h8 q hq)] at ht
theorem witness_read : goes reading (theReq reading) ∧ reading.poison = [] := ⟨goes_of _ _ (by decide +kernel), by decide +kernel⟩
def poisoned : State := { reading with poison := [(4, 1)] }
theorem witness_poisoned_read : goes poisoned (theReq poisoned) ∧ (theReq poisoned).op = .read (.load 9) [(0x100, 0), (0x101, 1)] ∧
    (∃ p ∈ poisoned.poison, p.1 = 0x100 / 64) ∧ poisoned.loads = [] ∧ (getCarpet poisoned (theReq poisoned).carpet).isSome = true :=
  ⟨goes_of _ _ (by decide +kernel), by decide +kernel⟩
theorem witness_rmw : (let s := asking base 0 (.rmw (.load 9) .add 0x100 4 1 0); goes s (theReq s)) ∧ unpoisoned base 0x100 8 ∧
    (let s := asking base 0 (.join (.load 9) 0x100); goes s (theReq s) ∧ joinRuns s (.load 9) = true ∧ ofBytes (bytesAt s 0x100 4) = 0) ∧
    ofBytes (bytesAt { base with mem := [(0x100, 3)] } 0x100 4) = 3 :=
  ⟨goes_of _ _ (by decide +kernel), by unfold unpoisoned; decide +kernel, ⟨goes_of _ _ (by decide +kernel), by decide +kernel⟩, by decide +kernel⟩
theorem witness_crust_requests : regionOf crusted 0 0x10001004 = some 0 ∧ regionOf crusted 0 0x10001100 = none ∧ (replicaOf crusted 0 0 0).wf = true ∧
    (let s := asking crusted 0 (.ljoin (.store 1 2 0) 0 0x10001004 0 5); goes s (theReq s)) ∧
    (let s := asking crusted 0 (.ldge 9 0 0x10001004 0 5); goes s (theReq s) ∧ ctlF s (offCTXCB 0) 2 2 = 0 ∧
      cellIs s 0 0 0 (0x10001004 - regionBase s 0 0) 4 = 0) :=
  ⟨by decide +kernel, by decide +kernel, by decide +kernel, goes_of _ _ (by decide +kernel), goes_of _ _ (by decide +kernel), by decide +kernel⟩
/-- The home is in reset; it is halted, and has then accepted the request; the request has been refused and its 64 cycles are not over; it waits for
the ticket of an earlier one of its core. -/
def resetting : State := ctlSetB reading offDEVSTAT 0 true
def halting : State := ctlSetB reading offDBGCTL 0 true
def taken_ (s : State) : State := { s with reqs := s.reqs.map (fun r => { r with taken := true }) }
def ticketed : State := let s := asking reading 0 (.read (.load 9) [(0x200, 0)])
  { s with reqs := s.reqs.zipIdx.map (fun p => if p.2 = 0 then { p.1 with refused := 2, ticket := some 0 } else p.1) }
theorem witness_refused_request : heard resetting (theReq resetting) ∧ dieInReset resetting (theReq resetting).die = true ∧
    heard halting (theReq halting) ∧ admitted halting (theReq halting) ∧ ctlB halting offDBGCTL 0 = true ∧
    (theReq (taken_ halting)).taken = true ∧ ctlB (taken_ halting) offDBGCTL (theReq (taken_ halting)).die = true ∧
    (let s := { reading with reqs := reading.reqs.map (fun r => { r with refused := 1, retryAt := 64 }) }; s.clock < (theReq s).retryAt) ∧
    waitsForTicket ticketed (ticketed.reqs.getD 1 (theReq ticketed)) := by
  unfold heard reaches firstWaiting waitsForTicket admitted; decide +kernel

/-- A load of 4 bytes into x8 whose reply has come; the fibre waits for it. -/
def aLoad : LoadOp := {
  id := 9, kind := .ld, fid := 1, core := 0, d := .x 8, size := .w32, acq := none
  places := [.mem 1 0x100, .mem 1 0x101, .mem 1 0x102, .mem 1 0x103], bytes := List.replicate 4 none, fills := [] }
def replied (w : Payload) : State := withFib { base with fronds := [], loads := [aLoad], replies := [{ id := 20, die := 0, what := w }] } (fun f => { f with status := .parked, wait := .reply, joinCnt := 1 })
def theFib (s : State) : Fibre := s.fibres.headD fib0
def bytesCome : State := replied (.bytes (.load 9) [(0x100, 1), (0x101, 2), (0x102, 3), (0x103, 4)])
theorem witness_reply : replyFor bytesCome 0 ⟨20, 0, .bytes (.load 9) [(0x100, 1), (0x101, 2), (0x102, 3), (0x103, 4)], 0⟩ 9 aLoad (theFib bytesCome) ∧
    landed aLoad [(0x100, 1), (0x101, 2), (0x102, 3), (0x103, 4)] = some [1, 2, 3, 4] ∧ aLoad.bytes.length = aLoad.places.length ∧
    landed aLoad [(0x100, 1)] = none := by
  unfold replyFor comesTo; decide +kernel
theorem witness_fresh : fillsFresh bytesCome aLoad := fun _ hw => by cases hw
theorem witness_reply_value : replyFor (replied (.old 9 5 0)) 0 ⟨20, 0, .old 9 5 0, 0⟩ 9 aLoad (theFib (replied (.old 9 5 0))) ∧
    replyFor (replied (.value 9 5)) 0 ⟨20, 0, .value 9 5, 0⟩ 9 aLoad (theFib (replied (.value 9 5))) ∧
    replyFor (replied (.done 9)) 0 ⟨20, 0, .done 9, 0⟩ 9 aLoad (theFib (replied (.done 9))) := by unfold replyFor comesTo; decide +kernel
/-- A copy with two reads due, of which one has come. -/
def anEng : EngOp := {
  id := 12, kind := .cpyLd, cush := 2, carpet := 4, asid := 0, core := 0, die := 0, tok := 0, pc := ex0.pc, a := 0x10001000
  b := 0x10001040, n := 0, src := 64, dst := 0, phase := .issued, barrier := 0, upDue := false, desc := [], left := 1, row := 0, busy := false, todo := []
  want := 0, buf := [], stage := [], stalled := false, nextBlk := 0, stream := 0, blkIdx := 0, lens := [], uncounted := 0, header := false, table := false, fails := none }
def engReads : State := { base with engines := [{ anEng with want := 2 }], replies := [⟨20, 0, .bytes (.engine 12 0) [(0, 5)], 0⟩] }
theorem witness_engine_reply : engReads.replies[0]? = some ⟨20, 0, .bytes (.engine 12 0) [(0, 5)], 0⟩ ∧ getEng engReads 12 = some { anEng with want := 2 } := by
  decide +kernel
def acking (tgt : AckTo) : State := { (withFib base (fun f => { f with stcnt := 1 })) with acks := [⟨21, 0, tgt, 0⟩], running := true }
theorem witness_acks : calm (acking (.store 1 2 3)) = true ∧ (acking (.store 1 2 3)).engines = [] ∧
    storePending { acking (.store 1 2 3) with acks := [] } 2 3 = false ∧ calm (acking (.writeBack 0)) = true ∧ getFibre (acking (.store 7 2 3)) 7 = none ∧
    (getCush (acking (.store 7 2 3)) 2).isSome = true := by decide +kernel
theorem witness_token_up : calm { acking (.tokenUp 12 1 2) with engines := [{ anEng with kind := .cpy, upDue := true, phase := .fork }] } = true ∧
    (getCush (acking (.tokenUp 12 1 2)) 2).map (fun c => getTk c 0) = some 0 := by decide +kernel
/-- A walk for a page, with a fibre that waits; the tables map nothing, the first GiB, or hold a malformed entry. -/
def anAcc : Access := gAcc .load 0x20001000 4 true false
def tabled (mem : Memory) : State := withFib { base with mem, walks := [⟨15, 0, 0, 0x20001000, [.fibre 1 0x20001000 anAcc ex0.pc], false, none⟩] }
  (fun f => { f with status := .parked, wait := .walk })
def mapped : Memory := [(0, 1), (1, 0x10), (0x1000, 1), (0x1001, 0x20), (0x2000, 0x3F)]
def pageOfWalk : Xlat := { asid := 0, base := 0, level := 2, leaf := 0x3F }
/-- The first table entry is a poisoned unit. -/
theorem witness_poisoned_walk : walkTable { tabled mapped with poison := [(0, 1)] } 0 0x20001000 = .poisoned (0, 1) := by decide +kernel
def theWalk : Walk := ⟨15, 0, 0, 0x20001000, [.fibre 1 0x20001000 anAcc ex0.pc], false, none⟩
theorem witness_walk : walks (tabled []) 0 theWalk ∧ walks (tabled mapped) 0 theWalk ∧ walks (tabled [(0, 3)]) 0 theWalk ∧ (tabled []).holds = [] := by
  unfold walks; decide +kernel
theorem witness_walk_results : MemCanon (tabled []) ∧ MemCanon (tabled mapped) ∧ MemCanon (tabled [(0, 3)]) ∧
    walkTable (tabled []) 0 0x20001000 = .pageFault 4 ∧ walkTable (tabled mapped) 0 0x20001000 = .ok pageOfWalk ∧
    walkTable (tabled [(0, 3)]) 0 0x20001000 = .bad 4 0 ∧ leafCheck (tabled mapped) anAcc pageOfWalk 0x20001000 4 2 = none ∧
    tlbFind (tabled mapped).coreTlb 0 0 0x20001000 = none := by unfold MemCanon; decide +kernel

/-- Entry 3 of die 0 exchanges with die 1 every 64 cycles, a block is dirty for it; an exchange is under way. -/
def exchanging : State := { ctlSet crusted (offEXSCHED 0 3) (BitVec.ofNat 64 (1 + 4 + 2 ^ 24)) with dirty := [⟨0, 3, ⟨0, 0, 0⟩⟩], running := true }
theorem witness_exchange_fire : ((cycNow exchanging).fired = []) ∧ exchanging.clock = 0 ∧ (ctlW exchanging (offEXSCHED 0 3)).toNat % 2 = 1 ∧
    (ctlW exchanging (offEXSCHED 0 3)).toNat / 4 % 8 = 1 ∧ ctlB exchanging offDBGCTL 0 = false ∧ dieInReset exchanging 0 = false ∧
    ctlB exchanging offDBGCTL 1 = false ∧ dieInReset exchanging 1 = false ∧ diesConnected exchanging 0 1 = true ∧ exchanging.exchanges = [] ∧
    ctlB exchanging (offCRTAB 0 0) 1 = true ∧ (ctlW exchanging (offEXSCHED 0 4)).toNat % 2 = 0 := by decide +kernel
def anExch (absorbed : Bool) : Exchange :=
  { id := 30, die := 0, entry := 3, dst := 1, pkg := none, blocks := [(⟨0, 0, 0⟩, [(0, 5)])], sync := none, absorbed }
theorem witness_exchange_receive : diesConnected exchanging 0 1 = true ∧ ctlB crusted (offCRTAB 0 0) 1 = true ∧ (replicaOf crusted 1 0 0).wf = true ∧
    regionType crusted 0 0 < 10 ∧ ({ crusted with exchanges := [anExch true] } : State).syncs = [] := by decide +kernel
def aSync (dies : List Nat) : Sync := { id := 31, fid := 1, asid := 0, sc := .package, dies, exch := [], linked := false, back := none }
def syncing (dies : List Nat) : State := { asking crusted 0 (.sync 31) with syncs := [aSync dies] }
theorem witness_sync : goes (syncing [0, 1]) (theReq (syncing [0, 1])) ∧ (theReq (syncing [0, 1])).op = .sync 31 ∧ (∃ d ∈ [0, 1], d ≠ (theReq (syncing [0, 1])).die) ∧
    goes (syncing [0]) (theReq (syncing [0])) ∧ (syncing [0]).exchanges = [] ∧ (syncing [0]).dirty = [] :=
  ⟨goes_of _ _ (by decide +kernel), by decide +kernel, by decide +kernel, goes_of _ _ (by decide +kernel), by decide +kernel⟩

/-! ### Of the statement about fibres and launch -/

def theFrond : Frond := base.fronds.headD { fr := 0, core := 0, cush := 0, away := false, members := [], age := 0, split := 0, order := 0 }
theorem witness_forced_park : getFibre base fib0.fid = some fib0 ∧ fib0.status = .resident ∧ getCarpet base fib0.carpet = some ex0.car ∧
    base.fronds.find? (fun r => r.members.contains fib0.fid) = some theFrond ∧ ex0.car.dead = false ∧ dieUp base (fib0.core / 48) ∧
    roomFor base fib0 { at_ := none, resume := fib0.pc, wait := .none, join := 0, dstG := 0, dstK := 0 } := by unfold dieUp roomFor; decide +kernel
/-- Core 0's record area is full of spores, and the context is being suspended. -/
def crowded : State := { ctlSet (ctlSet base (offCTXCB 0) 4) (offVLTCFG 0) 1 with
  fibres := base.fibres ++ List.replicate 164 { fib0 with fid := 9, status := .parked, wait := .none, liveG := 0xFFFF, liveK := 0xFFFF } }
theorem witness_no_room : sporeRoom crowded 0 0 64 = false ∧ ctlF crowded (offCTXCB 0) 2 2 = 1 ∧
    ¬ roomFor crowded fib0 { at_ := none, resume := fib0.pc, wait := .none, join := 0, dstG := 0, dstK := 0 } := by unfold roomFor; decide +kernel
def idleSlots : State := { base with slots := [] }
theorem witness_run_start : getSlot idleSlots 0 0 = none ∧ (∀ j ∈ idleSlots.slots, j.frond = none) ∧ dieUp idleSlots 0 ∧
    (idleSlots.slots.filter (fun k => k.core == 0 && k.frond.isSome)).length < ctlF idleSlots offPWEVT 8 3 ∧ frondReady idleSlots 0 theFrond = true ∧
    theFrond ∈ idleSlots.fronds ∧ (getSlot base 0 0).any (fun k => k.frond.isSome) = true := by unfold dieUp; decide +kernel
def twoFronds : State := { base with
  slots := []
  fibres := [fib0, { fib0 with fid := 7, idx := 1, lane := 1 }]
  fronds := [theFrond, { theFrond with fr := 8, members := [7] }] }
theorem witness_merge : getFrond twoFronds 3 = some theFrond ∧ frondReady twoFronds 0 theFrond = true ∧
    frondReady twoFronds 0 { theFrond with fr := 8, members := [7] } = true ∧ frondPc twoFronds theFrond = frondPc twoFronds { theFrond with fr := 8, members := [7] } ∧
    ∀ g ∈ frondLanes twoFronds theFrond, ∀ h ∈ frondLanes twoFronds { theFrond with fr := 8, members := [7] }, g.lane ≠ h.lane := by decide +kernel
def aJob (due : List WkLand) (join : Nat) : WalkerJob := {
  fid := 1, core := 0, instr := .crest plain 9 (.x 6), pc := ex0.pc, args := [⟨0, 0x10001180, none⟩], dpair := none, asked := [], fetched := []
  frond := 3, join, due }
def walkerBusy (due : List WkLand) (join : Nat) : State := withFib { base with fronds := [], slots := [], dieTlb := base.coreTlb, jobs := [aJob due join] }
  (fun f => { f with status := .parked, wait := .reply, joinCnt := join })
theorem witness_walker_complete : (walkerBusy [] 1).jobs.find? (fun q => q.fid == 1) = some (aJob [] 1) ∧ (theFib (walkerBusy [] 1)).joinCnt = 1 ∧
    dieReads (walkerBusy [] 1) 0 0 .walker 0x10001180 32 0x10001180 ∧ (walkerBusy [] 1).reqs = [] ∧ MemCanon (walkerBusy [] 1) ∧
    (getCarpet (walkerBusy [] 1) (theFib (walkerBusy [] 1)).carpet).map (·.dead) = some false := by
  refine ⟨by decide +kernel, by decide +kernel, ?_, by decide +kernel, by unfold MemCanon; decide +kernel, by decide +kernel⟩
  exact ⟨by decide +kernel, probeXlat, by decide +kernel⟩
theorem witness_walker_due : 1 < (theFib (walkerBusy [.cursor 9 ⟨0, 0, 0, 0⟩, .done 0] 2)).joinCnt ∧
    getFibre (walkerBusy [.cursor 9 ⟨0, 0, 0, 0⟩, .done 0] 2) 1 = some (theFib (walkerBusy [.cursor 9 ⟨0, 0, 0, 0⟩, .done 0] 2)) := by decide +kernel
/-- The fibre's spore is ready; so are two of a REFORM group, of which one has no bank free for it. -/
def spored : State := withFib { base with fronds := [], slots := [] } (fun f => { f with status := .ready, wait := .none, age := 0 })
def grouped : State := { spored with
  fibres := spored.fibres.map (fun f => { f with group := some 5 }) ++ spored.fibres.map (fun f => { f with fid := 7, idx := 1, lane := 1, group := some 5, status := .parked }) }
def anywhere : State := withFib spored (fun f => { f with affinity := 1 })
theorem witness_restore_anywhere : ((waitHead anywhere 5 0).map (fun w => (w.f.affinity, w.f.status, w.f.tgtDie))) = some (1, .ready, 0) ∧
    (windowPlace anywhere 5 0 16).isSome = true := by decide +kernel
theorem witness_restore : dieUp spored 0 ∧ ((waitHead spored 0 0).map (fun w => (w.f, w.task))) = some (theFib spored, none) ∧ (theFib spored).group = none ∧
    (theFib spored).core = 0 ∧ (windowPlace spored 0 0 16).isSome = true ∧ waitHead spored 0 1 = none ∧
    ((waitHead grouped 0 0).bind (fun w => w.f.group)) = some 5 ∧ waitHead grouped 0 1 = none := by unfold dieUp; decide +kernel
theorem witness_promote : (theFib spored).prio < 3 ∧ alive { spored with clock := 2 ^ 20 } (theFib spored).carpet ex0.car ∧
    (theFib spored).age + 2 ^ 20 * ((theFib spored).prio + 1 - ex0.car.pkt.prio) ≤ 2 ^ 20 := by unfold alive; decide +kernel
/-- The fibre's spore has asked for a core of die 0; every core of the die has granted all its slots; a core has granted it one. -/
def landing_ : State := { spored with landing := [⟨1, 0⟩] }
def landingFull : State := { landing_ with fibres := landing_.fibres ++ (List.range 48).flatMap (fun c => List.replicate 8 { fib0 with fid := 9, landCore := some c }) }
def granted : State := withFib spored (fun f => { f with landCore := some 1, landed := false, claim := some 5 })
theorem witness_landing : landing_.landing = [⟨1, 0⟩] ∧ dieUp landing_ 0 ∧ (theFib landing_).saved = false ∧ landable landing_ (theFib landing_) 1 ∧
    alive landing_ (theFib landing_).carpet ex0.car ∧ ∀ c, c < 48 → ¬ landable landingFull (theFib landingFull) c := by
  unfold dieUp landable alive; decide +kernel
theorem witness_spore_land : (theFib granted).landCore = some 1 ∧ diesConnected granted 0 0 = true ∧ (theFib granted).claim = some 5 ∧ granted.wbs = [] ∧
    recordUse granted 1 + sporeBytes (theFib granted) ≤ recBytes granted 1 := by decide +kernel
theorem granted_apart : FibresApart granted := apart granted (by decide +kernel)
/-- The cushion has nothing left; a count stands in a convergence register; the carpet too has nothing left, and joins its completion cell. -/
def spent : State := { base with fibres := [], fronds := [], slots := [] }
theorem witness_cushion_end : idleCushion spent ex0.cush ∧ (∀ v ∈ ex0.cush.cvs, v.count = 0) ∧ ex0.cush.frozen = false ∧ ex0.cush.saved = false ∧
    alive spent ex0.cush.carpet ex0.car ∧ ([⟨2, 1, 0⟩] : List Conv)[0]? = some ⟨2, 1, 0⟩ := by unfold idleCushion alive; decide +kernel
def finished (b : Option Nat) (cjv : Bool) : State := { crusted with
  fibres := [], fronds := [], slots := [], cushions := []
  carpets := crusted.carpets.map (fun k => { k with barrier := b, pkt := { k.pkt with cjv, cjAddr := 0x10001004, cjVal := 5 } }) }
theorem witness_retire : (finished (some 5) true).carpets.all (fun k => k.placed == k.pkt.px * k.pkt.py * k.pkt.pz && !k.dead) = true ∧
    (finished (some 5) true).wbs = [] ∧ (finished (some 5) true).carpets.all (fun k => !k.noJoin) = true ∧ dieUp (finished (some 5) true) 0 ∧ regionOf (finished (some 5) true) 0 0x10001004 = some 0 ∧
    ctlF (finished (some 5) true) (offCRTAB 0 0) 3 4 < 10 ∧ (replicaOf (finished (some 5) true) 0 0 0).wf = true ∧ (finished none false).fibres = [] := by
  unfold dieUp; decide +kernel
/-- Launch queue 0 of context 0 is valid, its ring at 0x10002000, its tail the cell at 0x10001004, which die 0 sees at 1. -/
def launching : State := { ctlSet (ctlSet (ctlSet crusted (offLQ 0 0) 0x401) (offLQ 0 0 + 8) 0x10002000) (offLQ 0 0 + 0x10) 0x10001004 with
  dieTlb := base.coreTlb
  replicas := [⟨0, 0, 0, [(4, 1)]⟩] }
theorem witness_packet_read : queueDue launching 0 0 ∧ ldgeValue launching 0 0 (ctlW launching (offLQ 0 0 + 0x10)) 0 = some 1 ∧
    ctlF launching (offLQ 0 0 + 0x18) 0 32 < 1 ∧ MemCanon launching ∧ launching.walks = [] ∧ launching.poison = [] ∧
    (ctlW launching (offLQ 0 0 + 8)).toNat % 128 = 0 := by unfold queueDue dieUp MemCanon; decide +kernel
theorem witness_packet_bytes : dieReads launching 0 0 .load 0x10002000 128 0x10002000 := ⟨by decide +kernel, probeXlat, by decide +kernel⟩
/-- A kernel image of one instruction at 0x10001000, and a packet that launches it with one fibre. -/
def aPacket : Packet := { ex0.car.pkt with
  kernel := 0x10001000, param := 0, px := 1, py := 1, pz := 1, stages := 1, width := 1, nfib := 1, prodLo := 0, prodHi := 0, prio := 0
  scv := false, cjv := false, dieMask := 0, die0 := 0, asid := 0, reservedBad := false }
def aRead : ReadPacket := { asid := 0, q := 0, addr := 0x10002000, index := 0, readable := true, pkt := aPacket }
def accepting (magic : Byte) : State := { base with
  mem := [(0x10001000, magic), (0x10001001, 0x4C), (0x10001002, 0x5A), (0x10001003, 0x4B), (0x10001005, 1), (0x10001009, 1), (0x1000100C, 8),
    (0x10001018, 4), (0x10001019, 1)]
  dieTlb := base.coreTlb
  packets := [aRead] }
def afterRead (s : State) : State := noteAccept { s with packets := [] } 0
theorem witness_accept : aRead ∈ (accepting 0x4D).packets ∧ packetFields 0 aPacket = true ∧ (cycNow (accepting 0x4D)).accepted = [] ∧
    (match phase2 (afterRead (accepting 0x4D)) 0 0 aPacket.kernel with
      | (s, .ok k) => (match phase3 s 0 0 aPacket k with | (_, .ok _) => true | _ => false)
      | _ => false) = true ∧
    (match phase2 (afterRead (accepting 0x4C)) 0 0 aPacket.kernel with | (_, .fail) => true | _ => false) = true ∧
    packetFields 1 aPacket = false := by decide +kernel
def placing : State := { spent with cushions := [], carpets := base.carpets.map (fun k => { k with placed := 0, pkt := aPacket, ker := { k.ker with stages := 1 } }) }
theorem witness_place : ((firstPatch placing 0).map (fun p => (p.1.id, p.2))) = some (4, 0) ∧ firstPatch placing 1 = none ∧
    (placing.carpets.map (fun k => (pickCore placing 0 (footprint k.ker / 32) k.ker.budget 1 (decide (0 < k.ker.cvs))).isSome)) = [true] := by decide +kernel

/-! ### Of the statement about power and the engines -/

theorem witness_power : (let s := { base with power := [⟨2, 3, 0⟩] }; ((cycNow s).pool).getD (ctlF s offPWPOOL 0 16) = 768 ∧ ctlF s offPWPOOL 16 16 = 0 ∧
      (getCush s 2).isSome = true ∧ MemCanon s) ∧
    768 < ctlF (ctlSetF base offPWPOOL 16 16 766) offPWPOOL 16 16 + 3 ∧
    (let s := { withCush base (fun c => { c with grant := 2 }) with clock := 256 }; (exOf s).cush.mq = [] ∧ 0 < (exOf s).cush.grant ∧
      (exOf s).cush.mlast + 256 ≤ s.clock) := by unfold MemCanon; decide +kernel
def headCush (s : State) : Cushion := s.cushions.headD ex0.cush
/-- MWLD at the head of the queue: about to start, with its tile read, and done; its tile is tile 1. -/
def loadOp (ph : MPhase) (data : List (List (List Nat))) : MatOp := headOp (.mwld plain .s8 1 0) 1 [1] [] ph data
theorem witness_head : headGoes (queueing (loadOp .queued []) 1) (headCush (queueing (loadOp .queued []) 1)) ex0.car (loadOp .queued []) [] ∧
    (∀ p ∈ (loadOp .queued []).srcs, tileIs (headCush (queueing (loadOp .queued []) 1)) p.1 .ready) ∧ (loadOp .queued []).dsts = [] ∧
    (loadOp .queued []).barrier = none ∧ opHeld (queueing (loadOp .queued []) 1) 2 3 = false ∧
    startBad (headCush (queueing (loadOp .queued []) 1)) ex0.car.ker (loadOp .queued []) = none := by
  unfold headGoes alive dieUp tileIs; decide +kernel
/-- A product whose panel has another K than its tile. -/
def misfit : MatOp := headOp (.mma plain .s8 false 0 1 0) 1 [1] [] .queued []
def misfitting : State := withCush (queueing misfit 1) (fun c => { c with panel := c.panel.map (fun p => { p with k := 9 }) })
theorem witness_misfit : headGoes misfitting (headCush misfitting) ex0.car misfit [] ∧ (getTile (headCush misfitting) 1).st = .ready ∧
    ((headCush misfitting).panel.map (·.k)) = some 9 ∧ (getTile (headCush misfitting) 1).live = 8 ∧
    (startBad (headCush misfitting) ex0.car.ker misfit).isSome = true := by unfold headGoes alive dieUp; decide +kernel
theorem witness_source_read : headGoes (queueing (loadOp .running [[]]) 1) (headCush (queueing (loadOp .running [[]]) 1)) ex0.car (loadOp .running [[]]) [] ∧
    (loadOp .running [[]]).data.length = 1 + 2 * 0 ∧ ((loadOp .running [[]]).srcs[0]?.map (·.1)) = some 1 := by unfold headGoes alive dieUp; decide +kernel
/-- MCOND whose destinations are narrower than a pass. -/
def narrowed : MatOp := headOp (.mcond plain .s8 7 1 1 0) 1 [1, 1] [7, 8] .read [[], [[1]], [[]], [[1]], [[]]]
theorem witness_op_complete :
    (match opResult (exOf tiled).cush (loadOp .read [[], [[1, 2]], [[]]]) with | .done _ _ => true | _ => false) = true ∧
    (match opResult (exOf tiled).cush (loadOp .running [[]]) with | .wait => true | _ => false) = true ∧
    (match opResult (exOf tiled).cush (headOp (.mzero plain 0 0) 1 [] [] .running []) with | .done _ _ => true | _ => false) = true ∧
    (match opResult (exOf tiled).cush narrowed with | .fail _ _ _ => true | _ => false) = true := by decide +kernel

/-- An operation whose rows have come, with the kind of its accumulator. -/
def readOp (i : Instr) (srcs dsts : List Nat) (tag : AccTag) (data : List (List (List Nat))) : MatOp := { headOp i 1 srcs dsts .read data with tag }
def tiledCush : Cushion := (exOf tiled).cush
/-- The cushion that a result leaves, and its flags. -/
def doneOf (r : OpDone) : Cushion × BitVec 5 := match r with | .done c fl => (c, fl) | _ => (tiledCush, 31)
def elemAfter (r : OpDone) (a i : Nat) : Nat := accElem (getAcc (doneOf r).1 a) i
def rowOf8 : List Nat := [1, 2, 3, 4, 5, 6, 7, 0xFE]
/-- Integer products: an activation row 1 to 7 and -2 with weights of 1, then a group of weights of 2 (R304, R306). -/
def mmaInt : MatOp := readOp (.mma plain .s8 false 0 1 0) [1] [] .i32 [[], [List.replicate 8 0, rowOf8], []]
def mmagInt : MatOp := { readOp (.mmag plain .s8 false 0 1 (.g 8) 0) [1, 2] [] .i32 [[[1, 2]], [rowOf8, rowOf8, rowOf8, rowOf8], []] with
  gpair := BitVec.ofNat 64 (1 * 2 ^ 19)
  panels := [⟨.s8, 4, 8, false, List.replicate 4 (List.replicate 8 2), List.replicate 4 []⟩] }
theorem accSound_tiled : accSound (getAcc tiledCush 0) := by unfold accSound; decide +kernel
theorem witness_products : mmaInt.tag = .i32 ∧ readsAll mmaInt [List.replicate 8 0, rowOf8] ∧ tiledCush.panel.map (·.n) = some 4 ∧
    readsAll mmagInt [rowOf8, rowOf8, rowOf8, rowOf8] ∧ getD (getD mmagInt.data 0 []) 0 [] = [1, 2] ∧ bits mmagInt.gpair 19 11 = 1 ∧
    bits (getTile tiledCush 2).w1 0 11 ≤ 64 := by unfold readsAll; decide +kernel
theorem test_mma_integers : (elemAfter (opResult tiledCush mmaInt) 0 (64 + 2), elemAfter (opResult tiledCush mmaInt) 0 2) = (26, 0) := by decide +kernel
theorem test_mmag_groups : (List.range 4).map (fun m => elemAfter (opResult tiledCush mmagInt) 0 (64 * m)) = [0, 52, 0, 0] := by decide +kernel
/-- The example of R304: one pass adds 1 + 1 to 2^24 and rounds once; two passes would leave 2^24. -/
def floatCush : Cushion := { tiledCush with panel := some ⟨.s8, 1, 2, false, [[1, 1]], [[]]⟩, accs := tiledCush.accs.set 0 ⟨.f32, [(0, 0x4B800000)], []⟩ }
def mmaFloat : MatOp := readOp (.mma plain .bf16 false 0 5 0) [5] [] .f32 [[], [[0x3F80, 0x3F80]], []]
theorem witness_float_product : mmaFloat.tag = .f32 ∧ readsAll mmaFloat [[0x3F80, 0x3F80]] ∧ accSound (getAcc floatCush 0) ∧
    isNumber .bf16 0x3F80 (ratOf false 0x80 (-7)) ∧ isNumber .s8 1 (ratOf false 1 0) ∧ isNumber .f32 0x4B800000 (ratOf false 0x800000 1) ∧
    2 ≤ (mtxClass .bf16 .s8 false).1 := by
  refine ⟨rfl, by unfold readsAll; decide +kernel, by unfold accSound; decide +kernel, ⟨_, _, _, ?_, rfl⟩, ⟨_, _, _, ?_, rfl⟩, ⟨_, _, _, ?_, rfl⟩, by decide⟩ <;>
    decide +kernel
theorem test_mma_rounds_once : elemAfter (opResult floatCush mmaFloat) 0 0 = 0x4B800001 := by decide +kernel
/-- The example of R140: 3.5 - 1 reads out as 2.5 without a flag. -/
theorem test_long_read_out : longRead .rne ⟨5 * 2 ^ 2175, false, false, false, 0⟩ = (0x4004000000000000, 0) := by decide +kernel
/-- MHAD of a unit vector at the second place gives the second row of the Hadamard matrix over 4 (R307). -/
def hadamard : MatOp := readOp (.mhad plain .h16 6 5 0) [5] [6] .z [[], List.replicate 4 (0 :: 0x3C00 :: List.replicate 14 0), []]
theorem witness_hadamard : readsAll hadamard (List.replicate 4 (0 :: 0x3C00 :: List.replicate 14 0)) ∧ plainTile tiledCush (getTile tiledCush 6) ∧
    (tlFmt (getTile tiledCush 6)).isFloat = true ∧ bits (getTile tiledCush 6).w1 0 11 = 4 ∧ bits (getTile tiledCush 6).w1 11 11 = 16 := by
  unfold readsAll plainTile tileWords; decide +kernel
theorem test_mhad_column : (rowCodes (doneOf (opResult tiledCush hadamard)).1 (getTile tiledCush 6) 0 1 16).take 4 = [0x3400, 0xB400, 0x3400, 0xB400] := by
  decide +kernel
/-- MCOND of two bytes rows: columns 1 and 3 are nonzero in both (R308). The destinations take the 96 columns of a pass. -/
def condCush : Cushion := { tiledCush with tiles := (List.range 16).map (fun i =>
  if i = 7 then { aTileOf 1 96 0 0 .empty with w0 := BitVec.ofNat 64 (96 * 2 ^ 19) }
  else if i = 8 then { aTileOf 1 96 0 0 .empty with w0 := BitVec.ofNat 64 (1024 + 96 * 2 ^ 19) } else getTile tiledCush i) }
def condense : MatOp := { readOp (.mcond plain .s8 7 1 1 0) [1, 1] [] .z [[], [[1, 2, 0, 4]], [[]], [[0, 5, 6, 7]], [[]]] with
  dsts := [(7, getTile condCush 7), (8, getTile condCush 8)] }
theorem witness_condense : readsAll condense [[1, 2, 0, 4]] ∧ plainTile condCush (getTile condCush 7) ∧ plainTile condCush (getTile condCush 8) ∧
    bits (getTile condCush 7).w1 11 11 = 96 ∧ (mtxClass .s8 .s8 false).1 = 96 ∧ codesOf .s8 [[1, 2, 0, 4]] := by
  unfold readsAll plainTile tileWords codesOf; decide +kernel
theorem test_mcond_keeps : ((rowCodes (doneOf (opResult condCush condense)).1 (getTile condCush 7) 0 0 96).take 3,
    (rowCodes (doneOf (opResult condCush condense)).1 (getTile condCush 8) 0 0 96).take 3) = ([2, 4, 0], [5, 7, 0]) := by decide +kernel
/-- MQNT into MXFP8 of FP16 rows of 448 and 1: exponent 8 - 8 + 127, elements 448 and 1 exact (R132). The side tile lies apart. -/
def quantCush : Cushion := { tiledCush with tiles := (List.range 16).map (fun i =>
  if i = 11 then { aTileOf 4 1 4 0 .empty with w0 := BitVec.ofNat 64 (4096 + 32 * 2 ^ 19) } else getTile tiledCush i) }
def quantise (x : Nat) : MatOp := { readOp (.mqnt plain .mx8 10 12 11 0) [12] [10] .z [[], List.replicate 4 (0x5F00 :: x :: List.replicate 30 0), []] with
  dsts := [(10, getTile quantCush 10)] }
theorem witness_quantise : readsAll (quantise 0x3C00) (List.replicate 4 (0x5F00 :: 0x3C00 :: List.replicate 30 0)) ∧ tlFmt (getTile quantCush 10) = .mx8 ∧
    tileWords 524288 (getTile quantCush 10).w0 (getTile quantCush 10).w1 ∧ bits (getTile quantCush 10).w1 31 6 = 11 ∧
    tileWords 524288 (getTile quantCush 11).w0 (getTile quantCush 11).w1 ∧ bits (getTile quantCush 11).w1 22 5 = 4 := by
  unfold readsAll tileWords; decide +kernel
theorem test_mqnt_scales : (sideBytes (doneOf (opResult quantCush (quantise 0x3C00))).1 (getTile quantCush 10) 0 0,
    (rowCodes (doneOf (opResult quantCush (quantise 0x3C00))).1 (getTile quantCush 10) 0 0 32).take 3) = ([127], [0x7E, 0x38, 0]) := by decide +kernel
/-- A block with an infinity: exponent 255, codes 0, invalid (R132). -/
theorem test_mqnt_infinity : sideBytes (doneOf (opResult quantCush (quantise 0x7C00))).1 (getTile quantCush 10) 0 0 = [255] ∧
    (doneOf (opResult quantCush (quantise 0x7C00))).2 &&& flNV = flNV := by decide +kernel
/-- MRD of a tile of bytes, its second row to come; MXRD of a long accumulator; MXADD with its images read. -/
def readOut : MatOp := { headOp (.mrd plain .s8 0 1 0 0) 1 [] [0] .running [] with tag := .i32, prog := 1 }
def readingOut : State := withCush (queueing readOut 1) (fun c => { c with accs := c.accs.set 1 ⟨.i32, [(64, 300), (66, 5)], []⟩, tks := 32 :: c.tks.drop 1 })
theorem witness_read_out : headGoes readingOut (headCush readingOut) ex0.car readOut [] ∧ getEng readingOut 3 = none ∧ readingOut.acks = [] ∧
    plainTile (headCush readingOut) (getTile (headCush readingOut) 0) ∧ readingOut.cushions = [headCush readingOut] := by
  unfold headGoes alive dieUp plainTile tileWords; decide +kernel
theorem test_mrd_row : after (exec (.copyBytesApplied 3) readingOut) (fun t => (rowCodes (headCush t) (getTile (headCush t) 0) 0 1 8, getTk (headCush t) 0)) =
    some ([127, 0, 5, 0, 0, 0, 0, 0], 24) := by decide +kernel
def imageOut : MatOp := { headOp (.mxrd plain 0 (.g 10) 0) 1 [] [] .running [] with tag := .x, gpair := 0x10001000 }
theorem witness_image_out : headGoes (queueing imageOut 1) (headCush (queueing imageOut 1)) ex0.car imageOut [] ∧
    accParts imageOut.gpair 35328 = [(imageOut.gpair, 35328)] ∧ imageOut.prog = 0 := by unfold headGoes alive dieUp; decide +kernel
def aLong : LongAcc := ⟨5, false, true, false, 0⟩
theorem witness_long : longSound aLong ∧ longSound (pairLong tiledCush 0 3) ∧ (imgByte aLong 0, imgByte aLong 1, imgByte aLong 544) = (5, 0, 2) := by
  unfold longSound; decide +kernel
/-- The images of MXADD, all zero but the last, whose status byte is malformed or not. -/
def imageIn (st : Byte) : MatOp := { headOp (.mxadd plain 0 (.g 10) 0) 1 [] [] .running [] with
  tag := .x, prog := 1, gpair := 0x10001000, image := [(552 * 63, 7), (552 * 63 + 544, st)] }
theorem witness_images : (imageIn 8).prog = (accParts (imageIn 8).gpair 35328).length ∧ (imageIn 8).added = 0 ∧ (imageIn 8).outstanding = 0 := by decide +kernel
theorem test_mxadd_malformed : (match opResult tiledCush (imageIn 8) with | .fail syn w3 w4 => some (syn, w3, w4) | _ => none) =
    some (0x305, 0x10001000#64 + BitVec.ofNat 64 (552 * 63), 63#64) := by decide +kernel
theorem test_mxadd_adds : (let y := pairLong (doneOf (opResult tiledCush (imageIn 2))).1 0 63; (y.l, y.pinf, y.nan)) = (7, true, false) := by decide +kernel

/-- An engine operation of the fibre's cushion, with its translations in die 0's cache, and one held on its token. -/
def engining (o : EngOp) : State := { withCush tiled (fun c => { c with tks := 1 :: c.tks.drop 1 }) with engines := [o], dieTlb := base.coreTlb }
theorem witness_descriptor : engGoes (engining anEng) anEng (headCush (engining anEng)) ex0.car ∧ anEng.b.toNat % 32 = 0 ∧ anEng.todo = [] ∧
    (dieGoesTo (engining anEng) 0 0 anEng.b 32 false).isSome = true ∧ ({ anEng with b := 4 } : EngOp).b.toNat % 32 = 4 ∧
    engGoes (engining { anEng with phase := .descRead }) { anEng with phase := .descRead } (headCush (engining anEng)) ex0.car := by
  unfold engGoes dieUp; decide +kernel
theorem witness_descriptor_words : strideBad .cpyLd (getTile (exOf tiled).cush 0) (bufBytes anEng 0 32) = none ∧
    tileOutside (exOf tiled).cush ex0.car.ker.scratch 0 (sdCount (bufBytes anEng 0 32)) = false ∧
    strideBad .cpyLd (getTile (exOf tiled).cush 0) (bufBytes { anEng with buf := [(16, 0x20)] } 0 32) = some 1 ∧
    (routeBad (bufBytes anEng 0 64)).isSome = true := by decide +kernel
/-- A copy whose 16 bytes have been acknowledged of 32 and of 16; a tile copy whose rows have come. -/
def copyingEng (left : Nat) : EngOp := { anEng with kind := .cpy, phase := .running, left }
def acked (left : Nat) : State := { engining (copyingEng left) with acks := [⟨21, 0, .engine 12 16, 0⟩] }
theorem witness_copy_bytes : ackOf (acked 32) 12 16 ⟨21, 0, .engine 12 16, 0⟩ ∧ lastPiece (acked 16) (exOf tiled).cush (copyingEng 16) := by
  have h (n : Nat) : (acked n).acks = [⟨21, 0, .engine 12 16, 0⟩] := rfl
  have a (n : Nat) (hc : diesConnected (acked n) 0 0 = true) : ackOf (acked n) 12 16 ⟨21, 0, .engine 12 16, 0⟩ := by
    refine ⟨by simp [h], rfl, fun o ho => ?_, fun b hb hne => ?_⟩
    · rw [show o = copyingEng n from Option.some.inj ho.symm]
      rw [comesTo, show (copyingEng n).core / 48 = 0 by simp [copyingEng, anEng]]
      exact fun _ => hc
    · rw [h] at hb
      exact absurd (List.mem_singleton.mp hb) hne
  exact ⟨a 32 (by decide +kernel), ⟨_, a 16 (by decide +kernel)⟩⟩
def loadingEng : EngOp := { anEng with phase := .running, busy := true }
theorem witness_copy_rows : allCome loadingEng ∧ rowBatch (exOf tiled).cush loadingEng * rowCount (exOf tiled).cush loadingEng = 32 ∧
    (exOf tiled).cush.scratch.wf = true ∧ lastPiece (engining loadingEng) (exOf tiled).cush { loadingEng with left := 32 } := by
  unfold allCome lastPiece
  refine ⟨by decide +kernel, by decide +kernel, by decide +kernel, by decide +kernel, ?_⟩
  unfold allCome; decide +kernel
/-- A block of one byte 0, coded in one bit, whose code lengths are shared; and one whose CRC is 0. -/
def unfurling (crc : List Byte) : EngOp := { anEng with
  kind := .cpyd, phase := .running, busy := true, header := true, left := 4, lens := 1 :: List.replicate 255 0
  buf := (List.range 16).zip ([0x55, 0x46, 1, 0x20, 1, 0, 1, 0] ++ crc) }
theorem witness_unfurl : decoderNext (engining (unfurling [0x51, 0x53, 0x7D, 0x52])) 0 = some (unfurling [0x51, 0x53, 0x7D, 0x52]) ∧
    ufShared (unfurling []) = true ∧ unfurlBlock (unfurling [0x51, 0x53, 0x7D, 0x52]) (unfurling []).lens = ([0], none) ∧
    unfurlBlock (unfurling []) (unfurling []).lens = ([], some (0, 0x527D5351)) ∧
    decoderNext (engining { unfurling [] with fails := some 9 }) 0 = some { unfurling [] with fails := some 9 } := by decide +kernel
/-- One row of one expert, whose score is 1. -/
def routing : EngOp := { anEng with
  kind := .route, phase := .running, buf := [(8194, 0x80), (8195, 0x3F)]
  desc := bytesOf [0x10001000, 0x002A000100000004, 1, 0, 0x10001100, 0x10001110, 0x10001120, 0x10001130] }
theorem witness_route_run : routeBad routing.desc = none ∧ (engining routing).engines.find? (fun e => e.kind == .route && e.die == 0) = some routing ∧
    allCome routing ∧ ((routeWrites routing).1.map (fun it => (it.va, it.data))) =
      [(0x10001100, [0, 0, 0, 0]), (0x10001110, [0, 0, 0x80, 0x3F]), (0x10001120, [1, 0, 0, 0, 0, 0, 0, 0, 1, 0, 0, 0]), (0x10001130, [0, 0, 0, 0])] ∧
    ∀ it ∈ (routeWrites routing).1, (dieGoesTo (engining routing) 0 0 it.va it.n true).isSome = true := by unfold allCome; decide +kernel

/-- Of the statements about a launched carpet and a die that is up. -/
theorem witness_alive : alive base ex0.car.id ex0.car ∧ dieUp base 0 := by unfold alive dieUp; decide +kernel


/-- A queue with one record, first closed, then open with room. -/
def recorded (v : DWord) : State := ctlSet (queueRec base 0 (mkRec base 2 0x402 0 0 0 0 0) .nothing) (offFQ 0) v
theorem witness_closed_ring : ¬ ringRoom (recorded 0x10) 0 ∧ MemCanon (recorded 0x10) := by unfold ringRoom MemCanon; decide +kernel
theorem witness_open_ring : ringRoom (recorded 0x11) 0 ∧ MemCanon (recorded 0x11) := by unfold ringRoom MemCanon; decide +kernel
/-- A dead carpet with one detection, its write-backs done. -/
def dying : State := killCarpet (updCarpet base ex0.car.id (fun k => { k with barrier := some 0 })) ex0.car.id
theorem witness_dead_carpet : (getCarpet dying ex0.car.id).any (fun k => k.dead && !k.gone && k.barrier == some 0) = true ∧
    (∀ d ∈ dying.detects, d.carpet = ex0.car.id → d.freeze = none ∧ d.device = none) ∧ (∃ d ∈ dying.detects, d.carpet = ex0.car.id) ∧
    dying.wbs = [] ∧ ∀ c ∈ dying.cushions, c.frozen = false := by decide +kernel
/-- A bridge with its host, and a link port that carries. -/
def linked : State := { (ctlSet (ctlSet base offLKBRIDGE 0x10) (offLKSTAT 3) 1) with running := true, hostUp := true }
theorem witness_host_reaches : hostReaches linked ∧ MemCanon linked := by unfold hostReaches MemCanon; decide +kernel
theorem witness_port_carries : carries linked 3 := by unfold carries; decide +kernel
/-- An open circuit, and another one for the same way once entry 64 is opened. -/
theorem witness_circuit_open : circuitState linked 0 = 2 ∧ circuitState linked 64 = 0 := by decide +kernel

/-! ### Of the statements about control space, regions, contexts and the host -/

theorem witness_writes : cregAt 0x28 = none ∧ hasCarpet base 0 ∧ (∀ k ∈ base.carpets, k.asid ≠ 1) ∧ holdsCushion base 0 ∧ (∀ c ∈ base.cushions, c.core ≠ 1) ∧
    (∀ f ∈ base.fibres, f.core ≠ 1) ∧ MemCanon base := by
  refine ⟨by decide +kernel, ?_, by decide +kernel, ?_, by decide +kernel, by decide +kernel, by unfold MemCanon; decide +kernel⟩
  · exact ⟨ex0.car, by decide +kernel⟩
  · exact ⟨ex0.cush, by decide +kernel⟩
theorem witness_held_interrupt : ({ linked with irqHeld := [(0, 16)] } : State).irqHeld = [(0, 16)] ∧ bits 16 0 5 = 16 + member linked ∧
    ctlB linked offLKBRIDGE 4 = true ∧ linked.hostUp = true := by decide +kernel
/-- Core 1 is to have 4 KiB of L1 once write-backs before handle 7 are done; one is under way; a line is dirty again. -/
def resizing : State := { base with resizes := [(1, 4, 7)] }
theorem witness_resize : resizing.resizes.find? (fun r => r.1 == 1) = some (1, 4, 7) ∧ resizing.wbs = [] ∧ resizing.l1 = [] ∧
    max 4 (min 16 (bits 8 0 5)) ≠ ctlF resizing (offUSCFG 1) 0 5 ∧ max 4 (min 16 (bits 3 0 5)) = ctlF resizing (offUSCFG 1) 0 5 := by decide +kernel
theorem witness_partition : (∀ a < 16, ∀ r < 64, ctlB base (offCRTAB a r) 0 = false ∧ ctlB base (offCRTAB a r) 1 = false) ∧
    min 8 (bits 9 0 4) ≠ ctlF base 0x5800 0 4 ∧ ctlB crusted (offCRTAB 0 0) 0 = true := by decide +kernel
/-- A page of context 0 is being invalidated; one access to it, older, waits. -/
def invalidating : State := { base with inval := some (7, 0, 0x10001000) }
theorem nothing_old_waits : ¬ oldAccessWaits invalidating 7 0 0x10001000 := by
  rintro (⟨r, hr, -⟩ | ⟨r, hr, -⟩ | ⟨h, hh, -⟩ | ⟨o, ho, -⟩)
  · rw [show invalidating.reqs = [] by decide +kernel] at hr; cases hr
  · rw [show invalidating.remote = [] by decide +kernel] at hr; cases hr
  · rw [show invalidating.held = [] by decide +kernel] at hh; cases hh
  · rw [show invalidating.engines = [] by decide +kernel] at ho; cases ho
def oldRead : Req := { theReq reading with id := 3, va := 0x10001004 }
def oldRows : Req := { oldRead with va := 0, pages := [0x10000000] }
theorem witness_old_waits : oldAccessWaits { invalidating with reqs := [oldRead] } 7 0 0x10001000 ∧
    oldAccessWaits { invalidating with reqs := [oldRows] } 7 0 0x10000000 :=
  ⟨.inl ⟨oldRead, List.mem_singleton.mpr rfl, by decide +kernel, by decide +kernel, by
    unfold requestMatches
    rw [if_pos (by decide +kernel)]
    exact show oldRead.asid = 0 % 16 ∧ _ ∧ _ by decide +kernel⟩,
   .inl ⟨oldRows, List.mem_singleton.mpr rfl, by decide +kernel, by decide +kernel, by
    unfold requestMatches
    rw [if_neg (by decide +kernel)]
    exact ⟨_, List.mem_singleton.mpr rfl, show oldRows.asid = 0 % 16 ∧ _ ∧ _ by decide +kernel⟩⟩⟩
theorem witness_invalidate : ctlB base 0x7008 9 = false ∧ ctlB (ctlSetB base 0x7008 9 true) 0x7008 9 = true ∧
    ∀ k ∈ base.walks, k.dropped = false := by decide +kernel
/-- Region 0 of context 0 is active and not loaded; loaded and given up, with equal replicas; word 0 of region 1 is free. -/
def loadingRegion : State := ctlSet crusted (offCRTAB 0 0) 0x10001001
def retiring : State := ctlSet crusted (offCRTAB 0 0) 0x10001002
theorem witness_region : ctlB loadingRegion (offCRTAB 0 0) 0 = true ∧ ctlB loadingRegion (offCRTAB 0 0) 1 = false ∧ (∀ d < 8, dieInReset loadingRegion d = false) ∧
    ctlB retiring (offCRTAB 0 0) 0 = false ∧ ctlB retiring (offCRTAB 0 0) 1 = true ∧ (∀ d < 8, replicaOf retiring d 0 0 = replicaOf retiring 0 0 0) ∧
    retiring.exchanges = [] ∧ ctlB crusted (offCRTAB 0 1) 0 = false ∧ ctlB crusted (offCRTAB 0 1) 1 = false ∧ MemCanon crusted := by
  unfold MemCanon; decide +kernel
/-- CRPART leaves a way to the cells, and the tables map the block at 0x10001000 as crust cells of type 0. -/
def fitting : State := { ctlSet (ctlSet base 0x5800 1) (offCRTAB 0 0 + 8) 1 with
  mem := [(0, 1), (1, 0x10), (0x1000, 1), (0x1001, 0x20), (0x2000, 0x0F), (0x2001, 0x02)] }
theorem witness_fits : regionFits (ctlSet fitting (offCRTAB 0 0) 0x10001000) 0 0 = true ∧ regionFits (ctlSet fitting (offCRTAB 0 0) 0x10001008) 0 0 = false := by
  decide +kernel
theorem witness_arm : mayArm (ctlSetB launching (offLQ 0 0) 0 false) 0 0 ∧ ctlB (ctlSetB launching (offLQ 0 0) 0 false) (offLQ 0 0) 0 = false ∧
    ctlB launching (offLQ 0 0) 0 = true := by unfold mayArm; exact ⟨⟨⟨0, by decide +kernel⟩, by decide +kernel⟩, by decide +kernel⟩
/-- The context is being suspended, its fibre parked; it has or has no room; its write-backs are under way; it is suspended. -/
def suspending (spsize : DWord) (wb : List (Nat × Nat)) : State :=
  { ctlSet (ctlSet spored (offCTXCB 0) 4) (offCTXCB 0 + 0x10) spsize with suspendWb := wb }
theorem witness_suspend : ctlF (suspending 0 []) (offCTXCB 0) 2 2 = 1 ∧ ctxSettled (suspending 0 []) 0 = true ∧
    (suspending 0 [(0, 7)]).suspendWb.find? (fun p => p.1 == 0) = some (0, 7) ∧ (suspending 0 []).wbs = [] ∧
    ctlF (ctlSet spored (offCTXCB 0) 8) (offCTXCB 0) 2 2 = 2 ∧ ctxSettled (ctlSet base (offCTXCB 0) 4) 0 = false ∧
    (∃ d, d < 8 ∧ ctlB (ctlSetB (suspending 0 []) offDBGCTL 3 true) offDBGCTL d = true) ∧ ctlB (suspending 0 []) offDBGCTL 0 = false ∧
    ∀ c ∈ ctxCushions (suspending 0 []) 0, queueStands c := by
  refine ⟨by decide +kernel, by decide +kernel, by decide +kernel, by decide +kernel, by decide +kernel, by decide +kernel, ⟨3, by decide +kernel⟩,
    by decide +kernel, fun c hc op rest h => ?_⟩
  have hq : ∀ c ∈ ctxCushions (suspending 0 []) 0, c.mq = [] := by decide +kernel
  rw [hq c hc] at h; cases h
theorem witness_fault_queue : ctlB base (offFQ 16) 0 = false ∧ ctlB (ctlSet base (offFQ 16) 1) (offFQ 16) 0 = true ∧
    ctlF (ctlSet base (offFQ 16 + 0x10) 1) (offFQ 16 + 0x10) 0 32 ≠ ctlF (ctlSet base (offFQ 16 + 0x10) 1) (offFQ 16 + 0x18) 0 32 ∧
    ctlB base offBRGSEL 4 = false := by decide +kernel
theorem witness_host : hostBytes (ctlSet linked offBRWIN 0x100) (2 ^ 30 - 4) 4 (2 ^ 30 - 4) ∧ linked.bar2 = [] ∧ linked.barWait = [] ∧
    linked.barFrozen = false ∧ linked.poison = [] ∧ dieUp (ctlSet linked offBRWIN 0x100) (homeDie (2 ^ 30 - 4)) ∧
    (let s := ctlSetB (ctlSet linked offBRWIN 0x100) offDBGCTL (homeDie (2 ^ 30 - 4)) true
     hostBytes s (2 ^ 30 - 4) 4 (2 ^ 30 - 4) ∧ ctlB s offDBGCTL (homeDie (2 ^ 30 - 4)) = true) := by
  unfold hostBytes dieUp; decide +kernel
/-- BRWIN names member 1; a route to it leads through port 3; without one nothing leads there. -/
def routed (mask : DWord) : State := ctlSet (ctlSet linked offBRWIN 1) 0x3000 mask
theorem route_of (s : State) (core pkg : Nat) (l : List Nat) (h : (List.range 16).filter (fun p => portUp s p && (routeMask s pkg).testBit p) = l)
    (h1 : l.length ≤ 1) : routePort s core pkg = l.head? := by
  unfold routePort
  rw [← List.filter_filter] at h
  generalize (List.range 16).filter (fun p => (routeMask s pkg).testBit p) = ps at h ⊢
  rw [← List.head?_filter, List.filter_append]
  rw [← List.take_append_drop (Config.portHash core pkg % ps.length) ps, List.filter_append] at h
  subst h
  generalize List.filter (portUp s) (List.drop _ _) = b at h1 ⊢
  generalize List.filter (portUp s) (List.take _ _) = a at h1 ⊢
  match a, b with
  | [], _ => simp
  | _ :: _, [] => simp
  | _ :: _, _ :: _ => simp at h1
theorem witness_forward : ctlF (routed 0x80000) offBRWIN 0 4 = 1 ∧ member (routed 0x80000) = 0 ∧
    routePort (routed 0x80000) noCore (ctlF (routed 0x80000) offPKGID 0 12 / 16 * 16 + 1) = some 3 ∧
    routePort (routed 0) noCore (ctlF (routed 0) offPKGID 0 12 / 16 * 16 + 1) = none :=
  ⟨by decide +kernel, by decide +kernel, route_of _ _ _ [3] (by decide +kernel) (by decide), route_of _ _ _ [] (by decide +kernel) (by decide)⟩

/-! ### Of the statement about faults, resets, circuits and links -/

theorem witness_ring_space : ctlF (recorded 0x11) (offFQ 0 + 0x10) 0 32 < 2 ^ 32 ∧ (ctlW (recorded 0x11) (offFQ 0 + 8)).toNat + 64 ≤ 2 ^ 39 ∧
    (recorded 0x10).queued.filter (fun x => x.queue == 0) ≠ [] := by decide +kernel
/-- A system call whose record is in the ring, and a held walk. -/
def answering (h : Hold) (w : Wait) : State := withFib { base with fronds := [], posted := [⟨0, 0, h⟩], holds := [⟨9, 0, 0, 0x20001000, [.fibre 1 0x20001000 anAcc ex0.pc]⟩] }
  (fun f => { f with status := .parked, wait := w, joinCnt := 1 })
theorem witness_answer : answerOf (answering (.sysc 1) .sysc) 0 0x100000000 = some ⟨0, 0, .sysc 1⟩ ∧ answerOf (answering (.sysc 1) .sysc) 0 1 = none ∧
    (theFib (answering (.sysc 1) .sysc)).joinCnt ≤ 1 ∧ (answering (.replay 9) .replay).holds.find? (fun k => k.id == 9 && !k.waiters.isEmpty) =
      some ⟨9, 0, 0, 0x20001000, [.fibre 1 0x20001000 anAcc ex0.pc]⟩ ∧ ctlF (answering (.replay 9) .replay) (offCTXCB 0) 2 2 < 2 ∧
    (answering (.replay 9) .replay).jobs = [] := by unfold answerOf; decide +kernel
/-- A frozen cushion, which FRZTAB lists. -/
def froze : State := ctlSet (withCush base (fun c => { c with frozen := true })) (offFRZTAB 0) 1
theorem witness_frozen : ctlB froze (offFRZTAB 0) 0 = true ∧ ctlF froze (offFRZTAB 0) 1 2 = 0 ∧
    ((froze.cushions.find? (fun c => c.frozen && c.core == ctlF froze (offFRZTAB 0) 4 9 && c.slot == ctlF froze (offFRZTAB 0) 13 4)).map (·.cid)) = some 2 := by
  decide +kernel
theorem witness_resets : ctlB base 0x32000 8 = false ∧ ctlB (ctlSet base 0x32000 0x100) 0x32000 8 = true ∧
    (ctlSet { base with running := true } 0x32000 0x100).imageReload = [] ∧ dieInReset (ctlSet { base with running := true } 0x32000 0x100) (0 ^^^ 1) = false ∧
    diesConnected (ctlSet { base with running := true } 0x32000 0x100) 0 (0 ^^^ 1) = true := by decide +kernel
/-- A request on its way, and a reply of a load whose request was accepted; both are of die 0 and were sent in cycle 0. -/
def unansweredBoth : State := { bytesCome with reqs := reading.reqs, clock := 4096 * 0x400 }
theorem witness_timeouts : unanswered unansweredBoth = [(0, 0), (0, 0)] ∧ unansweredBoth.haltSince = none ∧
    0 + 4096 * ctlF unansweredBoth offWDCFG 0 16 ≤ unansweredBoth.clock ∧ unansweredBoth.reqs.length = 1 ∧
    unansweredBoth.loads.find? (fun l => l.id == 9) = some aLoad ∧ (getFibre unansweredBoth aLoad.fid).isSome = true := by decide +kernel
theorem witness_debug : ctlB (ctlSet base 0x33100 0x10001) 0x33100 16 = true ∧ ctlB (ctlSet base 0x33100 0x10001) 0x33100 0 = true ∧ base.engines = [] ∧
    (∀ c ∈ base.cushions, c.mq = []) ∧ base.haltSince = none := by decide +kernel
/-- The fibre's x0 is poisoned; an IADD reads it. -/
def poisonedX : State := withFib base (fun f => { f with bad := [0] })
theorem witness_poisoned_register : focusEx poisonedX = some (exOf poisonedX) ∧ (exOf poisonedX).lanes = [fibOf poisonedX] ∧
    laneOk (exOf poisonedX) plain (Machine.shape [s32 1 (.x 0), s32 2 (.x 1)] (some (dW false (.x 2)))) (fibOf poisonedX) = true ∧
    0 ∈ (fibOf poisonedX).bad ∧ (fibOf base).winOff ≤ 0x804 ∧ 0x804 < (fibOf base).winOff + 64 * (fibOf base).winSize ∧ (fibOf base).lane = 0 := by decide +kernel
theorem witness_circuits : otherCircuit linked 3 0 4 ∧ ¬ otherCircuit linked 0 0 1 ∧ otherCircuit linked 0 0 2 ∧ otherCircuit linked 0 2 1 ∧
    stillJoined linked 0 0 1 ∧ diesConnected linked 0 1 = true :=
  ⟨⟨7, by decide +kernel⟩, by unfold otherCircuit; decide +kernel, ⟨1, by decide +kernel⟩, ⟨22, by decide +kernel⟩,
   .inr (.inr ⟨2, by decide, by decide, by decide, ⟨1, by decide +kernel⟩, ⟨22, by decide +kernel⟩⟩), by decide +kernel⟩
/-- Entry 64 opens a second circuit from die 0 to die 1 on port 7 of each. -/
def circuitWord : DWord := BitVec.ofNat 64 (1 + 7 * 2 ^ 4 + 2 ^ 7 + 7 * 2 ^ 10 + 2 ^ 48)
theorem witness_circuit_write : wavesFree linked 64 circuitWord ∧ bits circuitWord 1 3 ≠ bits circuitWord 7 3 ∧ circuitWord.getLsbD 0 = true ∧
    ¬ (linked.cyc.cycle = linked.clock ∧ 64 ∈ linked.cyc.conn) := by
  unfold wavesFree; decide +kernel
theorem witness_flit : carries linked 3 ∧ linked.linkFails = [] ∧ (8 ≤ ((([(3, 8)] : List (Nat × Nat)).find? (fun x => x.1 == 3)).map (·.2)).getD 0) ∧
    linked.portsFrozen = [] ∧ physOf 1 0x100 = some 0x100 ∧ linked.training = [] ∧ linked.remote = [] ∧ linked.bar4 = [] := by unfold carries; decide +kernel

/-! ### Of clauses on waits, refusals and ways that are lost -/

/-- x4 is a misaligned address (R181, R389, R390). -/
theorem witness_misaligned : solo global (exOf global) (fibOf global) plain (memShape .w32 (.x 8) (.x 4) none) ∧
    solo global (exOf global) (fibOf global) (noWs plain) (memShape .w32 (.x 8) (.x 4) (some (.x 9))) ∧
    solo global (exOf global) (fibOf global) plain (Machine.shape [s64 1 (.x 4)] none) ∧
    (opv (operands (exOf global) [s64 1 (.x 4)] (fibOf global)) 0).toNat % 4 = 2 ∧
    (atAddr (exOf global) (fibOf global) .w32 (.x 8) (.x 4) 0).toNat % accBytes .w32 ≠ 0 ∧ traps global (fibOf global) (exOf global).car := by
  unfold solo traps; decide +kernel
/-- Core 5 takes the spore that any core of the die may take; the write-back of its old core is under way, or done. -/
def claimed (wbs : List (Nat × Nat)) : State := { withFib spored (fun f => { f with affinity := 1, claim := some 7 }) with wbs }
theorem witness_claimed : dieUp (claimed [(0, 3)]) 0 ∧ ((waitHead (claimed [(0, 3)]) 5 0).map (·.f)) = some (theFib (claimed [])) ∧
    (theFib (claimed [])).group = none ∧ (theFib (claimed [])).poisoned = none ∧ (theFib (claimed [])).core ≠ 5 ∧ (theFib (claimed [])).claim = some 7 ∧
    ¬ backDone (claimed [(0, 3)]) 0 7 ∧ backDone (claimed []) 0 7 ∧ (windowPlace (claimed []) 5 0 16).isSome = true := by
  unfold dieUp backDone; decide +kernel
theorem claimed_apart : FibresApart (claimed [(0, 3)]) := apart _ (by decide +kernel)
theorem witness_taken : takenBy (withFib (claimed []) (fun f => { f with taken := some 5 })) (theFib (withFib (claimed []) (fun f => { f with taken := some 5 }))) = some 5 ∧
    takenBy (claimed []) (theFib (claimed [])) = none := by decide +kernel
/-- A unit of the spore is poisoned, before it is restored and before it lands. -/
theorem witness_poisoned_spore : (((waitHead (withFib spored (fun f => { f with poisoned := some (9, 1) })) 0 0).map (·.f.poisoned))) = some (some (9, 1)) ∧
    (theFib (withFib granted (fun f => { f with poisoned := some (9, 1) }))).poisoned = some (9, 1) := by decide +kernel
/-- Core 1 has room for the spore that lands, or none at all; its old core's write-back is under way. -/
theorem witness_land_room : (landRoom granted (theFib granted) 1).isSome = true ∧
    (landRoom (ctlSetF granted (offVLTCFG 1) 0 4 0) (theFib granted) 1).isNone = true ∧ ¬ backDone { granted with wbs := [(0, 3)] } 0 5 := by
  unfold backDone; decide +kernel
/-- The cushion leaves behind a task record bound for die 3. -/
def leaving : State := { spent with fibres := [{ fib0 with task := true, status := .ready, affinity := 1, tgtDie := 3 }] }
theorem witness_task_left : idleCushion leaving ex0.cush ∧ alive leaving ex0.cush.carpet ex0.car := by unfold idleCushion alive; decide +kernel
/-- A packet that starts once the cell at 0x10001004, which holds 1, has reached a threshold; the die sees crust cells there, or plain memory. -/
def condRead (thr : DWord) : ReadPacket := { aRead with pkt := { aPacket with scv := true, scAddr := 0x10001004, scType := 0, scThr := thr } }
def conditioned (thr : DWord) : State := { launching with dieTlb := crusted.coreTlb, packets := [condRead thr] }
theorem conditioned_cell (thr : DWord) (h : ldgeValue (conditioned thr) 0 0 0x10001004 0 = some 1) (k : cellLe 0 thr.toNat 1 = true)
    (r : ctlF (conditioned thr) (offCTXCB 0) 2 2 = 0) : mayAccept (conditioned thr) (condRead thr) :=
  ⟨r, fun _ _ v hv => by rw [show v = 1 from Option.some.inj (hv.symm.trans h)]; exact k⟩
theorem witness_condition : mayAccept (conditioned 1) (condRead 1) ∧ ¬ mayAccept (conditioned 5) (condRead 5) ∧ packetFields 0 (condRead 1).pkt = true ∧
    dieUp (conditioned 1) 0 ∧ regionOf (conditioned 1) 0 0x10001004 = some 0 ∧
    (∃ x, cellLeaf (conditioned 1) 0 0 0x10001004 x ∧ crustPage x 0) ∧ ∃ x, cellLeaf launching 0 0 0x10001004 x ∧ ¬ crustPage x 0 := by
  refine ⟨conditioned_cell 1 (by decide +kernel) (by decide +kernel) (by decide +kernel), fun h => ?_, by decide +kernel,
    by unfold dieUp; decide +kernel, by decide +kernel, ⟨(tlbFind crusted.coreTlb 0 0 0x10001004).getD probeXlat, ?_⟩, ⟨probeXlat, ?_⟩⟩
  · exact absurd (h.2 rfl rfl 1 (by decide +kernel)) (by decide +kernel)
  · unfold cellLeaf crustPage; decide +kernel
  · unfold cellLeaf crustPage; decide +kernel
theorem witness_packet_order : comesFirst { aRead with pkt := { aPacket with prio := 1 } } aRead ∧ comesFirst aRead { aRead with q := 8 } ∧
    ¬ comesFirst { aRead with q := 8 } aRead := by unfold comesFirst; decide +kernel
/-- The page of the ring, and of the kernel image, lies in package 17, to which no port leads. -/
def farPages (s : State) : State := { s with dieTlb := s.dieTlb.map (fun e => (e.1, { e.2 with leaf := 0x1000003F#64 ||| BitVec.ofNat 64 (2 ^ 14 + 17 * 2 ^ 39) })) }
theorem no_port (s : State) (core pkg : Nat) (h : routeMask s pkg = 0) : routePort s core pkg = none :=
  route_of s core pkg [] (by simp [h]) (by decide)
theorem witness_far_ring : queueDue (farPages launching) 0 0 ∧ routePort (farPages launching) 384 17 = none ∧ 17 ≠ pkgIdOf (farPages launching) ∧
    (tlbFind (farPages launching).dieTlb 0 0 0x10002000).any (fun x => leafRmt x.leaf && !leafCR x.leaf && leafRpkg x.leaf == 17 &&
      (leafCheck (farPages launching) (gAcc .load 0x10002000 128 true false) x 0x10002000 128 7).isNone) = true :=
  ⟨by unfold queueDue dieUp; decide +kernel, no_port _ _ _ (by decide +kernel), by decide +kernel, by decide +kernel⟩
/-- Two cushions of a patch find a core each; one with a footprint beyond every core's stripes finds none. -/
theorem witness_coreFor : ((coreFor placing 0 1 16 1 0 false).2).isSome = true ∧ (coreFor placing 0 0x8000 16 1 0 false).2 = none := by decide +kernel
/-- No circuit leads from die 1 to die 0: an acknowledgement of die 1 does not come. -/
theorem witness_no_way : diesConnected { base with ctl := [] } 1 0 = false ∧ ¬ comesTo { base with ctl := [] } 1 0 := by
  have h : diesConnected { base with ctl := [] } 1 0 = false := by decide +kernel
  exact ⟨h, fun k => absurd (k (by decide)) (by rw [show (0 : Nat) / 48 = 0 from rfl, h]; decide)⟩
/-- The fibre whose fault record is held is killed; a fibre whose access is under way in another package has retired. -/
theorem witness_held_kill : answerOf (answering (.replay 9) .replay) 0 0x300000000 = some ⟨0, 0, .replay 9⟩ ∧ bits 0x300000000 32 2 = 3 ∧
    (getCarpet (answering (.replay 9) .replay) (theFib (answering (.replay 9) .replay)).carpet).isSome = true := by unfold answerOf; decide +kernel
def abroad : State := { base with remote := [(77, { theReq reading with die := 8 + 17, fibre := 99, carpet := ex0.car.id })], clock := 4096 * 0x10000 }
theorem witness_link_retired : getFibre abroad 99 = none ∧ getCarpet abroad ex0.car.id = some ex0.car ∧ abroad.haltSince = none ∧
    0 + 4096 * ctlF abroad offWDCFG 16 16 ≤ abroad.clock := by decide +kernel
/-- Die 1 has accepted an LSYNC's request in cycle 0 and has not absorbed it. -/
theorem witness_sync_asked : unanswered { syncing [0, 1] with reqs := [], syncs := [{ aSync [0, 1] with asked := [(1, 0)] }] } = [(1, 0)] := by decide +kernel
/-- The suspended context's cushion, fibre and a load that waits. -/
def asleep : State := withFib { ctlSet { spored with loads := [aLoad] } (offCTXCB 0) 8 with cushions := spored.cushions.map (fun c => { c with saved := true }) }
  (fun f => { f with saved := true })
theorem witness_asleep : ctlF asleep (offCTXCB 0) 2 2 = 2 ∧ getLoad asleep 9 = some aLoad ∧ (theFib asleep).saved = true ∧ (theFib asleep).away = false ∧
    (theFib asleep).task = false ∧ (∃ d ∈ ctxCushions asleep 0, d.saved = true ∧ getCush asleep (theFib asleep).cush = some d) := by decide +kernel
theorem asleep_apart : FibresApart asleep := apart _ (by decide +kernel)

/-! ### Of the values of products, MQNT and ROUTE -/

/-- One pass over 2^24, 1 and 1 (R304). -/
theorem witness_passes : Passes .f32 48 0x4B800000 [1, 1] 0x4B800001 0 :=
  .pass 0x4B800000 (ratOf false 0x800000 1) 1 [1] (0x4B800001, 0) _ 0 ⟨_, _, _, by decide +kernel, rfl⟩
    ⟨false, 0x1000002, 0, by norm_num [ratOf], by decide, by decide +kernel⟩ (.done _)
def longCush : Cushion := { tiledCush with panel := some ⟨.f64, 1, 1, true, [[0x4000000000000000]], [[]]⟩ }
def mmaLong : MatOp := readOp (.mma plain .f64 false 0 5 0) [5] [] .x [[], [[0x4008000000000000]], []]
theorem witness_long_product : floatProduct longCush mmaLong .f64 0 1 [[0x4008000000000000]] ∧ floatPanel mmaLong ⟨.f64, 1, 1, true, [[0x4000000000000000]], [[]]⟩ ∧
    floatProduct floatCush mmaFloat .bf16 0 1 [[0x3F80, 0x3F80]] ∧ floatPanel mmaFloat ⟨.s8, 1, 2, false, [[1, 1]], [[]]⟩ ∧
    rowNumbers .f64 [] [0x4008000000000000] [ratOf false 0x18000000000000 (-51)] ∧ longSound (pairLong longCush 0 0) ∧ (pairLong longCush 0 0).wrap = 0 := by
  refine ⟨by unfold floatProduct readsAll codesOf; decide +kernel, by unfold floatPanel codesOf; decide +kernel,
    by unfold floatProduct readsAll codesOf; decide +kernel, by unfold floatPanel codesOf; decide +kernel, ⟨rfl, fun j v h => ?_⟩,
    by unfold longSound; decide +kernel, by decide +kernel⟩
  match j, h with
  | 0, h => exact ⟨false, 0x18000000000000, -51, by decide +kernel, (Option.some.inj h).symm⟩
/-- 3 times 2 leaves 6 in the long accumulator (R138, R139). -/
theorem test_mma_long : (pairLong (doneOf (opResult longCush mmaLong)).1 0 0).l = 6 * 2 ^ 2176 := by decide +kernel
/-- MQNT into DS8 of 63, 1 and 1/8: the scales are 132 and 128, and only 1/8 takes the second (R134). -/
def dsCush : Cushion := { tiledCush with tiles := (List.range 16).map (fun i =>
  if i = 13 then aTileOf 1 48 18 14 .empty
  else if i = 14 then { aTileOf 1 2 4 0 .empty with w0 := BitVec.ofNat 64 (4096 + 32 * 2 ^ 19) }
  else if i = 15 then aTileOf 1 48 8 0 .ready else getTile tiledCush i) }
def dsRow : List Nat := 0x53E0 :: 0x3C00 :: 0x3000 :: List.replicate 45 0
def dsQuant : MatOp := { readOp (.mqnt plain .ds8 13 15 14 0) [15] [13] .z [[], [dsRow], []] with
  srcs := [(15, getTile dsCush 15)], dsts := [(13, getTile dsCush 13)] }
theorem witness_quantise_ds : readsAll dsQuant [dsRow] ∧ tlFmt (getTile dsCush 13) = .ds8 ∧ tileWords 524288 (getTile dsCush 13).w0 (getTile dsCush 13).w1 ∧
    tileWords 524288 (getTile dsCush 14).w0 (getTile dsCush 14).w1 ∧ bits (getTile dsCush 14).w1 11 11 = 48 / 24 ∧ bits (getTile dsCush 13).w1 0 11 = 1 := by
  unfold readsAll tileWords; decide +kernel
theorem test_mqnt_ds : (sideBytes (doneOf (opResult dsCush dsQuant)).1 (getTile dsCush 13) 0 0,
    (rowCodes (doneOf (opResult dsCush dsQuant)).1 (getTile dsCush 13) 0 0 48).take 4) = ([132, 128], [63, 1, 130, 0]) := by decide +kernel
/-- An infinite largest score makes every weight NaN in either mode (R328). -/
theorem test_route_infinite : routeWeights false [.inf false, .fin false 1 0] = ([0x7FC00000, 0x7FC00000], flNV) ∧
    routeWeights true [.inf false, .fin false 1 0] = ([0x7FC00000, 0x7FC00000], flNV) := by decide +kernel

end Sys2Proof.Tests
end

section
/-! PROOFS. Rules of the control space: a field read after a field was set, a register read after another was written; the
connection table at reset and after reset is released (R5, R23, R24). -/

namespace Sys2Proof.Machine

open Sys2Proof.Stmt

/-! ## Fields of a word -/

/-- A field that a write covers reads the value from its low bit on; the bits around it stay. -/
theorem getLsbD_setF (w : DWord) {lo n : Nat} (v i : Nat) (h : lo + n ≤ 64) :
    (setF w lo n v).getLsbD i = if lo ≤ i ∧ i < lo + n then v.testBit (i - lo) else w.getLsbD i := by
  have hbit : (setF w lo n v).getLsbD i = if i < 64 ∧ lo ≤ i ∧ i - lo < n then v.testBit (i - lo) else w.getLsbD i := by
    simp only [setF, BitVec.getLsbD_or, BitVec.getLsbD_and, BitVec.getLsbD_not, BitVec.getLsbD_ofNat, Nat.testBit_shiftLeft,
      Nat.testBit_two_pow_sub_one, Nat.testBit_mod_two_pow]
    by_cases hi : i < 64
    · by_cases hlo : lo ≤ i <;> by_cases hn : i - lo < n <;> simp [hi, hlo, hn]
    · simp [hi, BitVec.getLsbD_of_ge w i (by omega)]
  rw [hbit]
  congr 1
  simp only [eq_iff_iff]
  omega

theorem testBit_getF (w : DWord) (lo n i : Nat) : (getF w lo n).testBit i = (decide (i < n) && w.getLsbD (lo + i)) := by
  simp [getF, BitVec.getLsbD]

theorem getF_setF_same (w : DWord) {lo n : Nat} (v : Nat) (h : lo + n ≤ 64) : getF (setF w lo n v) lo n = v % 2 ^ n := by
  refine Nat.eq_of_testBit_eq fun i => ?_
  rw [testBit_getF, getLsbD_setF w v _ h, Nat.testBit_mod_two_pow]
  by_cases hi : i < n <;> simp [hi]

theorem getF_setF_of_disjoint (w : DWord) {lo n lo' n' : Nat} (v : Nat) (h : lo + n ≤ 64) (hd : lo' + n' ≤ lo ∨ lo + n ≤ lo') :
    getF (setF w lo n v) lo' n' = getF w lo' n' := by
  refine Nat.eq_of_testBit_eq fun i => ?_
  rw [testBit_getF, testBit_getF, getLsbD_setF w v _ h]
  by_cases hi : i < n'
  · rw [if_neg (by omega)]
  · simp [hi]

theorem getF_eq_div_mod (w : DWord) (lo n : Nat) : getF w lo n = w.toNat / 2 ^ lo % 2 ^ n := by
  rw [getF, Nat.shiftRight_eq_div_pow]

/-- The top two bits of a word need no mask. -/
theorem getF_top (w : DWord) : getF w 62 2 = w.toNat / 2 ^ 62 := by
  have := w.isLt
  rw [getF_eq_div_mod]
  omega

/-! ## Registers after a write to another -/

theorem ctlFind_ctlErase_of_ne {o o' : Nat} (h : o' ≠ o) (l : List (Nat × DWord)) : ctlFind (ctlErase l o) o' = ctlFind l o' := by
  induction l with
  | nil => rfl
  | cons p l ih =>
    by_cases hp : p.1 = o
    · simp [ctlErase, ctlFind, hp, h.symm]
    · simp [ctlErase, ctlFind, hp, ih]

theorem ctlFind_ctlInsert_of_ne {o o' : Nat} (h : o' ≠ o) (w : DWord) (l : List (Nat × DWord)) :
    ctlFind (ctlInsert l o w) o' = ctlFind l o' := by
  induction l with
  | nil => simp [ctlInsert, ctlFind, h.symm]
  | cons p l ih =>
    by_cases hp : o < p.1
    · simp [ctlInsert, ctlFind, hp, h.symm]
    · simp [ctlInsert, ctlFind, hp, ih]

/-- A write to one register leaves every other as it was. -/
theorem ctlW_ctlSet_of_ne (s : State) {o o' : Nat} (w : DWord) (h : o' ≠ o) : ctlW (ctlSet s o w) o' = ctlW s o' := by
  unfold ctlW ctlSet
  split
  · rw [ctlFind_ctlErase_of_ne h]
  · rw [ctlFind_ctlInsert_of_ne h, ctlFind_ctlErase_of_ne h]

/-- Reset release starts the package and writes the registers PKGID and LKBRIDGE alone (R16, R18). -/
theorem exec_resetRelease_of_not_running (pkgid : BitVec 12) (lkbridge : BitVec 5) {s : State} (h : s.running = false) :
    ∃ t, exec (.resetRelease pkgid lkbridge) s = .next t ∧ t.running = true ∧
      ∀ o, o ≠ offPKGID → o ≠ offLKBRIDGE → ctlW t o = ctlW s o := by
  have hexec : exec (.resetRelease pkgid lkbridge) s =
      .next { ctlSet (ctlSet s offPKGID (pkgid.setWidth 64)) offLKBRIDGE (lkbridge.setWidth 64) with running := true } := by
    change execResetRelease pkgid lkbridge s = _
    simp [execResetRelease, h]
  refine ⟨_, hexec, rfl, fun o hp hl => ?_⟩
  change ctlW (ctlSet (ctlSet s offPKGID _) offLKBRIDGE _) o = _
  rw [ctlW_ctlSet_of_ne _ _ hl, ctlW_ctlSet_of_ne _ _ hp]

/-! ## The connection table -/

theorem cregAt_offCONN {i : Nat} (h : i < 256) : cregAt (offCONN i) = some (.conn i) := by
  have hi : (0x10000 + 8 * i - 0x10000) / 8 = i := by omega
  simp (disch := omega) only [cregAt, offCONN, if_neg, if_pos, hi]

/-- The reset state lists no register, so that entry i reads its reset value. -/
theorem ctlW_reset_offCONN {i : Nat} (h : i < 256) : ctlW State.reset (offCONN i) = connDefault i := by
  change ctlReset (offCONN i) = _
  simp [ctlReset, cregAt_offCONN h, cregReset]

/-- The fields of an entry, as R23 lays them out. -/
theorem connOf_eq (s : State) (i : Nat) :
    connOf s i = ⟨ctlF s (offCONN i) 0 1, ctlF s (offCONN i) 1 3, ctlF s (offCONN i) 4 3, ctlF s (offCONN i) 7 3,
      ctlF s (offCONN i) 10 3, ctlF s (offCONN i) 16 32⟩ := by
  simp [connOf, ctlF, getF_eq_div_mod]

/-- Entry i of the default mesh is port i mod 8 of die i / 8 (R24). -/
theorem connOf_reset {i : Nat} (h : i < 64) :
    connOf State.reset i = ⟨1, i / 8, i % 8, if i % 8 < 7 then (i / 8 + i % 8 + 1) % 8 else i / 8 ^^^ 4,
      if i % 8 < 7 then 6 - i % 8 else 7, 0xFFFFFFFF⟩ := by
  have hdie : i / 8 % 2 ^ 3 = i / 8 := Nat.mod_eq_of_lt (by omega)
  have hport : i % 8 % 2 ^ 3 = i % 8 := Nat.mod_eq_of_lt (by omega)
  have hddie : (if i % 8 < 7 then (i / 8 + i % 8 + 1) % 8 else i / 8 ^^^ 4) % 2 ^ 3 =
      if i % 8 < 7 then (i / 8 + i % 8 + 1) % 8 else i / 8 ^^^ 4 := by
    refine Nat.mod_eq_of_lt ?_
    split
    · exact Nat.mod_lt _ (by decide)
    · exact Nat.xor_lt_two_pow (by omega) (by decide)
  have hdport : (if i % 8 < 7 then 6 - i % 8 else 7) % 2 ^ 3 = if i % 8 < 7 then 6 - i % 8 else 7 :=
    Nat.mod_eq_of_lt (by split <;> omega)
  rw [connOf_eq]
  simp only [ctlF, ctlW_reset_offCONN (show i < 256 by omega), connDefault, h, if_true]
  simp (disch := omega) only [getF_setF_same, getF_setF_of_disjoint, hdie, hport, hddie, hdport]
  rfl

/-- Every circuit of the default mesh has STATE open (R24). -/
theorem getF_connDefault_state {i : Nat} (h : i < 64) : getF (connDefault i) 62 2 = 2 := by
  simp [connDefault, h, getF_setF_same]

/-- STATE of an entry reads as stored while the package runs, and closed before. -/
theorem getF_ctlShown_conn_state (s : State) (i o : Nat) :
    getF (ctlShown s (.conn i) o) 62 2 = if s.running then ctlF s o 62 2 else 0 := by
  have hread : fieldsRead (cregFields (.conn i)) (ctlW s o) = ctlW s o := rfl
  simp only [ctlShown, hread, getF_setF_same _ _ (show 62 + 2 ≤ 64 by omega)]
  split
  · exact Nat.mod_eq_of_lt (Nat.mod_lt _ (by decide))
  · rfl

/-- Once reset is released, every circuit of the default mesh reads open (R24). -/
theorem ctlShown_conn_of_resetRelease {i : Nat} (pkgid : BitVec 12) (lkbridge : BitVec 5) (h : i < 64) :
    ∃ t, exec (.resetRelease pkgid lkbridge) State.reset = .next t ∧ getF (ctlShown t (.conn i) (offCONN i)) 62 2 = 2 := by
  obtain ⟨t, hexec, hrun, hkeep⟩ := exec_resetRelease_of_not_running pkgid lkbridge (s := State.reset) rfl
  have hword : ctlW t (offCONN i) = connDefault i := by
    rw [hkeep _ (by unfold offCONN offPKGID; omega) (by unfold offCONN offLKBRIDGE; omega), ctlW_reset_offCONN (by omega)]
  refine ⟨t, hexec, ?_⟩
  rw [getF_ctlShown_conn_state, if_pos hrun, ctlF, hword, getF_connDefault_state h]

/-- Settles O5: entry 8 * d + p is port p of die d in the default mesh, and the release of reset leaves the table alone. -/
theorem resetMeshJoinsEveryPairOfDies : Obligations.ResetMeshJoinsEveryPairOfDies := by
  unfold Obligations.ResetMeshJoinsEveryPairOfDies
  refine ⟨fun d p hd hp => ?ports, fun d hd => ?cross, fun i hlo hhi => ?rest, fun i pkg lk hi => ?opened⟩
  case ports =>
    have hq : (8 * d + p) / 8 = d := by omega
    have hr : (8 * d + p) % 8 = p := by omega
    rw [connOf_reset (by omega), hq, hr, if_pos hp, if_pos hp]
  case cross =>
    have hq : (8 * d + 7) / 8 = d := by omega
    have hr : (8 * d + 7) % 8 = 7 := by omega
    rw [connOf_reset (by omega), hq, hr, if_neg (by omega), if_neg (by omega)]
  case rest =>
    rw [ctlW_reset_offCONN hhi]
    exact if_neg (by omega)
  case opened =>
    obtain ⟨t, hexec, hopen⟩ := ctlShown_conn_of_resetRelease pkg lk hi
    exact ⟨t, hexec, by rw [← getF_top, hopen]⟩

end Sys2Proof.Machine
end

section
/-! PROOFS. Integer arithmetic: the model's operations of IALU are the rules' (R147 to R149), and an instruction whose operation agrees
with its row completes as the row says. -/

namespace Sys2Proof.Machine

open Sys2Proof.Safety Sys2Proof.Stmt

/-! ## Words of the operand width (R147) -/

/-- The low 32 or 64 bits of a word, as a result takes them. -/
def atWidth (w64 : Bool) (z : DWord) : DWord := if w64 then z else zext (lo32 z)

theorem toNat_lo32 (z : DWord) : (lo32 z).toNat = z.toNat % 2 ^ 32 := by simp [lo32]

theorem toNat_zext (v : Word) : (zext v).toNat = v.toNat := by
  have := v.isLt
  simp only [zext, BitVec.toNat_setWidth]
  omega

theorem getLsbD_lo32 (z : DWord) {i : Nat} (h : i < 32) : (lo32 z).getLsbD i = z.getLsbD i := by simp [lo32, h]

theorem testBit_lowW (w64 : Bool) (z : DWord) (i : Nat) : (lowW w64 z).testBit i = (decide (i < iw w64) && z.getLsbD i) := by
  simp [lowW, Nat.testBit_mod_two_pow, BitVec.getLsbD]

theorem iw_le (w64 : Bool) : iw w64 ≤ 64 := by cases w64 <;> decide

theorem toNat_atWidth (w64 : Bool) (z : DWord) : (atWidth w64 z).toNat = lowW w64 z := by
  have := z.isLt
  cases w64 with
  | false => exact (toNat_zext _).trans (toNat_lo32 z)
  | true => exact (Nat.mod_eq_of_lt this).symm

theorem atWidth_eq_ofN64 (w64 : Bool) (z : DWord) : atWidth w64 z = ofN64 (lowW w64 z) := by
  rw [← toNat_atWidth, ofN64, BitVec.ofNat_toNat, BitVec.setWidth_eq]

/-- What a row computes by one function of 32-bit words and one of 64-bit words, where both are one function F of the width and the
value. -/
theorem wide_eq_ofN64 {f : Word → Word} {g : DWord → DWord} {F : Nat → Nat → Nat} (hf : ∀ x, (f x).toNat = F 32 x.toNat)
    (hg : ∀ x, (g x).toNat = F 64 x.toNat) (w64 : Bool) (a : DWord) : wide w64 f g a = ofN64 (F (iw w64) (lowW w64 a)) := by
  have ha := a.isLt
  refine BitVec.eq_of_toNat_eq ?_
  cases w64 with
  | false =>
    have hlt := (f (lo32 a)).isLt
    simp only [wide, Bool.false_eq_true, if_false, toNat_zext, hf, toNat_lo32] at hlt ⊢
    simp only [iw, lowW, ofN64, BitVec.toNat_ofNat, Bool.false_eq_true, if_false]
    omega
  | true =>
    have hlt := (g a).isLt
    rw [hg] at hlt
    simp only [wide, if_true, hg, iw, lowW, ofN64, BitVec.toNat_ofNat, Nat.mod_eq_of_lt ha, Nat.mod_eq_of_lt hlt]

/-! ## Values and results of the type (R147) -/

/-- The model's v(z) is the rule's. -/
theorem iv_eq_num (w64 sgn : Bool) (z : DWord) : iv w64 sgn z = num w64 sgn z := by
  have := z.isLt
  cases w64 <;> cases sgn <;> simp [iv, num, iw, BitVec.toInt_eq_toNat_cond, toNat_lo32] <;> omega

theorem cut_eq_ofN64 (w64 : Bool) (z : Int) : cut w64 z = ofN64 (z % 2 ^ iw w64).toNat := by
  refine BitVec.eq_of_toNat_eq ?_
  cases w64 <;> simp [cut, ofN64, iw, toNat_zext] <;> omega

theorem atWidth_atWidth (w64 : Bool) (z : DWord) : atWidth w64 (atWidth w64 z) = atWidth w64 z := by
  cases w64
  · simp [atWidth, lo32_zext]
  · rfl

theorem topOf_eq (w64 sgn : Bool) : topOf w64 sgn = if sgn then 2 ^ (iw w64 - 1) - 1 else 2 ^ iw w64 - 1 := by
  cases w64 <;> cases sgn <;> rfl

theorem botOf_eq (w64 sgn : Bool) : botOf w64 sgn = if sgn then -(2 ^ (iw w64 - 1)) else 0 := by
  cases w64 <;> cases sgn <;> rfl

theorem botOf_lt_topOf (w64 sgn : Bool) : botOf w64 sgn < topOf w64 sgn := by
  cases w64 <;> cases sgn <;> decide

/-- The model's res(z) is the rule's: a clamp is one of two comparisons. -/
theorem ires_eq_fit (w64 sgn sat : Bool) (z : Int) : ires w64 sgn sat z = fit w64 sgn sat z := by
  have hlt := botOf_lt_topOf w64 sgn
  rw [fit, cut_eq_ofN64, ires, ← botOf_eq, ← topOf_eq]
  cases sat with
  | false => rfl
  | true =>
    have hclamp : max (botOf w64 sgn) (min (topOf w64 sgn) z) =
        if topOf w64 sgn < z then topOf w64 sgn else if z < botOf w64 sgn then botOf w64 sgn else z := by
      split
      · omega
      · split <;> omega
    simp only [if_true, hclamp, Bool.true_and, decide_eq_true_eq]

theorem ires_eq_cut (w64 sgn : Bool) (z : Int) : ires w64 sgn false z = cut w64 z := ires_eq_fit w64 sgn false z

theorem ires_iv (w64 sgn : Bool) (z : DWord) : ires w64 sgn false (iv w64 sgn z) = atWidth w64 z := by
  rw [ires_eq_cut, iv_eq_num]
  cases w64 <;> cases sgn <;> simp [cut, num, atWidth]

/-- The smaller value, as w bits. -/
theorem atWidth_ires_min (w64 sgn : Bool) (a b : DWord) :
    atWidth w64 (ires w64 sgn false (min (iv w64 sgn a) (iv w64 sgn b))) =
      atWidth w64 (if iv w64 sgn b < iv w64 sgn a then b else a) := by
  split
  · next h => rw [min_eq_right h.le, ires_iv, atWidth_atWidth]
  · next h => rw [min_eq_left (not_lt.1 h), ires_iv, atWidth_atWidth]

/-- The larger value, as w bits. -/
theorem atWidth_ires_max (w64 sgn : Bool) (a b : DWord) :
    atWidth w64 (ires w64 sgn false (max (iv w64 sgn a) (iv w64 sgn b))) =
      atWidth w64 (if iv w64 sgn a < iv w64 sgn b then b else a) := by
  split
  · next h => rw [max_eq_right h.le, ires_iv, atWidth_atWidth]
  · next h => rw [max_eq_left (not_lt.1 h), ires_iv, atWidth_atWidth]

/-! ## Division (R148) -/

theorem idivRem_eq_quotRem (w64 sgn sat : Bool) (a b : DWord) :
    idivRem w64 sgn sat a b = (cut w64 (quotRem w64 sgn sat a b).1, cut w64 (quotRem w64 sgn sat a b).2) := by
  simp only [idivRem, quotRem, iv_eq_num, ← cut_eq_ofN64]
  have hones : (2 : Int) ^ iw w64 - 1 = if w64 then 0xFFFFFFFFFFFFFFFF else 0xFFFFFFFF := by cases w64 <;> rfl
  have hbot : -(2 : Int) ^ (iw w64 - 1) = botOf w64 true := (botOf_eq w64 true).symm
  have htop : (2 : Int) ^ (iw w64 - 1) - 1 = topOf w64 true := (topOf_eq w64 true).symm
  have hzero : (0 : DWord) = cut w64 0 := by cases w64 <;> rfl
  have hrem : num w64 sgn a - (num w64 sgn a).tdiv (num w64 sgn b) * num w64 sgn b = (num w64 sgn a).tmod (num w64 sgn b) := by
    rw [Int.tmod_def, Int.mul_comm]
  simp only [Bool.and_eq_true, decide_eq_true_eq, and_assoc, hones, hbot, htop, hrem]
  split
  · rfl
  · split
    · exact Prod.ext rfl hzero
    · rfl

/-! ## Shifts (R149) -/

theorem shlW_eq_wide (w64 : Bool) (a : DWord) (n : Nat) : shlW w64 a n = wide w64 (· <<< n) (· <<< n) a := by
  have key : ∀ {w : Nat} (x : BitVec w), (x <<< n).toNat = if w ≤ n then 0 else x.toNat * 2 ^ n % 2 ^ w := by
    intro w x
    split
    · next h => rw [BitVec.shiftLeft_eq_zero h, BitVec.toNat_zero]
    · rw [BitVec.toNat_shiftLeft, Nat.shiftLeft_eq]
  rw [wide_eq_ofN64 (F := fun w x => if w ≤ n then 0 else x * 2 ^ n % 2 ^ w) key key, shlW]
  split <;> rfl

theorem shrW_eq_wide (w64 : Bool) (a : DWord) (n : Nat) : shrW w64 a n = wide w64 (· >>> n) (· >>> n) a := by
  have key : ∀ {w : Nat} (x : BitVec w), (x >>> n).toNat = if w ≤ n then 0 else x.toNat / 2 ^ n := by
    intro w x
    split
    · next h => rw [BitVec.ushiftRight_eq_zero h, BitVec.toNat_zero]
    · rw [BitVec.toNat_ushiftRight, Nat.shiftRight_eq_div_pow]
  rw [wide_eq_ofN64 (F := fun w x => if w ≤ n then 0 else x / 2 ^ n) key key, shrW]
  split <;> rfl

theorem wide_sshiftRight (w64 : Bool) (a : DWord) (n : Nat) :
    wide w64 (·.sshiftRight n) (·.sshiftRight n) a = cut w64 (num w64 true a / 2 ^ n) := by
  cases w64 <;> simp [wide, cut, num, BitVec.sshiftRight_eq, Int.shiftRight_eq_div_pow]

/-- Of a value of k + 1 bits with sign, the sign alone is left after a shift by k or more. -/
theorem ediv_two_pow_of_le {z : Int} {k n : Nat} (hlo : -(2 ^ k) ≤ z) (hhi : z < 2 ^ k) (h : k ≤ n) : z / 2 ^ n = z / 2 ^ k := by
  have hpow : (2 : Int) ^ k ≤ 2 ^ n := by exact_mod_cast Nat.pow_le_pow_right (by decide) h
  have hpos : (0 : Int) < 2 ^ k := by positivity
  rcases lt_or_ge z 0 with hz | hz
  · rw [Int.ediv_eq_neg_one_of_neg_of_le hz (by omega), Int.ediv_eq_neg_one_of_neg_of_le hz (by omega)]
  · rw [Int.ediv_eq_zero_of_lt hz (by omega), Int.ediv_eq_zero_of_lt hz hhi]

theorem num_signed_bounds (w64 : Bool) (a : DWord) : -(2 ^ (iw w64 - 1)) ≤ num w64 true a ∧ num w64 true a < 2 ^ (iw w64 - 1) := by
  cases w64
  · exact ⟨BitVec.le_toInt (lo32 a), BitVec.toInt_lt⟩
  · exact ⟨BitVec.le_toInt a, BitVec.toInt_lt⟩

theorem sarW_eq_wide (w64 : Bool) (a : DWord) (n : Nat) : sarW w64 a n = wide w64 (·.sshiftRight n) (·.sshiftRight n) a := by
  obtain ⟨hlo, hhi⟩ := num_signed_bounds w64 a
  rw [wide_sshiftRight, sarW, iv_eq_num, ← cut_eq_ofN64]
  rcases le_total n (iw w64 - 1) with h | h
  · rw [min_eq_left h]
  · rw [min_eq_right h, ediv_two_pow_of_le hlo hhi h]

/-- The bits shifted out on the left come in on the right. -/
theorem toNat_rotateLeft_eq_add {w : Nat} (hw : 0 < w) (x : BitVec w) (n : Nat) :
    (x.rotateLeft n).toNat = x.toNat * 2 ^ (n % w) % 2 ^ w + x.toNat / 2 ^ (w - n % w) := by
  have hk : n % w < w := Nat.mod_lt _ hw
  have hsplit : 2 ^ w = 2 ^ (n % w) * 2 ^ (w - n % w) := by rw [← Nat.pow_add]; congr 1; omega
  have hhigh : x.toNat / 2 ^ (w - n % w) < 2 ^ (n % w) := by
    rw [Nat.div_lt_iff_lt_mul (Nat.two_pow_pos _), ← hsplit]
    exact x.isLt
  have hlow : x.toNat * 2 ^ (n % w) % 2 ^ w = 2 ^ (n % w) * (x.toNat % 2 ^ (w - n % w)) := by
    rw [Nat.mul_comm, hsplit, Nat.mul_mod_mul_left]
  rw [BitVec.toNat_rotateLeft, Nat.shiftLeft_eq, Nat.shiftRight_eq_div_pow, hlow, Nat.two_pow_add_eq_or_of_lt hhigh]

theorem rotW_eq_wide (w64 : Bool) (a : DWord) (n : Nat) : rotW w64 a n = wide w64 (·.rotateLeft n) (·.rotateLeft n) a :=
  (wide_eq_ofN64 (F := fun w x => x * 2 ^ (n % w) % 2 ^ w + x / 2 ^ (w - n % w)) (fun x => toNat_rotateLeft_eq_add (by decide) x n)
    (fun x => toNat_rotateLeft_eq_add (by decide) x n) w64 a).symm

/-! ## Bit fields (R149) -/

theorem bfPos_eq (b : DWord) : bfPos b = (lo32 b).toNat % 256 := by
  rw [bfPos, getF_eq_div_mod, toNat_lo32]
  omega

theorem bfLen_eq (w64 : Bool) (b : DWord) : bfLen w64 b = min ((lo32 b).toNat / 256 % 256) (if w64 then 64 else 32) := by
  rw [bfLen, getF_eq_div_mod, toNat_lo32, iw]
  congr 1
  omega

/-- A field of n bits read with sign: from half of its range on, less the range. -/
theorem toInt_ofInt_eq_ite (n : Nat) (z : Int) :
    (BitVec.ofInt n z).toInt = if 0 < n ∧ 2 ^ (n - 1) ≤ z % 2 ^ n then z % 2 ^ n - 2 ^ n else z % 2 ^ n := by
  rw [BitVec.toInt_ofInt, Int.bmod_def]
  push_cast
  cases n with
  | zero => simp
  | succ k =>
    have hhalf : ((2 : Int) ^ (k + 1) + 1) / 2 = 2 ^ k := by omega
    simp only [hhalf, Nat.add_sub_cancel, Nat.succ_pos, true_and]
    split <;> split <;> omega

theorem toNat_ofInt_cast (n : Nat) (z : Int) : ((BitVec.ofInt n z).toNat : Int) = z % 2 ^ n := by
  rw [BitVec.toNat_ofInt, Int.toNat_of_nonneg (Int.emod_nonneg _ (by positivity))]
  push_cast
  rfl

theorem bfxW_eq_field (w64 sgn : Bool) (a b : DWord) : bfxW w64 sgn a b = field w64 sgn a b := by
  simp only [bfxW, field, iv_eq_num, toNat_ofInt_cast, toInt_ofInt_eq_ite, ← bfPos_eq, ← bfLen_eq, ← cut_eq_ofN64]
  congr 1
  cases sgn <;> simp

theorem cut_toNat (w64 : Bool) (z : DWord) : cut w64 z.toNat = atWidth w64 z := by
  cases w64
  · simp [cut, atWidth, lo32, BitVec.ofNat_toNat]
  · simp [cut, atWidth]

theorem testBit_mul_two_pow_mod (x pos w i : Nat) :
    (x * 2 ^ pos % 2 ^ w).testBit i = (decide (i < w) && (decide (pos ≤ i) && x.testBit (i - pos))) := by
  rw [← Nat.shiftLeft_eq, Nat.testBit_mod_two_pow, Nat.testBit_shiftLeft]

theorem bfiW_eq_insertF (w64 : Bool) (a b c : DWord) : bfiW w64 a b c = insertF w64 a b c := by
  have hw := iw_le w64
  simp only [bfiW, insertF, ← bfPos_eq, ← bfLen_eq]
  rw [cut_toNat, atWidth_eq_ofN64]
  congr 1
  refine Nat.eq_of_testBit_eq fun i => ?_
  simp only [testBit_lowW, testBit_mul_two_pow_mod, Nat.testBit_or, Nat.testBit_and, Nat.testBit_xor, Nat.testBit_two_pow_sub_one,
    BitVec.getLsbD_or, BitVec.getLsbD_and, BitVec.getLsbD_not, BitVec.getLsbD_shiftLeft, BitVec.getLsbD_ofNat]
  by_cases hi : i < iw w64
  · have h64 : i < 64 := by omega
    by_cases hp : bfPos b ≤ i
    · have hp' : i - bfPos b < iw w64 := by omega
      have hp64 : i - bfPos b < 64 := by omega
      simp [hi, h64, hp', hp64, Nat.not_lt.2 hp, hp]
    · simp [hi, h64, hp, Nat.not_le.1 hp]
  · simp [hi]

/-! ## Counts and the reverse of bits (R147) -/

theorem popcW_eq_countP (w64 : Bool) (a : DWord) :
    popcW w64 a = BitVec.ofNat 64 ((List.range (if w64 then 64 else 32)).countP (fun i => a.getLsbD i)) := by
  rw [List.countP_eq_length_filter]
  rfl

/-- The value of the low w + 1 bits is that of the low w bits and bit w. -/
theorem toNat_mod_two_pow_succ (a : DWord) (w : Nat) :
    a.toNat % 2 ^ (w + 1) = a.toNat % 2 ^ w + if a.getLsbD w then 2 ^ w else 0 := by
  rw [Nat.mod_pow_succ, BitVec.getLsbD, Nat.testBit_eq_decide_div_mod_eq]
  rcases Nat.mod_two_eq_zero_or_one (a.toNat / 2 ^ w) with h | h <;> simp [h]

theorem leadZeros_eq (a : DWord) (w : Nat) :
    leadZeros a w = if a.toNat % 2 ^ w = 0 then w else w - 1 - (a.toNat % 2 ^ w).log2 := by
  induction w with
  | zero => simp [leadZeros, Nat.mod_one]
  | succ w ih =>
    have hlt : a.toNat % 2 ^ w < 2 ^ w := Nat.mod_lt _ (Nat.two_pow_pos w)
    rw [leadZeros, toNat_mod_two_pow_succ, ih]
    by_cases hb : a.getLsbD w = true
    · have hlog : (a.toNat % 2 ^ w + 2 ^ w).log2 = w :=
        (Nat.log2_eq_iff (by omega)).2 ⟨by omega, by rw [Nat.pow_succ]; omega⟩
      simp [hb, hlog]
    · by_cases hz : a.toNat % 2 ^ w = 0
      · simp [hb, hz, Nat.add_comm]
      · have hlog : (a.toNat % 2 ^ w).log2 < w := (Nat.log2_lt hz).2 hlt
        simp only [hb, hz, Bool.false_eq_true, if_false, Nat.add_zero]
        omega

theorem clzW_eq_leadZeros (w64 : Bool) (a : DWord) : clzW w64 a = BitVec.ofNat 64 (leadZeros a (if w64 then 64 else 32)) := by
  rw [leadZeros_eq]
  rfl

theorem sumBy_eq_sum (f : Nat → Nat) (l : List Nat) : sumBy f l = (l.map f).sum := by
  have key : ∀ n, l.foldl (fun n a => n + f a) n = n + (l.map f).sum := by
    induction l with
    | nil => simp
    | cons a l ih => intro n; simp [ih, Nat.add_assoc]
  simpa [sumBy] using key 0

/-- Bit i of a word has the weight of bit w - 1 - i in its reverse. -/
theorem toNat_reverse_eq_sum {w : Nat} (x : BitVec w) :
    x.reverse.toNat = ((List.range w).map (fun i => if x.getLsbD i then 2 ^ (w - 1 - i) else 0)).sum := by
  induction w with
  | zero => simp [BitVec.reverse, BitVec.eq_nil x]
  | succ w ih =>
    have hmap : ∀ i ∈ List.range w, (if x.getLsbD i then 2 ^ (w + 1 - 1 - i) else 0) =
        (if (x.setWidth w).getLsbD i then 2 ^ (w - 1 - i) else 0) * 2 := by
      intro i hi
      have hi : i < w := List.mem_range.1 hi
      have hexp : w + 1 - 1 - i = w - 1 - i + 1 := by omega
      rw [BitVec.getLsbD_setWidth, hexp, Nat.pow_succ]
      cases x.getLsbD i <;> simp [hi]
    have hmsb : x.msb = x.getLsbD w := BitVec.msb_eq_getLsbD_last x
    rw [BitVec.reverse, BitVec.toNat_concat, ih, List.range_succ, List.map_append, List.sum_append, List.map_congr_left hmap,
      List.sum_map_mul_right, hmsb, List.map_singleton, List.sum_singleton]
    cases x.getLsbD w <;> simp

theorem brevW_eq_wide (w64 : Bool) (a : DWord) : brevW w64 a = wide w64 (·.reverse) (·.reverse) a := by
  refine BitVec.eq_of_toNat_eq ?_
  have key : ∀ {w : Nat} (x : BitVec w), (∀ i < w, x.getLsbD i = a.getLsbD i) →
      x.reverse.toNat = sumBy (fun i => if a.getLsbD i then 2 ^ (w - 1 - i) else 0) (List.range w) := by
    intro w x h
    rw [toNat_reverse_eq_sum, sumBy_eq_sum]
    exact congrArg List.sum (List.map_congr_left fun i hi => by rw [h i (List.mem_range.1 hi)])
  cases w64 with
  | false =>
    have hsum := key (lo32 a) fun i hi => getLsbD_lo32 a hi
    have hlt := (lo32 a).reverse.isLt
    simp only [wide, Bool.false_eq_true, if_false, toNat_zext, hsum, brevW, iw, ofN64, BitVec.toNat_ofNat] at hlt ⊢
    exact Nat.mod_eq_of_lt (hlt.trans (by decide))
  | true =>
    have hsum := key a fun _ _ => rfl
    have hlt := a.reverse.isLt
    simp only [wide, if_true, hsum, brevW, iw, ofN64, BitVec.toNat_ofNat] at hlt ⊢
    exact Nat.mod_eq_of_lt hlt

/-! ## What an instruction of IALU does -/

/-- What a row demands of the state after it depends on its value as a result of 32 or 64 bits, and on its flags. -/
theorem valueDone_congr {h : Hdr} {srcs : List SrcU} {d : Dst} {w64 : Bool} {v v' : BitVec 4 → Fibre → List DWord → DWord × BitVec 5}
    {s t : State} {ex : Ex}
    (hres : ∀ f, atWidth w64 (v (fctlOf s f) f (operands ex srcs f)).1 = atWidth w64 (v' (fctlOf s f) f (operands ex srcs f)).1)
    (hfl : ∀ f, (v (fctlOf s f) f (operands ex srcs f)).2 = (v' (fctlOf s f) f (operands ex srcs f)).2)
    (hdone : ValueDone ⟨h, srcs, d, w64, v⟩ s ex t) : ValueDone ⟨h, srcs, d, w64, v'⟩ s ex t := by
  have hres' : ValueRow.res ⟨h, srcs, d, w64, v⟩ s ex = ValueRow.res ⟨h, srcs, d, w64, v'⟩ s ex := funext hres
  have hfl' : ∀ f, (ValueRow.out ⟨h, srcs, d, w64, v⟩ s ex f).2 = (ValueRow.out ⟨h, srcs, d, w64, v'⟩ s ex f).2 := hfl
  have hlatch : ValueRow.latch ⟨h, srcs, d, w64, v⟩ s ex = ValueRow.latch ⟨h, srcs, d, w64, v'⟩ s ex := by
    simp only [ValueRow.latch, hres']
  have hentry : ValueRow.entry ⟨h, srcs, d, w64, v⟩ s ex = ValueRow.entry ⟨h, srcs, d, w64, v'⟩ s ex := by
    simp only [ValueRow.entry, hres']
  simpa only [ValueDone, hres', hfl', hlatch, hentry] using hdone

/-- An instruction that computes g of its operands and raises no flag completes as its row says, where g of what the lanes read is the
row's value at the operand width. -/
theorem exec_done_of_atWidth_eq {r : ValueRow} {i : Instr} {g : Fibre → List DWord → DWord} {s : State} {ex : Ex}
    (hr : ready s ex r.h r.shape = true)
    (hexec : exec i s = .next (valueExec i r.h r.srcs r.dst r.w64 (fun _ f vs => (g f vs, 0)) s))
    (hfl : ∀ fctl f, (r.val fctl f (operands ex r.srcs f)).2 = 0)
    (hval : ∀ fctl f, atWidth r.w64 (g f (operands ex r.srcs f)) = atWidth r.w64 (r.val fctl f (operands ex r.srcs f)).1) :
    ∃ t, exec i s = .next t ∧ ValueDone r s ex t :=
  ⟨_, hexec, valueDone_congr (v := fun _ f vs => (g f vs, 0)) (fun f => hval _ f) (fun f => (hfl _ f).symm)
    (valueExec_done (r := { r with val := fun _ f vs => (g f vs, 0) }) hr)⟩

/-- As `exec_done_of_atWidth_eq`, where the values are the same at 64 bits. -/
theorem exec_done_of_eq {r : ValueRow} {i : Instr} {g : Fibre → List DWord → DWord} {s : State} {ex : Ex}
    (hr : ready s ex r.h r.shape = true)
    (hexec : exec i s = .next (valueExec i r.h r.srcs r.dst r.w64 (fun _ f vs => (g f vs, 0)) s))
    (hval : ∀ fctl f, r.val fctl f (operands ex r.srcs f) = (g f (operands ex r.srcs f), 0)) :
    ∃ t, exec i s = .next t ∧ ValueDone r s ex t :=
  exec_done_of_atWidth_eq hr hexec (fun fctl f => by rw [hval]) fun fctl f => by rw [hval]

/-- A source of 32 bits reads a zero-extended word (R84, R85). -/
theorem toNat_srcVal_s32 (ex : Ex) (f : Fibre) (ents : List (Nat × ChanEntry)) (n : Nat) (b : Src) :
    (srcVal ex f ents (s32 n b)).toNat = amount (srcVal ex f ents (s32 n b)) := by
  have key : ∀ v : Word, (zext v).toNat = amount (zext v) := fun v => by rw [amount, lo32_zext, toNat_zext]
  cases b with
  | x i => exact key _
  | g i => exact key _
  | b i => exact key _
  | h i pop =>
    simp only [srcVal, s32]
    split
    · split
      · exact key _
      · rfl
    · rfl

/-- The amount of a shift is what its operand B reads (R149). -/
theorem toNat_opv_one (ex : Ex) (f : Fibre) (a : SrcU) (n : Nat) (b : Src) :
    (opv (operands ex [a, s32 n b] f) 1).toNat = amount (opv (operands ex [a, s32 n b] f) 1) := toNat_srcVal_s32 ..

theorem getP_eq_true_iff (f : Fibre) (c : BitVec 3) : getP f c.toNat = true ↔ c = 0#3 ∨ f.pred.getLsbD c.toNat = true := by
  have hz : c.toNat = 0 ↔ c = 0#3 := BitVec.toNat_eq (y := 0#3) |>.symm
  unfold getP
  by_cases h : c = 0#3 <;> simp [hz, h]

/-- Settles O13: each minor's operation is its row's, so that the one rule of value instructions gives what it does. -/
theorem integerResultsAreTheRules : Obligations.IntegerResultsAreTheRules := by
  unfold Obligations.IntegerResultsAreTheRules
  intro s ex i r hrow hr
  cases hrow with
  | iadd | isub | imul | imad | imadw | ineg =>
    exact exec_done_of_eq hr rfl fun _ _ => by simp only [pure1, pure2, pure3, iv_eq_num, ires_eq_fit]
  | iabs => exact exec_done_of_eq hr rfl fun _ _ => by simp only [pure1, iv_eq_num, ires_eq_fit, Int.natCast_natAbs]
  | imulh => exact exec_done_of_eq hr rfl fun _ _ => by simp only [pure2, iv_eq_num, ires_eq_cut, iw]
  | idiv | irem => exact exec_done_of_eq hr rfl fun _ _ => by simp only [pure2, idivRem_eq_quotRem]
  | imin | imax | addmin | addmax =>
    exact exec_done_of_atWidth_eq hr rfl (fun _ _ => rfl) fun _ _ => by
      simp only [pure2, pure3, ← iv_eq_num, ← ires_eq_fit, atWidth_ires_min, atWidth_ires_max]
  | and | or | xor | andn | mov => exact exec_done_of_eq hr rfl fun _ _ => rfl
  | shl => exact exec_done_of_eq hr rfl fun _ _ => by simp only [pure2, shlW_eq_wide, toNat_opv_one]
  | shr => exact exec_done_of_eq hr rfl fun _ _ => by simp only [pure2, shrW_eq_wide, toNat_opv_one]
  | sar => exact exec_done_of_eq hr rfl fun _ _ => by simp only [pure2, sarW_eq_wide, toNat_opv_one]
  | rot => exact exec_done_of_eq hr rfl fun _ _ => by simp only [pure2, rotW_eq_wide, toNat_opv_one]
  | bfx => exact exec_done_of_eq hr rfl fun _ _ => by simp only [pure2, bfxW_eq_field]
  | bfi => exact exec_done_of_eq hr rfl fun _ _ => by simp only [pure3, bfiW_eq_insertF]
  | popc => exact exec_done_of_eq hr rfl fun _ _ => by simp only [pure1, popcW_eq_countP]
  | clz => exact exec_done_of_eq hr rfl fun _ _ => by simp only [pure1, clzW_eq_leadZeros]
  | brev => exact exec_done_of_eq hr rfl fun _ _ => by simp only [pure1, brevW_eq_wide]
  | sel => exact exec_done_of_eq hr rfl fun _ _ => by simp only [getP_eq_true_iff]

end Sys2Proof.Machine
end
